-- ==== Sys2Proof/Word.lean ====
section
/-! DEFINITION. The machine's words and their plainest arithmetic: bytes, 32-bit words and 64-bit
values (R4), and their readings as signed numbers. -/

namespace Sys2Proof

/-- A byte of memory. -/
abbrev Byte := BitVec 8
/-- A 32-bit word: an instruction word, a v register of one lane, a memory word. -/
abbrev Word32 := BitVec 32
/-- A 64-bit value: an s register, an address as the machine forms it. -/
abbrev Dbl := BitVec 64

/-- Bits hi down to lo of a natural number, as a number (R4). -/
def natBits (n hi lo : Nat) : Nat := (n >>> lo) % 2 ^ (hi + 1 - lo)

/-- Bit k of a natural number. -/
def natBit (n k : Nat) : Bool := n.testBit k

/-- n rounded up to a multiple of m. -/
def roundUp (n m : Nat) : Nat := (n + (m - 1)) / m * m

end Sys2Proof
end

