-- ==== Sys2Proof/Config.lean ====
section
/-! DEFINITION. What an implementation fixes and the spec leaves open: free values, opaque constants that no proof can
evaluate. A claim that mentions one holds whatever it is. -/

namespace Sys2Proof.Config

/-- The value a K7 gives for special function n (8 to 15, R118) at an input word: a fixed function, whose choice within
the bound is not published. SpecialFn.lean keeps it within the bound (log entry 10). -/
opaque specialFn : Nat → Word32 → Word32

/-- Whether a router has to drop the n-th packet that asks it to forward (R18): congestion is not modelled (entry 11). -/
opaque routerBlocks : Nat → Bool

/-- An outcome the spec allows to go one way or the other, the n-th time it is met (R216, R265, R370; entry 12). -/
opaque freeChoice : Nat → Bool

/-- A value the spec leaves open, the n-th time it is met (entry 12). -/
opaque freeWord : Nat → Word32

/-- The bank of its stack, and the row of the bank, that an HBM line lies in (R374 counts activations per row and names no
mapping; entry 12). -/
opaque hbmBank : Nat → Nat
opaque hbmRow : Nat → Nat

/-- The root of a function's stage-2 tables, by which the hub reads its queue-identifier table (R357 gives FQT1 an intermediate
address and names no root; entry 21). -/
opaque funcRoot : Nat → Nat

/-- The clk an HBM bank stays under a refresh or a refresh-management command, the n-th time (R374 gives no length; the model takes it
modulo 501, so that one of each ends within the 1,000 clk of R381; entry 12). -/
opaque rfmTime : Nat → Nat

/-- The clk that a quad's context takes through its shadow store's port of 128 bytes a clk, the n-th time (R340 bounds them by 29,000 and
R339 gives no image; the model takes it modulo 29,001; entry 97). -/
opaque portClk : Nat → Nat

/-- The switch that a Haled port's link goes through, and whether a route through a port reaches a group: the fabric's topology, which
R376 leaves to the system (entry 60). -/
opaque portSwitch : Nat → Nat
opaque portReaches : Nat → Nat → Bool

/-- Where a slot's configuration record lies in it (R397 gives no place; entry 23). -/
opaque recordAt : Nat → Nat

/-- Whether the keys and both signatures of a slot verify over given flash contents (R398: SHA-384, Ed25519 and ML-DSA-65 against
keys in the boot processor's ROM; entry 23). -/
opaque slotSigned : Nat → List (Nat × BitVec 8) → Bool

end Sys2Proof.Config
end

