-- ==== Sys2Proof/Syntax.lean ====
section
/-! DEFINITION. The instructions and steps of the Oxrak K7: one constructor for every row of
spec/opcode_table.json. An encoded instruction carries exactly the fields the table gives its row
(the letters are the table's; a field the table calls s is sc here and i is im, so that no
name hides the state); a step of the device that has no encoding carries the names of what it acts on. The steps
that the machine itself puts on its agenda stand before those that come from outside or within another step. -/

namespace Sys2Proof

/-- One constructor per row of the opcode table. -/
inductive Instr where
  /-- R72. Scalar 64-bit add of two sources into an s register. -/
  | sadd (c : Bool) (g : BitVec 3) (w : Bool) (d : BitVec 5) (a : BitVec 7) (b : BitVec 7)
  /-- R72. Scalar 64-bit subtract. -/
  | ssub (c : Bool) (g : BitVec 3) (w : Bool) (d : BitVec 5) (a : BitVec 7) (b : BitVec 7)
  /-- R72. Scalar multiply, low 64 bits of the product. -/
  | smul (c : Bool) (g : BitVec 3) (w : Bool) (d : BitVec 5) (a : BitVec 7) (b : BitVec 7)
  /-- R72. Scalar multiply, bits 127:64 of the signed product. -/
  | smulh (c : Bool) (g : BitVec 3) (w : Bool) (d : BitVec 5) (a : BitVec 7) (b : BitVec 7)
  /-- R73. Scalar signed divide truncated towards zero; a zero divisor gives 0 and sets DIVZ. -/
  | sdiv (c : Bool) (g : BitVec 3) (w : Bool) (d : BitVec 5) (a : BitVec 7) (b : BitVec 7)
  /-- R72. Scalar bitwise AND. -/
  | sand (c : Bool) (g : BitVec 3) (w : Bool) (d : BitVec 5) (a : BitVec 7) (b : BitVec 7)
  /-- R72. Scalar bitwise OR. -/
  | sor (c : Bool) (g : BitVec 3) (w : Bool) (d : BitVec 5) (a : BitVec 7) (b : BitVec 7)
  /-- R72. Scalar bitwise XOR. -/
  | sxor (c : Bool) (g : BitVec 3) (w : Bool) (d : BitVec 5) (a : BitVec 7) (b : BitVec 7)
  /-- R72. Scalar shift left by the whole 64-bit B value. -/
  | sshl (c : Bool) (g : BitVec 3) (w : Bool) (d : BitVec 5) (a : BitVec 7) (b : BitVec 7)
  /-- R72. Scalar logical shift right. -/
  | sshr (c : Bool) (g : BitVec 3) (w : Bool) (d : BitVec 5) (a : BitVec 7) (b : BitVec 7)
  /-- R72. Scalar arithmetic shift right. -/
  | ssra (c : Bool) (g : BitVec 3) (w : Bool) (d : BitVec 5) (a : BitVec 7) (b : BitVec 7)
  /-- R72. Scalar signed minimum. -/
  | smin (c : Bool) (g : BitVec 3) (w : Bool) (d : BitVec 5) (a : BitVec 7) (b : BitVec 7)
  /-- R72. Scalar signed maximum. -/
  | smax (c : Bool) (g : BitVec 3) (w : Bool) (d : BitVec 5) (a : BitVec 7) (b : BitVec 7)
  /-- R75. Selects A if the old s_D is nonzero, else B. -/
  | ssel (c : Bool) (g : BitVec 3) (w : Bool) (d : BitVec 5) (a : BitVec 7) (b : BitVec 7)
  /-- R80. Scalar compare of two sources writing a predicate in the group's guarded-on threads. -/
  | scmp (c : Bool) (g : BitVec 3) (w : Bool) (k : BitVec 3) (p : BitVec 3) (a : BitVec 7) (b : BitVec 7)
  /-- R74. Scalar move. -/
  | smov (c : Bool) (g : BitVec 3) (w : Bool) (d : BitVec 5) (a : BitVec 7)
  /-- R74. Scalar count of leading zero bits. -/
  | sclz (c : Bool) (g : BitVec 3) (w : Bool) (d : BitVec 5) (a : BitVec 7)
  /-- R74. Scalar population count. -/
  | spop (c : Bool) (g : BitVec 3) (w : Bool) (d : BitVec 5) (a : BitVec 7)
  /-- R76. Loads a sign-extended 14-bit immediate into an s register. -/
  | sli (c : Bool) (g : BitVec 3) (w : Bool) (d : BitVec 5) (n : BitVec 14)
  /-- R77. Zero-extends the low 32 bits of A into s_D. -/
  | slitLo (c : Bool) (g : BitVec 3) (w : Bool) (d : BitVec 5) (a : BitVec 7)
  /-- R77. Writes the low 32 bits of A into bits 63:32 of s_D. -/
  | slitHi (c : Bool) (g : BitVec 3) (w : Bool) (d : BitVec 5) (a : BitVec 7)
  /-- R79. Forms A plus four times the sign-extended low half of B. -/
  | saddr (c : Bool) (g : BitVec 3) (w : Bool) (d : BitVec 5) (a : BitVec 7) (b : BitVec 7)
  /-- R78. Scalar add of a sign-extended 7-bit immediate. -/
  | saddImm (c : Bool) (g : BitVec 3) (w : Bool) (d : BitVec 5) (a : BitVec 7) (im : BitVec 7)
  /-- R80. Scalar compare against a 7-bit immediate into a predicate. -/
  | scmpImm (c : Bool) (g : BitVec 3) (w : Bool) (k : BitVec 3) (p : BitVec 3) (a : BitVec 7) (im : BitVec 7)
  /-- R88. Per-lane 32-bit integer add. -/
  | vaddI32 (c : Bool) (g : BitVec 3) (w : Bool) (d : BitVec 6) (a : BitVec 7) (b : BitVec 7)
  /-- R93. Per-lane f32 add rounded by FPCTL.RM. -/
  | vaddF32 (c : Bool) (g : BitVec 3) (w : Bool) (d : BitVec 6) (a : BitVec 7) (b : BitVec 7)
  /-- R88. Per-lane integer subtract. -/
  | vsubI32 (c : Bool) (g : BitVec 3) (w : Bool) (d : BitVec 6) (a : BitVec 7) (b : BitVec 7)
  /-- R93. Per-lane f32 subtract. -/
  | vsubF32 (c : Bool) (g : BitVec 3) (w : Bool) (d : BitVec 6) (a : BitVec 7) (b : BitVec 7)
  /-- R88. Per-lane integer multiply, low 32 bits. -/
  | vmulI32 (c : Bool) (g : BitVec 3) (w : Bool) (d : BitVec 6) (a : BitVec 7) (b : BitVec 7)
  /-- R93. Per-lane f32 multiply. -/
  | vmulF32 (c : Bool) (g : BitVec 3) (w : Bool) (d : BitVec 6) (a : BitVec 7) (b : BitVec 7)
  /-- R88. Per-lane high half of the signed 64-bit product. -/
  | vmulhI32 (c : Bool) (g : BitVec 3) (w : Bool) (d : BitVec 6) (a : BitVec 7) (b : BitVec 7)
  /-- R88. Per-lane high half of the unsigned 64-bit product. -/
  | vmulhN32 (c : Bool) (g : BitVec 3) (w : Bool) (d : BitVec 6) (a : BitVec 7) (b : BitVec 7)
  /-- R88. Per-lane signed minimum. -/
  | vminI32 (c : Bool) (g : BitVec 3) (w : Bool) (d : BitVec 6) (a : BitVec 7) (b : BitVec 7)
  /-- R88. Per-lane unsigned minimum. -/
  | vminN32 (c : Bool) (g : BitVec 3) (w : Bool) (d : BitVec 6) (a : BitVec 7) (b : BitVec 7)
  /-- R95. Per-lane f32 minimum with NaN selection rules. -/
  | vminF32 (c : Bool) (g : BitVec 3) (w : Bool) (d : BitVec 6) (a : BitVec 7) (b : BitVec 7)
  /-- R88. Per-lane signed maximum. -/
  | vmaxI32 (c : Bool) (g : BitVec 3) (w : Bool) (d : BitVec 6) (a : BitVec 7) (b : BitVec 7)
  /-- R88. Per-lane unsigned maximum. -/
  | vmaxN32 (c : Bool) (g : BitVec 3) (w : Bool) (d : BitVec 6) (a : BitVec 7) (b : BitVec 7)
  /-- R95. Per-lane f32 maximum. -/
  | vmaxF32 (c : Bool) (g : BitVec 3) (w : Bool) (d : BitVec 6) (a : BitVec 7) (b : BitVec 7)
  /-- R93. Per-lane fused multiply-add into the old D with one rounding. -/
  | vfmaF32 (c : Bool) (g : BitVec 3) (w : Bool) (d : BitVec 6) (a : BitVec 7) (b : BitVec 7)
  /-- R88. Per-lane integer multiply-add into the old D. -/
  | vmadI32 (c : Bool) (g : BitVec 3) (w : Bool) (d : BitVec 6) (a : BitVec 7) (b : BitVec 7)
  /-- R88. Per-lane bitwise AND. -/
  | vand (c : Bool) (g : BitVec 3) (w : Bool) (d : BitVec 6) (a : BitVec 7) (b : BitVec 7)
  /-- R88. Per-lane bitwise OR. -/
  | vor (c : Bool) (g : BitVec 3) (w : Bool) (d : BitVec 6) (a : BitVec 7) (b : BitVec 7)
  /-- R88. Per-lane bitwise XOR. -/
  | vxor (c : Bool) (g : BitVec 3) (w : Bool) (d : BitVec 6) (a : BitVec 7) (b : BitVec 7)
  /-- R88. Per-lane shift left. -/
  | vshl (c : Bool) (g : BitVec 3) (w : Bool) (d : BitVec 6) (a : BitVec 7) (b : BitVec 7)
  /-- R88. Per-lane logical shift right. -/
  | vshr (c : Bool) (g : BitVec 3) (w : Bool) (d : BitVec 6) (a : BitVec 7) (b : BitVec 7)
  /-- R88. Per-lane arithmetic shift right. -/
  | vsra (c : Bool) (g : BitVec 3) (w : Bool) (d : BitVec 6) (a : BitVec 7) (b : BitVec 7)
  /-- R90. Per-lane select of A or B by the predicate named in G. -/
  | vsel (c : Bool) (g : BitVec 3) (w : Bool) (d : BitVec 6) (a : BitVec 7) (b : BitVec 7)
  /-- R89. Per-lane move. -/
  | vmov (c : Bool) (g : BitVec 3) (w : Bool) (d : BitVec 6) (a : BitVec 7)
  /-- R89. Per-lane integer absolute value, saturating with SAT. -/
  | vabsI32 (c : Bool) (g : BitVec 3) (w : Bool) (d : BitVec 6) (a : BitVec 7)
  /-- R89. Clears the f32 sign bit. -/
  | vabsF32 (c : Bool) (g : BitVec 3) (w : Bool) (d : BitVec 6) (a : BitVec 7)
  /-- R89. Per-lane integer negate, saturating with SAT. -/
  | vnegI32 (c : Bool) (g : BitVec 3) (w : Bool) (d : BitVec 6) (a : BitVec 7)
  /-- R89. Inverts the f32 sign bit. -/
  | vnegF32 (c : Bool) (g : BitVec 3) (w : Bool) (d : BitVec 6) (a : BitVec 7)
  /-- R89. Per-lane leading-zero count. -/
  | vclz (c : Bool) (g : BitVec 3) (w : Bool) (d : BitVec 6) (a : BitVec 7)
  /-- R89. Per-lane population count. -/
  | vpop (c : Bool) (g : BitVec 3) (w : Bool) (d : BitVec 6) (a : BitVec 7)
  /-- R117. Per-lane f32 reciprocal within 1 ulp. -/
  | frcp (c : Bool) (g : BitVec 3) (w : Bool) (d : BitVec 6) (a : BitVec 7)
  /-- R117. Per-lane f32 reciprocal square root. -/
  | frsq (c : Bool) (g : BitVec 3) (w : Bool) (d : BitVec 6) (a : BitVec 7)
  /-- R117. Per-lane correctly rounded f32 square root. -/
  | fsqrt (c : Bool) (g : BitVec 3) (w : Bool) (d : BitVec 6) (a : BitVec 7)
  /-- R117. Per-lane f32 base-2 exponential. -/
  | fexp2 (c : Bool) (g : BitVec 3) (w : Bool) (d : BitVec 6) (a : BitVec 7)
  /-- R117. Per-lane f32 base-2 logarithm. -/
  | flog2 (c : Bool) (g : BitVec 3) (w : Bool) (d : BitVec 6) (a : BitVec 7)
  /-- R117. Per-lane f32 sine. -/
  | fsin (c : Bool) (g : BitVec 3) (w : Bool) (d : BitVec 6) (a : BitVec 7)
  /-- R117. Per-lane f32 cosine. -/
  | fcos (c : Bool) (g : BitVec 3) (w : Bool) (d : BitVec 6) (a : BitVec 7)
  /-- R117. Per-lane f32 hyperbolic tangent. -/
  | ftanh (c : Bool) (g : BitVec 3) (w : Bool) (d : BitVec 6) (a : BitVec 7)
  /-- R91. Per-lane signed compare into a predicate. -/
  | vcmpI32 (c : Bool) (g : BitVec 3) (w : Bool) (k : BitVec 3) (p : BitVec 3) (a : BitVec 7) (b : BitVec 7)
  /-- R91. Per-lane unsigned compare into a predicate. -/
  | vcmpN32 (c : Bool) (g : BitVec 3) (w : Bool) (k : BitVec 3) (p : BitVec 3) (a : BitVec 7) (b : BitVec 7)
  /-- R91. Per-lane f32 compare into a predicate. -/
  | vcmpF32 (c : Bool) (g : BitVec 3) (w : Bool) (k : BitVec 3) (p : BitVec 3) (a : BitVec 7) (b : BitVec 7)
  /-- R88. Per-lane signed clamp of the old D to [A, B]. -/
  | vclampI32 (c : Bool) (g : BitVec 3) (w : Bool) (d : BitVec 6) (a : BitVec 7) (b : BitVec 7)
  /-- R95. Per-lane f32 clamp of the old D. -/
  | vclampF32 (c : Bool) (g : BitVec 3) (w : Bool) (d : BitVec 6) (a : BitVec 7) (b : BitVec 7)
  /-- R102. Repeat prefix: loads or continues REPCTL and issues the following word up to 64 times with stepped fields. -/
  | rep (t : BitVec 2) (x : Bool) (y : Bool) (z : Bool) (n : BitVec 6)
  /-- R109. Cross-lane shuffle by per-lane index once all members are parked. -/
  | xshuf (c : Bool) (g : BitVec 3) (w : Bool) (d : BitVec 6) (a : BitVec 7) (b : BitVec 7)
  /-- R109. Cross-lane rotate by a uniform amount. -/
  | xrot (c : Bool) (g : BitVec 3) (w : Bool) (d : BitVec 6) (a : BitVec 7) (b : BitVec 7)
  /-- R109. Broadcasts one lane's value to every active lane. -/
  | xbcast (c : Bool) (g : BitVec 3) (w : Bool) (d : BitVec 6) (a : BitVec 7) (b : BitVec 7)
  /-- R109. Reads the lowest active lane's value pair into an s register. -/
  | xfirst (c : Bool) (g : BitVec 3) (w : Bool) (d : BitVec 5) (a : BitVec 7) (b : BitVec 7)
  /-- R110. Ballot, any, all or uniform vote of the active lanes into an s register. -/
  | xvote (c : Bool) (g : BitVec 3) (w : Bool) (d : BitVec 5) (a : BitVec 7) (m : BitVec 2)
  /-- R113. Reduces active lanes over a fixed pairwise tree and writes the root to every active lane. -/
  | xreduce (c : Bool) (g : BitVec 3) (w : Bool) (d : BitVec 6) (a : BitVec 7) (t : BitVec 2) (o : BitVec 4)
  /-- R114. Inclusive or exclusive scan of active lanes over the fixed tree. -/
  | xscan (c : Bool) (g : BitVec 3) (w : Bool) (d : BitVec 6) (a : BitVec 7) (x : Bool) (t : BitVec 2) (o : BitVec 4)
  /-- R111. Counts lower active lanes whose A AND B is nonzero. -/
  | xcount (c : Bool) (g : BitVec 3) (w : Bool) (d : BitVec 6) (a : BitVec 7) (b : BitVec 7)
  /-- R135. Converts f32 to the format named by CODE with a fixed rounding mode. -/
  | cvtEnc (c : Bool) (g : BitVec 3) (w : Bool) (d : BitVec 6) (a : BitVec 7) (r : BitVec 2) (k : BitVec 4)
  /-- R135. Converts a lane field of the named format to f32. -/
  | cvtDec (c : Bool) (g : BitVec 3) (w : Bool) (d : BitVec 6) (a : BitVec 7) (p : BitVec 2) (k : BitVec 4)
  /-- R136. Encodes f32 through a tensor-mode format slot with scale and zero-point. -/
  | cvtsEnc (c : Bool) (g : BitVec 3) (w : Bool) (d : BitVec 6) (a : BitVec 7) (r : BitVec 2) (sc : BitVec 3)
  /-- R136. Decodes a lane field through a tensor-mode format slot to f32. -/
  | cvtsDec (c : Bool) (g : BitVec 3) (w : Bool) (d : BitVec 6) (a : BitVec 7) (p : BitVec 2) (sc : BitVec 3)
  /-- R137. Gathers plane k of 32 bytes held in eight registers into one word. -/
  | plpack (c : Bool) (g : BitVec 3) (w : Bool) (d : BitVec 6) (a : BitVec 7) (k : BitVec 3)
  /-- R138. Rebuilds four elements from p planes held in registers. -/
  | plunpack (c : Bool) (g : BitVec 3) (w : Bool) (d : BitVec 6) (a : BitVec 7) (p : BitVec 3) (j : BitVec 3)
  /-- R139. Shifts, truncates or rounds each byte to p planes. -/
  | plane (c : Bool) (g : BitVec 3) (w : Bool) (d : BitVec 6) (a : BitVec 7) (m : BitVec 2) (p : BitVec 3)
  /-- R140. Reads one word of a format slot into every active lane. -/
  | fmtq (c : Bool) (g : BitVec 3) (w : Bool) (d : BitVec 6) (f : BitVec 2) (sc : BitVec 3)
  /-- R151. All-or-nothing claim of FREE operand slots in the named arrays, writing success to a predicate. -/
  | mclaim (c : Bool) (g : BitVec 3) (w : Bool) (p : BitVec 3) (a : BitVec 7) (m : BitVec 4)
  /-- R152. Frees named operand slots at once or when their last reader finishes. -/
  | mrelease (c : Bool) (g : BitVec 3) (a : BitVec 7) (m : BitVec 4)
  /-- R153. Vector write of lane values into a CLAIMED operand slot, setting word-valid bits. -/
  | mload (c : Bool) (g : BitVec 3) (d : BitVec 6) (a : BitVec 7) (sc : BitVec 3)
  /-- R156. Queues a clear of an accumulator bank and sets its kind. -/
  | mzero (c : Bool) (g : BitVec 3) (k : Bool) (b : Bool) (m : BitVec 4)
  /-- R157. Checks and queues a 128x64 matrix multiply-accumulate in each named array. -/
  | mma (c : Bool) (g : BitVec 3) (y : BitVec 3) (x : BitVec 3) (a : BitVec 7) (t : Bool) (z : Bool) (b : Bool) (m : BitVec 4)
  /-- R171. Checks and queues a drain of a bank into scratchpad, clearing the output lines' presence. -/
  | mdrain (c : Bool) (g : BitVec 3) (r : BitVec 3) (o : BitVec 3) (a : BitVec 7) (l : Bool) (b : Bool) (m : BitVec 4)
  /-- R169. Queues a checksum check of a bank and stalls the starter until it completes. -/
  | mchk (c : Bool) (g : BitVec 3) (w : Bool) (p : BitVec 3) (b : Bool) (m : BitVec 4)
  /-- R176. Queues a write of each named array's heat tile position. -/
  | mheat (c : Bool) (g : BitVec 3) (a : BitVec 7) (m : BitVec 4)
  /-- R176. Queues a clear of each named array's heat tile position. -/
  | mheatOff (c : Bool) (g : BitVec 3) (m : BitVec 4)
  /-- R160. Stalls the starter until the named arrays finish, finish reading or have room. -/
  | mwait (c : Bool) (g : BitVec 3) (q : BitVec 2) (m : BitVec 4)
  /-- R186. Loads one word per lane from generic memory through the view cache and slices. -/
  | ld (c : Bool) (g : BitVec 3) (w : Bool) (d : BitVec 6) (a : BitVec 7) (b : BitVec 7)
  /-- R205. Translates and appends one log record per granule named by the active lanes. -/
  | st (c : Bool) (g : BitVec 3) (d : BitVec 6) (a : BitVec 7) (b : BitVec 7)
  /-- R189. Loads from the scratchpad, parking on absent lines. -/
  | lds (c : Bool) (g : BitVec 3) (w : Bool) (d : BitVec 6) (a : BitVec 7) (b : BitVec 7)
  /-- R188. Stores into the scratchpad in place. -/
  | sts (c : Bool) (g : BitVec 3) (d : BitVec 6) (a : BitVec 7) (b : BitVec 7)
  /-- R191. Loads from the heat window, locally or at the owning core. -/
  | ldx (c : Bool) (g : BitVec 3) (w : Bool) (d : BitVec 6) (a : BitVec 7) (b : BitVec 7)
  /-- R191. Stores into the heat window, locally or at the owning core. -/
  | stx (c : Bool) (g : BitVec 3) (d : BitVec 6) (a : BitVec 7) (b : BitVec 7)
  /-- R192. Loads a word of the own core's operand memory. -/
  | ldw (c : Bool) (g : BitVec 3) (w : Bool) (d : BitVec 6) (a : BitVec 7) (b : BitVec 7)
  /-- R192. Stores a word into a CLAIMED operand slot. -/
  | stw (c : Bool) (g : BitVec 3) (d : BitVec 6) (a : BitVec 7) (b : BitVec 7)
  /-- R190. Sets or clears scratchpad presence bits of the named lines, waking parked readers. -/
  | pres (c : Bool) (g : BitVec 3) (v : Bool) (a : BitVec 7)
  /-- R193. Enters a sealed region in every seal table copy and parks until its records are compacted and view caches dropped. -/
  | seal (c : Bool) (g : BitVec 3) (n : BitVec 5)
  /-- R194. Removes a sealed region from every seal table copy. -/
  | unseal (c : Bool) (g : BitVec 3) (n : BitVec 5)
  /-- R196. Prefetches lines into the view cache or home slice without faulting. -/
  | pref (c : Bool) (g : BitVec 3) (n : BitVec 5) (a : BitVec 7) (l : Bool)
  /-- R211. Binds a region to a sync object in every table copy, creating the object if needed. -/
  | bind (c : Bool) (g : BitVec 3) (n : BitVec 5) (a : BitVec 7)
  /-- R211. Removes a region from an object once its published records are done. -/
  | unbind (c : Bool) (g : BitVec 3) (n : BitVec 5) (a : BitVec 7)
  /-- R215. Acquires a sync object: takes VER and taints at the slice and drops its view-cache lines. -/
  | acq (c : Bool) (g : BitVec 3) (a : BitVec 7) (sc : BitVec 3)
  /-- R214. Releases a sync object: drains the log to T and publishes it at the home slice. -/
  | rel (c : Bool) (g : BitVec 3) (a : BitVec 7) (sc : BitVec 3)
  /-- R222. Workgroup-wide checkpoint that commits the node's records and rewrites the baton. -/
  | chkpt (c : Bool) (g : BitVec 3) (n : BitVec 5) (a : BitVec 7)
  /-- R223. Reads one value of the core's log state into an s register. -/
  | logq (c : Bool) (g : BitVec 3) (w : Bool) (d : BitVec 5) (a : BitVec 7)
  /-- R235. Parks until older accesses of the issuing threads are complete at the named scope. -/
  | fence (c : Bool) (g : BitVec 3) (sc : BitVec 3)
  /-- R237. Fence that also waits for engine words and optionally compaction and drops the view cache. -/
  | xfence (c : Bool) (g : BitVec 3) (o : Bool) (im : Bool) (sc : BitVec 3)
  /-- R243. Atomic add at the home slice returning the old value. -/
  | aadd (c : Bool) (g : BitVec 3) (w : Bool) (d : BitVec 6) (a : BitVec 7) (t : BitVec 2)
  /-- R243. Atomic minimum at the home slice. -/
  | amin (c : Bool) (g : BitVec 3) (w : Bool) (d : BitVec 6) (a : BitVec 7) (t : BitVec 2)
  /-- R243. Atomic maximum at the home slice. -/
  | amax (c : Bool) (g : BitVec 3) (w : Bool) (d : BitVec 6) (a : BitVec 7) (t : BitVec 2)
  /-- R243. Atomic bitwise AND. -/
  | aand (c : Bool) (g : BitVec 3) (w : Bool) (d : BitVec 6) (a : BitVec 7)
  /-- R243. Atomic bitwise OR. -/
  | aor (c : Bool) (g : BitVec 3) (w : Bool) (d : BitVec 6) (a : BitVec 7)
  /-- R243. Atomic bitwise XOR. -/
  | axor (c : Bool) (g : BitVec 3) (w : Bool) (d : BitVec 6) (a : BitVec 7)
  /-- R243. Atomic swap. -/
  | aswap (c : Bool) (g : BitVec 3) (w : Bool) (d : BitVec 6) (a : BitVec 7)
  /-- R243. Atomic compare-and-swap with the new value in D+1. -/
  | acas (c : Bool) (g : BitVec 3) (w : Bool) (d : BitVec 6) (a : BitVec 7)
  /-- R243. Atomic wrapping increment bounded by the operand. -/
  | ainc (c : Bool) (g : BitVec 3) (w : Bool) (d : BitVec 6) (a : BitVec 7)
  /-- R247. Slice reduce-add applied on arrival. -/
  | radd (c : Bool) (g : BitVec 3) (d : BitVec 6) (a : BitVec 7) (t : Bool)
  /-- R247. Holds a keyed reduce-add contribution pending for photo-finish summation. -/
  | raddPf (c : Bool) (g : BitVec 3) (d : BitVec 6) (a : BitVec 7) (t : Bool)
  /-- R247. Sums pending contributions of a word in key order into memory. -/
  | raddFlush (c : Bool) (g : BitVec 3) (a : BitVec 7)
  /-- R250. Contributes keyed values to an ordered accumulator object. -/
  | oadd (c : Bool) (g : BitVec 3) (d : BitVec 6) (a : BitVec 7) (b : BitVec 7)
  /-- R249. Activates an ordered accumulator object with count, type and result address. -/
  | orinit (c : Bool) (g : BitVec 3) (n : BitVec 5) (a : BitVec 7) (b : BitVec 7)
  /-- R258. Per-thread relative branch of the taking threads. -/
  | br (g : BitVec 3) (f : BitVec 21)
  /-- R258. Moves the whole issue group if any thread takes. -/
  | brp (g : BitVec 3) (f : BitVec 21)
  /-- R258. Jumps the taking threads to a code address in an s register. -/
  | jmp (g : BitVec 3) (a : BitVec 7)
  /-- R258. Pushes a return entry and branches the taking threads. -/
  | call (g : BitVec 3) (f : BitVec 21)
  /-- R258. Indirect call through an s register. -/
  | calli (g : BitVec 3) (a : BitVec 7)
  /-- R258. Pops the return stack of each taking thread. -/
  | ret (g : BitVec 3)
  /-- R259. Ends each taking thread, or the starter's run of its grid. -/
  | exit (g : BitVec 3)
  /-- R260. Safe point at which a pending pre-emption or slice end vacates the crew. -/
  | yield (g : BitVec 3)
  /-- R265. Parks the issuing threads until a future handle is not PENDING. -/
  | fwait (c : Bool) (g : BitVec 3) (h : BitVec 4)
  /-- R265. Writes to a predicate whether a handle is not PENDING. -/
  | ftest (c : Bool) (g : BitVec 3) (w : Bool) (p : BitVec 3) (h : BitVec 4)
  /-- R265. Sends a cancel to the engine of a pending handle. -/
  | fcancel (c : Bool) (g : BitVec 3) (h : BitVec 4)
  /-- R265. Copies one h register to another. -/
  | fmovHh (c : Bool) (g : BitVec 3) (w : Bool) (e : BitVec 4) (h : BitVec 4)
  /-- R265. Writes an h register's handle value into an s register. -/
  | fmovSh (c : Bool) (g : BitVec 3) (w : Bool) (d : BitVec 5) (h : BitVec 4)
  /-- R265. Imports a handle value from an s register into an h register. -/
  | fmovHs (c : Bool) (g : BitVec 3) (w : Bool) (e : BitVec 4) (a : BitVec 7)
  /-- R274. Hands a line copy between spaces to the copy engine and writes a future. -/
  | cpy (c : Bool) (g : BitVec 3) (w : Bool) (h : BitVec 4) (a : BitVec 7) (b : BitVec 7)
  /-- R275. Copy into a workgroup's register file or accumulators in the heat. -/
  | cpyw (c : Bool) (g : BitVec 3) (w : Bool) (h : BitVec 4) (a : BitVec 7) (b : BitVec 7)
  /-- R276. Loads an overlay into a frame, optionally continuing at its entry. -/
  | ovl (c : Bool) (g : BitVec 3) (w : Bool) (h : BitVec 4) (a : BitVec 7) (b : BitVec 7)
  /-- R277. Hands an indexed gather of elements to a gather channel. -/
  | gth (c : Bool) (g : BitVec 3) (w : Bool) (h : BitVec 4) (a : BitVec 7) (b : BitVec 7)
  /-- R279. Issues a collective of a group (all-reduce, reduce, broadcast, all-gather, reduce-scatter). -/
  | coll (c : Bool) (g : BitVec 3) (w : Bool) (h : BitVec 4) (a : BitVec 7) (y : Bool) (q : BitVec 2) (k : BitVec 3)
  /-- R282. Links a tx register to a destination rx, waiting for old flits' acknowledgement. -/
  | rlink (c : Bool) (g : BitVec 3) (r : BitVec 2) (a : BitVec 7)
  /-- R282. Unlinks a tx register or closes an rx register. -/
  | rclose (c : Bool) (g : BitVec 3) (x : Bool) (r : BitVec 2)
  /-- R298. Checks and sends a new baton to the dispatcher; status arrives later in s_D. -/
  | spawn (c : Bool) (g : BitVec 3) (w : Bool) (d : BitVec 5) (a : BitVec 7) (b : BitVec 7)
  /-- R300. Decrements a join counter at its slice, never below zero. -/
  | done (c : Bool) (g : BitVec 3) (w : Bool) (d : BitVec 5) (a : BitVec 7)
  /-- R301. Releases a tile buffer and sets it FULL. -/
  | tbfull (c : Bool) (g : BitVec 3) (a : BitVec 7)
  /-- R301. Sets a tile buffer EMPTY after older accesses. -/
  | tbempty (c : Bool) (g : BitVec 3) (a : BitVec 7)
  /-- R301. Parks until a tile buffer is FULL, then acquires it. -/
  | tbwait (c : Bool) (g : BitVec 3) (a : BitVec 7)
  /-- R297. Returns position and core of a heat core index. -/
  | heatid (c : Bool) (g : BitVec 3) (w : Bool) (d : BitVec 5) (a : BitVec 7)
  /-- R314. Arrives at a barrier-network episode of the named scope after an implied fence. -/
  | bar (c : Bool) (g : BitVec 3) (a : BitVec 7) (sc : BitVec 3)
  /-- R321. Initialises a scratchpad barrier object with a target count. -/
  | binit (c : Bool) (g : BitVec 3) (n : BitVec 5) (a : BitVec 7)
  /-- R321. Counts k arrivals at a barrier object, completing or overrunning a phase. -/
  | barrive (c : Bool) (g : BitVec 3) (w : Bool) (d : BitVec 5) (a : BitVec 7) (k : BitVec 4)
  /-- R322. Parks until the object's phase passes, it overruns or the bound expires. -/
  | bwait (c : Bool) (g : BitVec 3) (w : Bool) (d : BitVec 5) (a : BitVec 7) (t : BitVec 4)
  /-- R322. Tests a barrier object's phase or overrun into a predicate. -/
  | btest (c : Bool) (g : BitVec 3) (w : Bool) (p : BitVec 3) (a : BitVec 7)
  /-- R336. Reads a system register into an s register. -/
  | sysrd (c : Bool) (g : BitVec 3) (w : Bool) (d : BitVec 5) (n : BitVec 14)
  /-- R336. Writes an s register into a system register. -/
  | syswr (c : Bool) (g : BitVec 3) (d : BitVec 5) (n : BitVec 14)
  /-- R338. Reads a 64-bit word of the capability space. -/
  | caprd (c : Bool) (g : BitVec 3) (w : Bool) (d : BitVec 5) (a : BitVec 7)
  /-- R332. Waits for older results and delivers enabled sticky flags as ARITH or LATCH traps. -/
  | tfence (c : Bool) (g : BitVec 3)
  /-- R330. Writes TVAL and takes the USER trap. -/
  | trap (g : BitVec 3) (a : BitVec 7)
  /-- R334. Returns from the user handler to TPC and releases held threads. -/
  | tret (g : BitVec 3)
  /-- R330. Reads the flag word or a flag's lane mask. -/
  | flagrd (c : Bool) (g : BitVec 3) (w : Bool) (d : BitVec 5) (a : BitVec 7)
  /-- R330. Clears the selected sticky flags and their masks. -/
  | flagclr (c : Bool) (g : BitVec 3) (a : BitVec 7)
  /-- R341. Writes the crew's state to a memory image once all threads park. -/
  | ctxsave (c : Bool) (g : BitVec 3) (a : BitVec 7)
  /-- R341. Checks and restores the crew's state from a memory image. -/
  | ctxload (c : Bool) (g : BitVec 3) (a : BitVec 7)
  /-- R99. A multi-clk result is written at the end of its latency, releasing waiting words. -/
  | multiClkResultWrite (wg id : Nat)
  /-- R187. A line request's reply arrives; when the last completes, D is written in every active lane. -/
  | loadReply (op line : Nat)
  /-- R404. A request reaches its slice, is ordered with others of its clk and starts service or queues. -/
  | sliceRequestArrival (op line : Nat)
  /-- R201. A request's wait in a slice queue reaches the hold bound and it is bounced. -/
  | sliceHoldBoundExpiry (op line : Nat)
  /-- R374. A request's wait in an HBM controller queue reaches its bound and it is bounced. -/
  | hbmHoldBoundExpiry (op line : Nat)
  /-- R18. A router receives a packet and forwards it or drops it with a negative acknowledgement. -/
  | routerPacket (op line : Nat) (reply blocked : Bool)
  /-- R201. A bounce notice reaches the owner, which counts it and promotes veterans. -/
  | bounceNotice (op line cause : Nat)
  /-- R201. A bounced replay-store entry reissues after its delay. -/
  | replayReissue (op line : Nat)
  /-- R401. A walk's outcome reaches the requester: TLB fill and reissue, or bounce needing service. -/
  | walkOutcome (walk : Nat)
  /-- R390. The hub writes a stage-2 fault entry, advances S2FTAIL and raises S2FAULT. -/
  | stage2FaultEntryWrite (req : Nat)
  /-- R390. A stage-1 page request is sent as a PRI message of the owning function. -/
  | pageRequestMessage (req : Nat)
  /-- R401. A page reply reaches the walker: a success restarts the walk, a failure is passed on. -/
  | pageReplyAtWalker (req : Nat) (ok : Bool)
  /-- R401. A failure reply reaches the core or channel and the instruction or element fails. -/
  | pageFailureDelivery (req : Nat)
  /-- R191. A remote ldx or stx reaches the owning core, which serves it or replies with an absence notice. -/
  | heatWindowRequest (op line : Nat)
  /-- R191. An absence notice reaches the issuing core, which parks the threads and frees the entry. -/
  | absenceNotice (core owner line : Nat)
  /-- R191. A line with a wake mark becomes present and the owner's wake notice lets parked ldx reissue. -/
  | wakeNotice (core owner line : Nat)
  /-- R191. The owning core acknowledges a remote stx, completing it. -/
  | stxAcknowledge (op line : Nat)
  /-- R207. The log buffer drains up to four records per clk into the ring. -/
  | logBufferDrain (core : Nat)
  /-- R209. A store waiting for log room past 256 clk takes LOGFULL. -/
  | logWaitExpiry (op : Nat)
  /-- R214. A release reaches the object's home slice and publishes the log range or bounces. -/
  | releaseAtSlice (op : Nat)
  /-- R215. An acquire reaches the home slice, takes VER and taints, or bounces on taint overflow. -/
  | acquireAtSlice (op : Nat)
  /-- R214. The release reply reaches the core and younger words may issue. -/
  | releaseReply (op : Nat)
  /-- R215. The acquire reply sets the acquire-table entry and drops view-cache lines. -/
  | acquireReply (op : Nat)
  /-- R218. A node commits 40 clk after its last baton and taints finish, making its records compactable. -/
  | nodeCommit (part node : Nat)
  /-- R219. A compactor applies a committed record to its home line and marks it DONE. -/
  | compactorApply (core seq : Nat)
  /-- R243. An atomic line request is applied lane by lane at the slice or answered from the result table. -/
  | atomicAtSlice (op line : Nat)
  /-- R243. The last atomic reply writes D and drops the issuing core's lines. -/
  | atomicReply (op line : Nat)
  /-- R246. The requester's acknowledgement frees the slice result-table entry. -/
  | replyAcknowledgeNotice (op line : Nat)
  /-- R300. A counter reaching zero, or a waiter registered on zero, is told to the dispatcher. -/
  | joinWake (part counter : Nat)
  /-- R300. A spawned baton's WAITJ is registered at the counter's slice. -/
  | waiterRegistration (part baton : Nat)
  /-- R299. A spawn reaches the dispatcher and is queued or refused with a status. -/
  | spawnEntry (op : Nat)
  /-- R299. The spawn status reaches the core and is written to s_D. -/
  | spawnStatus (op status : Nat)
  /-- R292. The dispatcher chooses a core with room for an eligible baton and loads its overlay if needed. -/
  | batonPlacement (part : Nat)
  /-- R293. A placed baton claims its buffers and its crews begin with initial state. -/
  | batonStart (part baton : Nat) (cores : List Nat)
  /-- R295. A heat waiting HEATWAIT µs gets a reserved rectangle. -/
  | heatReservation (part grid : Nat)
  /-- R291. An eligible candidate's level rises by one for each 1,000 µs unplaced. -/
  | placementLevelAging (part baton : Nat)
  /-- R303. A baton finishes: result buffers set FULL, consumed inputs EMPTY, live count falls. -/
  | batonFinish (part baton : Nat)
  /-- R308. REMAIN reaches zero and the workgroup becomes due or its slice reloads. -/
  | timeSliceExpiry (wg : Nat)
  /-- R308. A due crew is vacated at its next safe point or boundary. -/
  | crewVacate (wg crew : Nat)
  /-- R311. A resumable baton's context is restored on a core with room. -/
  | batonResume (part baton : Nat) (cores : List Nat)
  /-- R407. A queued engine word gets a free channel and starts. -/
  | engineWordStart (word chan : Nat)
  /-- R274. A copy line read returns and the line is written, setting presence or word-valid bits. -/
  | engineLineWrite (word line : Nat)
  /-- R277. A gather channel reads and writes one element, or bounces it for translation. -/
  | gatherElement (word lane : Nat)
  /-- R262. An engine word completes: handles settle, the entry frees, a completion flit may be sent. -/
  | engineWordComplete (word : Nat)
  /-- R284. A flit reaches an rx and is accepted, discarded or dropped with a negative acknowledgement. -/
  | relayFlitArrival (flit : Nat)
  /-- R284. An acknowledgement reaches the sender and lowers TXOUT. -/
  | relayAcknowledge (flit : Nat) (refused : Bool)
  /-- R284. The sender resends from its oldest unacknowledged flit 8 clk after a negative acknowledgement. -/
  | relayResend (flit : Nat)
  /-- R317. An episode releases its participants a fixed time after the last arrival. -/
  | barrierEpisodeRelease (ep : Nat)
  /-- R155. A sequencer's head operation starts once token and presence hold, or takes back ballast. -/
  | macroOperationStart (core : Nat)
  /-- R346. An array's token request reaches the central pacer and joins its partition's queue. -/
  | tokenRequest (core : Nat)
  /-- R346. The pacer serves a head request by moving ballast or by a rise of L. -/
  | tokenServe (part : Nat)
  /-- R346. A grant reaches the array, which then holds a token. -/
  | tokenGrant (core : Nat)
  /-- R159. An mma steps a row of a chunk, or waits for presence when streamed. -/
  | mmaRowStep (core : Nat)
  /-- R159. The last row is written and the mma completes, clearing READERS. -/
  | mmaComplete (core : Nat)
  /-- R156. A 16-clk bank clear completes. -/
  | mzeroComplete (core : Nat)
  /-- R167. A bank check completes with pass, correction or an uncorrectable outcome. -/
  | checkComplete (core : Nat)
  /-- R174. A drain writes one output line and sets its presence. -/
  | drainLineWrite (core line : Nat)
  /-- R174. A drain completes 20 clk after its last line. -/
  | drainComplete (core : Nat)
  /-- R178. A SCRUB slot finishes clearing after 32 clk and becomes FREE. -/
  | slotScrubComplete (core slot : Nat)
  /-- R351. The pacer raises L by PIN as ballast before a pinned grid's first wave. -/
  | pinnedReserveBuild (part grid : Nat)
  /-- R374. An HBM bank is refreshed at its refresh window, holding its requests and resetting the window's per-row activation counts. -/
  | refresh (stack bank : Nat) (done : Bool)
  /-- R368. A hart reads a packet in two halves through translation and starts it. -/
  | packetRead (hart : Nat)
  /-- R364. A packet completes with a status, writes its signal word and may fault the queue. -/
  | packetComplete (qcb num status : Nat)
  /-- R355. A write at a watched line wakes a WAIT hart to re-evaluate its condition. -/
  | watchWake (hart : Nat)
  /-- R365. A WAIT packet's bound expires and it completes TIMEOUT. -/
  | waitTimeout (hart num : Nat)
  /-- R383. The 2 ms test passes or fails the quad. -/
  | inFieldTestComplete (quad : Nat) (pass : Bool)
  /-- R374. A slice-miss request reaches its HBM controller and is served or waits in the controller's queue. -/
  | hbmRequestArrival (op line : Nat)
  /-- R374. A row's activation count reaches THRESH and RFM is issued. -/
  | refreshManagement (stack bank row : Nat)
  /-- R392. RESETTING clears when the function-level reset ends. -/
  | functionResetComplete (func : Nat)
  /-- R383. A quad not clear after 50 ms skips the test. -/
  | inFieldTestSkip (quad : Nat)
  /-- R376. An idle Haled port sends an idle flit every 0.5 µs. -/
  | idleFlit (port : Nat)
  /-- R383. A quad's test falls due; placement stops and its workgroups are vacated. -/
  | inFieldTestDue (quad : Nat)
  /-- R294. An idle starter begins a grid's starter code when the quad receives a workgroup. -/
  | starterBegin (quad wg : Nat)
  /-- R310. The oldest shadow context moves to a spill slot by the copy engine. -/
  | contextSpill (quad : Nat)
  /-- R412. A parked group's condition holds and its clk issues again as a new issue group. -/
  | parkEnd (wg crew : Nat)
  /-- R102. One repeat of a rep sequence issues on the next slot of the crew's port and advances NEXT. -/
  | repeatIssue (wg crew : Nat)
  /-- R283. A write of TXn sends a flit on the linked relay, parking while four are unacknowledged. -/
  | transmitRegisterWrite (n : Nat) (v : BitVec 64)
  /-- R284. A read of RXn pops the oldest flit, parking while the rx is empty. -/
  | receiveRegisterRead (n : Nat) (d : BitVec 5) (w : Bool)
  /-- R103. A write of REPCTL that would leave NEXT above COUNT stores the value with VALID 0. -/
  | repctlWrite (v : BitVec 64)
  /-- R391. A stage-1 page response arrives and settles its request as success or DENIED1. -/
  | prgResponse (func index : Nat) (ok : Bool)
  /-- R391. A write of S2REPLY answers a stage-2 page request as success or DENIED2. -/
  | stage2ReplyWrite (v : BitVec 64)
  /-- R386. An ATS invalidation removes host-memory translations from the core TLBs. -/
  | atsInvalidation (addr bytes : Nat)
  /-- R386. A host CXL.mem write is applied in place at its home slice. -/
  | cxlMemWrite (pa : Nat) (bytes : List (BitVec 8))
  /-- R386. A host CXL.mem read is served at the home slice, with poison on an uncorrectable error. -/
  | cxlMemRead (pa len : Nat)
  /-- R220. A node and its tainted nodes are rolled back: records voided and batons re-queued. -/
  | nodeRollback (part node : Nat)
  /-- R340. A halted partition's quads write contexts to their shadow stores. -/
  | contextSave (part : Nat)
  /-- R279. An abort notice or timeout ends a collective with ABORTED at every participant. -/
  | collectiveAbort (part gid : Nat)
  /-- R322. A bwait bound of 2^(t+6) clk expires and the waiter wakes with status 1. -/
  | bwaitBoundExpiry (wg crew since : Nat)
  /-- R178. A streaming fault kills the workgroup: crews stop, arrays discard queues, slots scrub. -/
  | workgroupKill (wg addr : Nat)
  /-- R344. Each pacer clk spends due credit for one rise and one fall and adds RAMP. -/
  | pacerCreditTick
  /-- R348. An island's V/F step is paid for as H changes of L and then taken. -/
  | vfStep (island : Nat) (up : Bool)
  /-- R349. A new 1,250-clk ramp slot begins and waves may open in it. -/
  | rampSlotStart
  /-- R358. A NOTIFY write translates the QID and advances WRPTR or faults the queue. -/
  | notify (func q : Nat) (n : BitVec 64)
  /-- R369. Queue command that starts no further packet and ends the queue DESTROYED. -/
  | destroyDrain (func q : Nat) (pf : Bool)
  /-- R369. Queue command that kills every incomplete packet and grid of the queue. -/
  | destroyKill (func q : Nat) (pf : Bool)
  /-- R369. Queue command that returns a FAULTED or DESTROYED queue to IDLE or PENDING. -/
  | resume (func q : Nat) (pf : Bool)
  /-- R362. A pending queue is mapped to a free hart, unmapping an idle or blocked one if needed. -/
  | queueMap
  /-- R365. Packet that completes at start. -/
  | nop (hart : Nat)
  /-- R289. Packet that checks a launch record and expands the grid. -/
  | launch (hart : Nat)
  /-- R365. Packet that blocks the hart until a masked memory condition holds. -/
  | wait (hart : Nat)
  /-- R365. Packet that invalidates TLB and walk-cache entries of a range and stage. -/
  | inval (hart : Nat)
  /-- R365. Packet that writes a collective group table entry. -/
  | group (hart : Nat)
  /-- R309. Packet that asks for spatial pre-emption of k cores for priority Q. -/
  | preempt (hart : Nat)
  /-- R365. PART packet with sectors that creates a partition from halted unowned sectors. -/
  | partCreate (hart : Nat)
  /-- R365. PART packet with no sectors that dissolves a partition. -/
  | partDissolve (hart : Nat)
  /-- R371. An error is detected and corrected or withheld with an abort completion. -/
  | eccError (part source pa op : Nat) (correctable : Bool)
  /-- R373. Patrol scrub reads an HBM line. -/
  | patrolRead (pa : Nat) (bad : Bool)
  /-- R382. A core's rate-limiter bucket fills by QRATE per µs. -/
  | bucketFill (core : Nat)
  /-- R376. A port hears nothing for 2 µs and traffic moves to other ports. -/
  | linkFailure (port : Nat)
  /-- R376. Every link through a switch is down for 20 µs and routes avoid it. -/
  | switchFailure (switch : Nat)
  /-- R376. No route reaches a group for 200 µs. -/
  | groupFailure (grp : Nat)
  /-- R376. A package silent for 250 µs is named and its jobs' collectives and barriers abort. -/
  | namedFailure (pkg : Nat)
  /-- R378. A violation freezes the smallest master that caused it and logs FRZLOG. -/
  | violation (cause func unit crew : Nat)
  /-- R379. FRZCTL action resuming a frozen crew or channel. -/
  | thaw
  /-- R379. FRZCTL action ending a frozen crew or channel. -/
  | kill
  /-- R379. FRZCTL action clearing FRZLOG VALID and MORE. -/
  | acknowledge
  /-- R362. A queue pending 1,000 µs is mapped ahead of all others. -/
  | queuePendingAging (qcb : Nat)
  /-- R385. A paired-mode comparator mismatch rolls back the node. -/
  | comparatorMismatch (part node : Nat)
  /-- R392. A write of FRESET kills the function's queues, drains its partitions and clears freezes. -/
  | functionLevelReset (func : Nat)
  /-- R389. Unmasking an MSI-X vector with its pending bit set sends one message. -/
  | vectorUnmask (func vec : Nat)
  /-- R395. RESET_N low resets the K7 side; its rise starts boot. -/
  | resetN (level : Bool)
  /-- R395. A fall of PWROK acts as RESET_N. -/
  | pwrok (level : Bool)
  /-- R395. A regulator fault is paced as a V/F step down of every island. -/
  | vralertN
  /-- R396. The board controller passes regulator reports to the hub over MCTP. -/
  | telemetryReport (rail volts amps temp : Nat)
  /-- R398. The boot processor picks and verifies a firmware slot or enters recovery. -/
  | boot
  /-- R5. A write to a hub or system register with no row of its own sets its writable fields. -/
  | hubRegisterWrite (offset func : Nat) (bar2 : Bool) (v : BitVec 64)
  /-- R376. A flit arrives at a Haled port from another package, resetting the port's silence timer or being discarded when its sender is
  a named failure. -/
  | haledFlitArrival (port pkg : Nat)
  /-- R360. A QCB enters the cache and its tag, FUNC and reserved bits are checked. -/
  | qcbLoad (func q : Nat)
  /-- R386. A UCIe module that fails training or lane repair is left out, and the link runs on the remaining modules with proportionally
  less bandwidth. -/
  | laneRepair (module : Nat) (ok : Bool)
  /-- R386. The host IOMMU's reply to an ATS translation request for the host-memory range arrives and fills the core TLBs. -/
  | atsTranslationCompletion (core va pa : Nat) (ok : Bool)
  /-- R398. A write to board flash through the boot processor, refused when it targets the active slot, used to update the inactive slot
  and markers. -/
  | flashWrite (offset : Nat) (bytes : List (BitVec 8))
deriving DecidableEq, Repr

end Sys2Proof
end

