-- ==== Sys2Proof/Machine/State.lean ====
section
/-! DEFINITION. The state of the machine: every piece of state the spec gives a K7 package, as plain data, and the
state right after reset. Tables of like things (cores, quads, slices, partitions) are lists keyed by number, in
which an absent entry stands for the reset value; Ops.lean holds the reads and writes of them. -/

namespace Sys2Proof.Machine

/-- A memory: address and byte pairs, addresses strictly rising, no byte equal to what an unlisted one reads as. -/
abbrev Memory := List Host.Cell

/-- A program counter (R252): the frame and the word index within its 64 KiB. A starter keeps frame false. -/
structure Pc where
  frame : Bool
  word : BitVec 14
deriving DecidableEq, Repr

/-- An entry of a return stack (R253). -/
structure RetEntry where
  frame : Bool
  ovl : BitVec 8
  word : BitVec 14
deriving DecidableEq, Repr

/-- What a parked thread waits for (R412), as data; `Ops` says when it holds. -/
inductive PCond where
  /-- An X-pipe word: every member parked at one address (R105). -/
  | members
  /-- Scratchpad lines (core, line) present (R189). -/
  | present (lines : List (Nat × Nat))
  /-- A wake notice for an absent line of another core's share (R191). -/
  | woken (owner line : Nat)
  /-- Handle n of a crew not PENDING (R265). -/
  | settled (crew n : Nat)
  /-- A free completion-table entry and a place in the core's engine queue (R262, R268). -/
  | engineRoom
  /-- A flit in rx n (R284). -/
  | rxFlit (n : Nat)
  /-- Fewer than four unacknowledged flits on tx n (R283). -/
  | txRoom (n : Nat)
  /-- No unacknowledged flit on tx n (R282). -/
  | txClear (n : Nat)
  /-- A barrier object leaves phase p or overruns, or clk reaches the bound (R322). -/
  | object (off phase : Nat) (bound : Option Nat)
  /-- The named memory operations, engine words and results to be written have left the machine, and the core's committed
  records numbered below rec are DONE or VOID (R235, R237). -/
  | drained (ops words pends : List Nat) (rec : Nat)
  /-- The operation kept for the word has come to its end (R193, R211, R249). -/
  | opEnd (op : Nat)
  /-- No live record of a partition's logs in physical ranges (R193, R211). -/
  | clear (part : Nat) (ranges : List (Nat × Nat))
  /-- No live record published under an object in physical ranges (R211). -/
  | unpublished (obj : Nat) (ranges : List (Nat × Nat))
  /-- The tile buffer at a physical address is FULL (R301). -/
  | full (pa : Nat)
  /-- Every live thread of the crew parked at this word (R341). -/
  | crewHere
  /-- Every live crew of the workgroup or heat parked at a chkpt of this address, the node without taints (R222). -/
  | checkpoint
  /-- The barrier episode has released (R314). -/
  | episode (id : Nat)
  /-- The named results and flag-carrying replies of the crews' older words, or the named macro-operations of a starter, are in, and
  the last result of those crews was written 2 clk ago (R332, R411). -/
  | flagsIn (ops pends crews : List Nat)
  /-- A free channel of the quad's copy engine (R267, R341). -/
  | copyChannel
  /-- The array's queues fit the mask's condition (R154, R160). -/
  | arrays (mask : BitVec 4) (mode : Nat) (upto : List Nat)
deriving DecidableEq, Repr

/-- Whether a thread may issue (R254), waits at a parked word, or waits for a reply that holds back younger words. -/
inductive Wait where
  | ready
  | parked (c : PCond)
  | blocked (op : Nat)
deriving DecidableEq, Repr

/-- What a parked word keeps for its threads while they wait (R412): its address, the number its rule keeps (TAIL of an xfence, R237;
what a bwait found, R322), and the clk in which that was taken. -/
structure Note where
  at_ : Pc
  val : Nat
  clk : Nat
deriving DecidableEq, Repr

/-- A thread of a workgroup (R16, R252, R253, R255). Latches hold b0 first; the missing ones are lost (R38). since is the clk from
which it has waited, and stalled says that it was not ready when the picker last looked (R255); mark is the operation or episode that
its parked word has begun, and notes what the parked words of its clk keep (R412). -/
structure Thread where
  pc : Pc
  exited : Bool
  wait : Wait
  p : BitVec 7
  v : List Word32
  latches : List Word32
  rstack : List RetEntry
  since : Nat
  stalled : Bool
  notBefore : Nat
  mark : Option Nat
  notes : List Note
deriving DecidableEq, Repr

/-- What an h register holds (R262); a settled value keeps the engine word it came from, 0 for an imported one (R284). -/
inductive HReg where
  | empty
  | ref (entry gen : Nat)
  | settled (state status word : Nat)
deriving DecidableEq, Repr

/-- The destination of a linked tx register (R282). -/
structure Link where
  wg : Nat
  crew : Nat
  rx : Nat
deriving DecidableEq, Repr

/-- A tx register: link, link generation, next sequence number, unacknowledged flits, REFUSED (R281 to R284). -/
structure Tx where
  link : Option Link
  gen : Nat
  seq : Nat
  unacked : Nat
  refused : Bool
deriving DecidableEq, Repr

/-- What an rx keeps of a sending link (R284). -/
structure RxFrom where
  wg : Nat
  crew : Nat
  tx : Nat
  gen : Nat
  next : Nat
deriving DecidableEq, Repr

/-- An rx register: queued payloads oldest first, closed, expected sequence numbers (R284). -/
structure Rx where
  queue : List Dbl
  closed : Bool
  from_ : List RxFrom
deriving DecidableEq, Repr

/-- A crew (R67, R92, R101, R104, R200, R262, R281, R323, R327, R331, R333); newFlags and newMasks are the flags raised in
this clk, which a flagclr of the clk leaves set (R327); repThreads is the set of a repeat sequence (R100) and repOuter the set of the
one that a handler's own sequence has interrupted (R103); wrote is the last clk in which a word of the crew wrote its results (R411);
seq counts its update requests of paired mode (R246). -/
structure Crew where
  s : List Dbl
  h : List HReg
  flags : BitVec 8
  masks : List Dbl
  newFlags : BitVec 8
  newMasks : List Dbl
  fpctl : Word32
  repctl : Word32
  members : Dbl
  tvec : Word32
  tinfo : Word32
  tpc : Word32
  tval : Dbl
  flagen : Word32
  mfinfo : Word32
  mfaddr : Dbl
  mflanes : Dbl
  barinfo : Word32
  tx : List Tx
  rx : List Rx
  trapH : List Nat
  repThreads : List Nat
  repOuter : Option (List Nat)
  wrote : Nat
  seq : Nat
  out : Bool
  frozen : Bool
deriving DecidableEq, Repr

/-- A result of a word whose latency is more than one clk, still to be written (R99, R107): v registers of threads,
s registers of crews, predicates of threads, the flags it raises, operand-memory words made valid (R153, R192), the threads
whose latches it has shifted, and those of a memory word, which a fence waits for (R235). -/
structure PendWr where
  id : Nat
  v : List (Nat × Nat × Word32)
  s : List (Nat × Nat × Dbl)
  p : List (Nat × Nat × Bool)
  flags : List (Nat × BitVec 8)
  crews : List Nat
  valid : List Nat
  latch : List Nat
  mem : List Nat
deriving DecidableEq, Repr

/-- A translation context: the owning function and the two roots (R197, R359). -/
structure Ctx where
  func : Nat
  s1 : Nat
  s2 : Nat
deriving DecidableEq, Repr

/-- A resident workgroup, or a vacated one in a shadow store (R16, R287 to R296, R307, R335); due and evict say that its slice
has ended (R308) or that its core is asked for (R309), and saving is the clk in which its context began to go through its shadow store's
port and the one in which it is there (R340); written are results of this clk, which words read from the next
(R70, R99). -/
structure Wg where
  id : Nat
  core : Nat
  slot : Nat
  part : Nat
  grid : Nat
  baton : Nat
  index : Nat
  node : Nat
  heat : Option Nat
  hcore : Nat
  width : Nat
  nregs : Nat
  scratchBase : Nat
  scratchBytes : Nat
  ctx : Ctx
  threads : List Thread
  crews : List Crew
  pend : List PendWr
  written : List PendWr
  remain : Nat
  debt : Nat
  due : Option Nat
  started : Nat
  served : Nat
  stopped : Option Nat
  collCount : List (Nat × Nat)
  barCount : List (Nat × Nat)
  collFailed : Bool
  begun : Nat
  evict : Bool
  saving : Option (Nat × Nat)
deriving DecidableEq, Repr

/-- An instruction frame: kernel table address and overlay number, none while no overlay is loaded, and the clk from which it holds
what the dispatcher loads into it (R252, R276, R292). -/
structure Frame where
  ovl : Option (Nat × Nat)
  code : List Word32
  ready : Nat
deriving DecidableEq, Repr

/-- State of an operand slot (R144). -/
inductive SlotState where
  | free
  | claimed
  | full
  | scrub
deriving DecidableEq, Repr

/-- An operand slot: state, LINES, macro-operations that read it, and a release that waits for them (R144, R152). -/
structure Slot where
  state : SlotState
  lines : Nat
  readers : Nat
  releasing : Bool
deriving DecidableEq, Repr

/-- An accumulator bank with checksums (R156, R166, R172): elements and checksum entries absent from a list are 0. An
integer checksum is its 64-bit value, a float one the f32 bits. -/
structure Bank where
  acc : List (Nat × Word32)
  int : Bool
  cr : List (Nat × Dbl)
  cc : List (Nat × Dbl)
  nc : Nat
  exRows : List Nat
  exCols : List Nat
  fmts : Option (Nat × Nat)
deriving DecidableEq, Repr

/-- A macro-operation of a sequencer's queue (R154). -/
inductive MacroKind where
  | zero (bank int : Bool)
  | mma (bank : Bool) (fa fb oa ob kc : Nat) (z stream : Bool)
  | drain (bank int : Bool) (fo fr out res keep : Nat) (resen drop clr : Bool) (key org : Dbl)
  | check (bank : Bool)
  | heat (en : Bool) (tr tc : Nat)
deriving DecidableEq, Repr

/-- A queued macro-operation: identity, the grid and node it works for, whether it has entered the queue (R159), since
which clk an mma's conditions have held (chunk 0) and the B of each later chunk has been present, when it started, whether its row
steps (or a check's correction) are done, whether it waits for presence (R161, R174), and a drain's next output line. -/
structure MacroOp where
  id : Nat
  kind : MacroKind
  grid : Nat
  part : Nat
  node : Nat
  entered : Bool
  since : List (Nat × Nat)
  started : Option Nat
  stepsDone : Bool
  waiting : Bool
  line : Nat
deriving DecidableEq, Repr

/-- An array's token (R347): none, held for work, or running ballast since a clk. -/
inductive Token where
  | none
  | work
  | ballast (since : Nat)
deriving DecidableEq, Repr

/-- A word of a line of the view cache (R186, R216). -/
structure ViewLine where
  line : Nat
  words : List Word32
  used : Nat
deriving DecidableEq, Repr

/-- A TLB entry (R198). -/
structure TlbEntry where
  ctx : Ctx
  va : Nat
  pa : Nat
  size : Nat
  r : Bool
  w : Bool
  x : Bool
deriving DecidableEq, Repr

/-- A record of a store log (R206), with the workgroup that stored it and the clk it was appended in; gran is PA[38:5] and
words the eight granule words. -/
structure Record where
  num : Nat
  wg : Nat
  wm : BitVec 8
  gran : Nat
  words : List Word32
  nslot : Nat
  node : Nat
  committed : Bool
  void : Bool
  done : Bool
  since : Nat
deriving DecidableEq, Repr

/-- A core's store log (R207): the records kept, HEAD, TAIL, the first record not yet drained to the ring, the node table, whether 75 % has been
reported (R209), and the old logs that its directory points at for resumed crews, each with the node and the TAIL of then (R225). -/
structure Log where
  recs : List Record
  head : Nat
  tail : Nat
  drained : Nat
  nodes : List (Nat × Nat)
  occ : Bool
  foreign : List (Nat × Nat × Nat)
deriving DecidableEq, Repr

/-- An acquire-table entry (R215), with the workgroups whose crews made it (R339). -/
structure AcqEntry where
  obj : Nat
  av : Nat
  used : Nat
  wgs : List Nat
deriving DecidableEq, Repr

/-- A completion-table entry that is in use or has been (R262). -/
structure CtEntry where
  entry : Nat
  gen : Nat
  busy : Bool
deriving DecidableEq, Repr

/-- A core (R10, R24): frames, scratchpad with absent lines and wake marks, operand memory with word-valid masks and slots, banks, sequencer
(rowsAt: the last clk of its latest row step, with NEXTC and NEXTROW as they stood before it; chunk and held: the mma and the chunk whose B
the array holds, with the operand bytes it has taken in; rowFlags: the flags of rows that are still to be written, with the clk of it;
stepDue: the clk of the next row step), view cache, TLB, log, acquire table, completion table; the rate bucket in 1,250ths of a unit, the
clk it was counted at and since when a request has waited for it (R382); busy gives the clk from which the divider, the cross-lane network
and the special-function unit of each port take another word (R70, R116, R120), and twice the clk by which the log has appended the records
given to it (R224); setNow are the scratchpad lines set present in a clk (R188); kept are scratchpad ranges (grid, base, bytes) that a
running starter still holds, each that of its grid's first begun workgroup (R170). -/
structure Core where
  frames : List Frame
  scratch : Memory
  absent : List Nat
  setNow : Nat × List Nat
  wake : List (Nat × Nat)
  opmem : Memory
  valid : List (Nat × Word32)
  slots : List Slot
  banks : List Bank
  queue : List MacroOp
  nextc : Nat
  nextrow : Nat
  rowsAt : Nat × Nat × Nat
  chunk : Option (Nat × Nat)
  held : Memory
  rowFlags : List (Nat × BitVec 8)
  stepDue : Option Nat
  token : Token
  pinned : Option Nat
  asked : Bool
  mtile : Word32
  view : List ViewLine
  tlb : List TlbEntry
  log : Log
  acq : List AcqEntry
  seq : Nat
  ct : List CtEntry
  bucket : Int
  bucketAt : Nat
  denySince : Option Nat
  served : Nat
  busy : List Nat
  kept : List (Nat × Nat × Nat)
deriving DecidableEq, Repr

/-- A quad's starter (R142, R175, R294, R331, R337): run is the grid it runs and the starting workgroup; kwg, knode and
kheat are what k.wg, k.node and k.heatcore read in its stream (R48); divider is the clk from which its divider takes another
sdiv (R70); wrote is the last clk in which one of its words wrote its results or a macro-operation of the quad ended (R332). -/
structure Starter where
  run : Option (Nat × Nat)
  kwg : Nat
  knode : Nat
  kheat : Nat
  pc : Pc
  wait : Wait
  notBefore : Nat
  s : List Dbl
  p : BitVec 7
  flags : BitVec 8
  masks : List (BitVec 4)
  newFlags : BitVec 8
  newMasks : List (BitVec 4)
  tvec : Word32
  tinfo : Word32
  tpc : Word32
  tval : Dbl
  flagen : Word32
  mfinfo : Word32
  mfaddr : Dbl
  mflanes : Dbl
  dropkey : Dbl
  droporg : Dbl
  mcorr : Dbl
  rstack : List RetEntry
  code : List Word32
  pend : List PendWr
  written : List PendWr
  divider : Nat
  wrote : Nat
  mark : Option Nat
  stopped : Option Nat
  frozen : Bool
deriving DecidableEq, Repr

/-- A saved context of a quad (R339): the workgroups with their scratchpad bytes, absent lines and acquire entries,
and, when the starter is taken, the starter and the arrays' cores; the frames its program counters lie in; its spill slot. -/
structure SavedCtx where
  baton : Nat
  part : Nat
  wgs : List Wg
  scratch : List (Nat × Memory)
  absent : List (Nat × List Nat)
  acq : List (Nat × List AcqEntry)
  starter : Option Starter
  arrays : List (Nat × Core)
  frames : List (Nat × List Frame)
  spilled : Option Nat
deriving DecidableEq, Repr

/-- A quad: starter, shadow store, in-field test state with the clk of its last pass (R142, R339, R383). -/
structure Quad where
  starter : Starter
  shadow : List SavedCtx
  skips : Nat
  blocked : Bool
  failed : Bool
  passed : Nat
  testDue : Option Nat
  testing : Bool
deriving DecidableEq, Repr

/-- One active lane of a memory word: k.thread, address, translated address, operands, value returned. -/
structure LaneAcc where
  thread : Nat
  ea : Nat
  pa : Option Nat
  x : Word32
  y : Word32
  ret : Word32
deriving DecidableEq, Repr

/-- Where a line request stands (R186, R191, R199, R201). -/
inductive LineSt where
  | held
  | walking
  | paging
  | travelling
  | queued
  | serving
  | returning
  | bounced
  | absent
  | noticed
  | done
deriving DecidableEq, Repr

/-- A key (C, S) of an update's line request (R246). In paired mode a request has one for each crew that it serves, which C names. -/
structure ReqKey where
  c : Nat
  s : Nat
  crew : Option Nat
deriving DecidableEq, Repr

/-- A line request of a memory word or an engine (R186, R201, R246, R267): threads it serves, request it merged into, whether it holds a
replay-store entry (R20), bounces per structure (router, slice, HBM controller), when it became a veteran, the clk in which it arrived at
its slice and the clk that HBM adds to its service, its keys, flags returned, the line's words as it read them, and whether the view cache
takes them: of a request that missed it, while nothing has dropped its line since (R186, R228). -/
structure LineReq where
  line : Nat
  addr : Nat
  pa : Option Nat
  st : LineSt
  merged : Option (Nat × Nat)
  entry : Bool
  threads : List Nat
  bRouter : Nat
  bSlice : Nat
  bHbm : Nat
  veteran : Bool
  promoted : Nat
  keys : List ReqKey
  arrived : Nat
  extra : Nat
  flags : List (Nat × BitVec 8)
  data : List Word32
  fill : Bool
deriving DecidableEq, Repr

/-- The kinds of longer memory operation a word leaves behind. -/
inductive OpKind where
  | load
  | prefetch (vc : Bool)
  | store
  | ldx
  | stx
  | atomic (op : BitVec 4) (ty : BitVec 2)
  | radd (mode : Nat) (f32 : Bool)
  | oadd
  | orinit
  | done
  | rel (fill : Bool)
  | acq (tile : Bool)
  | empty
  | bind
  | unbind
  | sealOp
  | unseal
  | spawn
  | chkpt
  | image (save : Bool)
  /-- A line or element that an engine word reads, a line it writes, and a line of a drain's scale vectors. -/
  | fetch
  | put
  | scale
  /-- A descriptor that a walk reads, log records on their way to the ring, and a record that a compactor reads from its ring. -/
  | walkRead
  | ring
  | compact
  /-- A host's CXL.mem request, and a patrol scrub's read of a line. -/
  | host (write : Bool)
  | patrol
deriving DecidableEq, Repr

/-- A memory, task or object operation in progress: a is its address operand, b, c, n and m further operands; phase is
the step its own rule has reached; fail a fault cause or status it ends with; latch the threads in which it raises LATCH once its
checks are passed; ranges what a region word has translated; rep the crew and its REPCTL as a repeated word found it (R103). An
engine's operation has wg 0 and a the engine word, a scale load's a the macro-operation, a descriptor read's a the walk; a ring
write's and a ring read's a and b are the log's core and a record number, and a ring read's c is the slice that reads; a host's a and n
are its address and length, and ranges the bytes that it writes, each with its address. -/
structure MemOp where
  id : Nat
  kind : OpKind
  core : Nat
  wg : Nat
  node : Nat
  part : Nat
  ctx : Ctx
  addr : Pc
  first : Pc
  next : Pc
  threads : List Nat
  lanes : List LaneAcc
  latch : List Nat
  vdst : Option Nat
  sdst : Option Nat
  wb : Bool
  lines : List LineReq
  a : Nat
  b : Nat
  c : Nat
  n : Nat
  m : Nat
  ranges : List (Nat × Nat)
  rep : Option (Nat × Word32)
  phase : Nat
  fail : Option Nat
  since : Nat
deriving DecidableEq, Repr

/-- Who asked for a walk (R198, R401, R409). -/
inductive Asker where
  | line (op line : Nat)
  | element (word lane : Nat)
  | range (op page : Nat)
  | packet (hart : Nat)
deriving DecidableEq, Repr

/-- A leaf found by one stage: base, size, R, W, X. -/
structure Leaf where
  base : Nat
  size : Nat
  r : Bool
  w : Bool
  x : Bool
deriving DecidableEq, Repr

/-- A descriptor as a walk reads it: its physical address, the permission asked of it, and the stage it belongs to. -/
structure DescRead where
  pa : Nat
  perm : Nat
  stage : Nat
deriving DecidableEq, Repr

/-- Where a walk stands (R198, R386, R390): it waits for its sector's walker, runs in it, waits for the host's translation of the leaf
that it found, or waits in its requester's replay store for an INDEX. -/
inductive WalkSt where
  | queued
  | running
  | hosted (l : Leaf)
  | noIndex
deriving DecidableEq, Repr

/-- A walk asked for (R198): perm is 0 read, 1 write, 2 fetch; the descriptors it has, each with its value and whether the walk cache
held it. -/
structure Walk where
  id : Nat
  core : Nat
  ctx : Ctx
  va : Nat
  perm : Nat
  who : List Asker
  st : WalkSt
  got : List (DescRead × Nat × Bool)
deriving DecidableEq, Repr

/-- A descriptor held by a sector's walk cache for a translation context, and the stage it was read at (R198, R365). -/
structure WalkEntry where
  sector : Nat
  ctx : Ctx
  pa : Nat
  value : Nat
  stage : Nat
deriving DecidableEq, Repr

/-- A page request (R390, R410): sent to its owner, and settled once the hub has its reply, which frees its INDEX. -/
structure PageReq where
  id : Nat
  func : Nat
  stage : Nat
  index : Nat
  page : Nat
  kind : Nat
  core : Nat
  sent : Bool
  settled : Bool
  walks : List Walk
deriving DecidableEq, Repr

/-- A region as bind and seal hold it (R413): virtual base, length, context, and physical ranges. -/
structure Region where
  base : Nat
  len : Nat
  ctx : Ctx
  ranges : List (Nat × Nat)
deriving DecidableEq, Repr

/-- An entry of an object's publication list (R214): log, range of record numbers, VER, and the ends and VER of the releases
that made it (R210). -/
structure PubEntry where
  log : Nat
  from_ : Nat
  upto : Nat
  ver : Nat
  steps : List (Nat × Nat)
deriving DecidableEq, Repr

/-- A sync object or tile buffer (R210), with the claim of a started baton (R302). -/
structure SyncObj where
  pa : Nat
  part : Nat
  tile : Bool
  full : Bool
  claimed : Option Nat
  regions : List Region
  pubs : List PubEntry
  ver : Nat
  cver : Nat
  lastrel : Nat
deriving DecidableEq, Repr

/-- A contribution that an ordered accumulator holds (R250): key, node, value, and the request and thread that it came from (R246). -/
structure Held where
  key : Nat
  node : Nat
  val : Word32
  req : Nat × Nat
  thread : Nat
deriving DecidableEq, Repr

/-- An ordered accumulator object (R248 to R250). -/
structure OrdAcc where
  pa : Nat
  part : Nat
  f32 : Bool
  n : Nat
  result : Nat
  resultPa : Nat
  done : Bool
  err : Bool
  nv : Bool
  ovf : Bool
  held : List Held
deriving DecidableEq, Repr

/-- A pending photo-finish contribution (R247): the request that it came from, whose C is the first part of its key, and the thread;
order counts the thread's contributions to the word. -/
structure Contribution where
  pa : Nat
  req : Nat × Nat
  thread : Nat
  wg : Nat
  crew : Nat
  lane : Nat
  order : Nat
  f32 : Bool
  node : Nat
  val : Word32
deriving DecidableEq, Repr

/-- A slice's result-table entry (R246); redo are the threads whose contributions a rollback has removed, which a replay makes again
(R385). -/
structure Result where
  slice : Nat
  req : Nat × Nat
  rets : List (Nat × Word32)
  flags : List (Nat × BitVec 8)
  part : Nat
  node : Nat
  redo : List Nat
deriving DecidableEq, Repr

/-- A join record (R300), with the request and thread that it came from, and a registered waiter, with the clk in which its wake is told
to the dispatcher. -/
structure JoinRec where
  pa : Nat
  node : Nat
  req : Nat × Nat
  thread : Nat
deriving DecidableEq, Repr

structure Waiter where
  pa : Nat
  part : Nat
  baton : Nat
  due : Option Nat
deriving DecidableEq, Repr

/-- How a slice or a controller chooses (R380): the function whose turn it is and the requests left to it in the turn, the
partition that was last given a reserved entry, and, for each reserved entry in use, the clk in which it falls free. -/
structure Arbiter where
  turn : Nat
  left : Nat
  vturn : Nat
  reserved : List Nat
deriving DecidableEq, Repr

/-- A slice (R11, R219, R380, R404): lines its cache holds, line requests queued, requests started in the current clk, the clk from
which its compactor may apply another record, four times the clk in which it may read another from a ring (R219), and the last clk in
which each line is being updated. -/
structure Slice where
  lines : List Nat
  queue : List (Nat × Nat)
  startedAt : Nat
  startedN : Nat
  compact : Nat
  reads : Nat
  arb : Arbiter
  updating : List (Nat × Nat)
deriving DecidableEq, Repr

/-- An HBM stack's controller (R374, R380): requests queued, banks under refresh or management, activations per bank and row. -/
structure Hbm where
  queue : List (Nat × Nat)
  busy : List Nat
  acts : List (Nat × Nat × Nat)
  arb : Arbiter
deriving DecidableEq, Repr

/-- A participant of a barrier episode (R313). -/
inductive Member where
  | crew (wg crew : Nat)
  | starter (quad : Nat)
  | group (part wg : Nat)
deriving DecidableEq, Repr

/-- An episode of a barrier network (R313, R314): members are fixed at the first arrival; gid is the group, or at the smaller
scopes the number that names the set; passed are threads that went by it guarded off; owed are members that had not come to it
when it was aborted (R318). -/
structure Episode where
  id : Nat
  scope : Nat
  part : Nat
  gid : Nat
  n : Nat
  members : List Member
  arrived : List Member
  passed : List (Nat × Nat)
  owed : List Member
  aborted : Bool
deriving DecidableEq, Repr

/-- The engine words (R268). -/
inductive EngKind where
  | cpy
  | cpyw
  | ovl
  | gth
  | coll
deriving DecidableEq, Repr

/-- A line or element of an engine word whose read has begun and whose write is not over (R272, R409): the translations of its source and
destination, where it has needed them so far, and whether its read has left the channel. For a coll, a line that it writes is one of its
own. -/
structure EngPart where
  k : Nat
  src : Option Nat
  dst : Option Nat
  sent : Bool
deriving DecidableEq, Repr

/-- An engine word (R268, R274 to R279): dst, src and ctl are its operands; aux is a coll's kind, operation and type with the count of
the participant's collectives; idx the gather's index per thread; next is the next line or element to begin, of total, and reads of them
are a coll's source lines; live are those in progress, doneLines those written, skipped or dropped; causes a STATUS per line; begun
the clk in which it took its channel and readAt that of its last read (R280); threads those that issued it (R237); got the data
read and not yet written (R274); bad the physical line that an uncorrectable error withheld from it (R372). -/
structure EngWord where
  id : Nat
  kind : EngKind
  core : Nat
  wg : Nat
  crew : Nat
  node : Nat
  entry : Nat
  dst : Nat
  src : Nat
  ctl : Nat
  aux : Nat
  idx : List (Nat × Word32)
  threads : List Nat
  chan : Option Nat
  begun : Nat
  readAt : Nat
  got : List (Nat × List Word32)
  issued : Nat
  next : Nat
  reads : Nat
  total : Nat
  live : List EngPart
  doneLines : List Nat
  causes : List (Nat × Nat)
  cancel : Bool
  stop : Bool
  bad : Option Nat
deriving DecidableEq, Repr

/-- A flit under way or unacknowledged (R283, R284): bounces counts its drops at a full rx, drops those at a router (R18). -/
structure Flit where
  id : Nat
  wg : Nat
  crew : Nat
  tx : Nat
  gen : Nat
  seq : Nat
  payload : Dbl
  link : Link
  travel : Nat
  word : Option Nat
  bounces : Nat
  drops : Nat
deriving DecidableEq, Repr

/-- A partition (R14, R363 to R365): sectors, owning function, baton queues, logs, spill slots, seal table, collective
groups (GID, its participants, each workgroup, package, partition, and the queue and packet whose grid holds the local ones),
heat reservation, and the collectives that were aborted (queue block, packet, GID, number; R279). -/
structure Partition where
  num : Nat
  sectors : List Nat
  func : Nat
  bqbase : Nat
  bqcap : Nat
  logbase : Nat
  ctxbase : Nat
  ctxslots : Nat
  seals : List Region
  groups : List (Nat × List (Nat × Nat × Nat) × Nat × Nat)
  spill : List Nat
  reserve : Option (Nat × List Nat)
  aborted : List (Nat × Nat × Nat × Nat)
deriving DecidableEq, Repr

/-- Where a baton stands (R290); a finished one is kept until its node commits, for a rollback runs it again (R305). -/
inductive BatonSt where
  | queued
  | placed
  | running
  | vacated
  | finished
deriving DecidableEq, Repr

/-- A baton record and what the dispatcher keeps of it (R290, R298, R302, R305); ringAt is its position in the ring; waits is the
clk from which its resume has waited for directory entries (R225); name is what C names it by in paired mode, the same in every run of it
(R246); starts is the clk in which a placed one starts, and place gives the core, scratchpad base and
frame of each workgroup of a placed one. -/
structure Baton where
  id : Nat
  part : Nat
  grid : Nat
  code : Dbl
  frame : Dbl
  waitj : Dbl
  cond : Dbl
  node : Nat
  spnode : Option Nat
  spawner : Option Nat
  wg : Nat
  resumable : Bool
  rewritten : Bool
  ring : Bool
  ringAt : Nat
  st : BatonSt
  woken : Bool
  level : Nat
  eligible : Option Nat
  pageWait : Option Nat
  kills : List (Nat × Nat)
  filled : List Nat
  consumed : List Nat
  waits : Option Nat
  name : List Nat
  starts : Nat
  place : List (Nat × Nat × Nat)
deriving DecidableEq, Repr

/-- A grid as its launch record gives it (R287, R288, R350), its format slots as four words each (R126), and the
dispatcher's progress with it: the next initial baton, since when it has waited, when it last placed one, the levels it has gained
since, whether WAITJ has woken it, its wave, and the slot in which that takes no more (R349). -/
structure Grid where
  id : Nat
  part : Nat
  ctx : Ctx
  qcb : Nat
  packet : Nat
  kernel : Nat
  starter : Nat
  count : Nat
  crews : Nat
  width : Nat
  nregs : Nat
  hcols : Nat
  hrows : Nat
  novl : Nat
  scratch : Nat
  node : Nat
  queue : Nat
  slice : Nat
  heatwait : Nat
  args : Dbl
  tbbase : Nat
  tbcount : Nat
  die : Nat
  cond : Dbl
  waitj : Dbl
  pin : Nat
  wave : Nat
  fslots : List (List Word32)
  nextWg : Nat
  waiting : Option Nat
  placedAt : Nat
  level : Nat
  woken : Bool
  waveSlot : Option Nat
  waveCores : Nat
  waveShut : Option Nat
deriving DecidableEq, Repr

/-- A node of a partition (R16, R304, R218): live count, taints, uncorrectable aborts per line (R372). -/
structure Node where
  part : Nat
  num : Nat
  live : Nat
  taints : List Nat
  finished : Option Nat
  aborts : List (Nat × Nat)
deriving DecidableEq, Repr

/-- A token request at the central pacer (R346). -/
structure TokReq where
  core : Nat
  part : Nat
  arrived : Nat
deriving DecidableEq, Repr

/-- A V/F step being paid for (R348): island, direction, changes of L left to pay, when it was asked for. -/
structure VfStep where
  island : Nat
  up : Bool
  left : Nat
  arrived : Nat
deriving DecidableEq, Repr

/-- The central pacer (R344, R346, R348, R349, R353); rampNext is PCTL.RAMP as written, which holds from the next clk (R344). -/
structure Pacer where
  ramp : Nat
  rampNext : Nat
  amps : Nat
  rise : Nat
  fall : Nat
  slotNow : Nat
  slotBase : Nat
  shares : List (Nat × Nat)
  waves : List (Nat × Nat)
  stall : List (Nat × Nat)
  ballast : List (Nat × Nat)
  fsinfo : List (Nat × Dbl)
  reqs : List TokReq
  costs : List (Nat × Nat)
  vf : List VfStep
deriving DecidableEq, Repr

/-- State of a queue (R361). -/
inductive QState where
  | idle
  | pending
  | mapped
  | draining
  | faulted
  | frozen
  | destroyed
deriving DecidableEq, Repr

/-- A queue control block as the device holds it (R359, R360); pa is the block's address, and cmd the function and QID of the command in
progress on it (R357, R369). -/
structure Qcb where
  pa : Nat
  qfunc : Nat
  qid : Nat
  ring : Nat
  cfg : Nat
  st : QState
  rdptr : Nat
  wrptr : Nat
  laststat : Nat
  intvec : Nat
  faultpkt : Nat
  part : Nat
  maxprio : Nat
  ctx : Ctx
  since : Nat
  cmd : Option (Nat × Nat)
deriving DecidableEq, Repr

/-- A packet that has started and is not complete (R365): its eight 64-bit words, grid if a LAUNCH, the line a
blocked WAIT watches (R355), the cores a PREEMPT waits for (R309). -/
structure Packet where
  qcb : Nat
  num : Nat
  words : List Dbl
  grid : Option Nat
  since : Nat
  watch : Option Nat
  cores : List Nat
deriving DecidableEq, Repr

/-- A hart (R354): the queue mapped, the first half read of its next packet (R368), the packet it has read and not started, the
WAIT packet it is blocked in. -/
structure Hart where
  num : Nat
  qcb : Option Nat
  half : Option (Nat × List Dbl)
  read : Option (Nat × List Dbl)
  blocked : Option Nat
  denied : Bool
deriving DecidableEq, Repr

/-- A function (R357, R382, R387 to R390): its registers, the bits of INTCAUSE that hardware last set with their clk (R5), its MSI-X table
by word, and the page requests that a reset freed, each with its stage and INDEX, whose replies are discarded (R392). -/
structure Func where
  fqt1 : Dbl
  qkey : Dbl
  qcmdstat : Word32
  hqt2 : Dbl
  resetting : Bool
  frozen : Bool
  intcause : Word32
  causeSet : Nat × Word32
  s2fring : Dbl
  s2fhead : Word32
  s2ftail : Word32
  masked : Dbl
  pendingBits : Dbl
  msix : List (Nat × Word32)
  freed : List (Nat × Nat)
  qosw : Word32
  qrate : Word32
  qburst : Word32
  qdeny : Dbl
deriving DecidableEq, Repr

/-- Reliability registers of a partition (R375, R384), the bits of ERRSTAT that hardware last set with their clk (R5), and when its last
correctable-error event was sent. -/
structure RelPart where
  errstat : Word32
  errSet : Nat × Word32
  erraddr : Dbl
  cecount : Word32
  uecount : Word32
  rhbounce : Dbl
  paired : Bool
  ceSent : Option Nat
deriving DecidableEq, Repr

/-- A master that a violation freezes (R378): a crew, a quad's starter (log entry 20), an engine channel, or a function. -/
inductive Master where
  | crew (wg crew : Nat)
  | starter (quad : Nat)
  | channel (n : Nat)
  | function (f : Nat)
deriving DecidableEq, Repr

/-- A Haled port (R376). -/
structure Port where
  heard : Nat
  sent : Nat
  down : Bool
deriving DecidableEq, Repr

/-- What the device sends out: interrupts, page requests, read data, flits, translation requests (R376, R386 to R391). -/
inductive Msg where
  | msix (func vec : Nat)
  | pri (func index page : Nat)
  | readData (pa : Nat) (bytes : List Byte) (poison : Bool)
  | idleFlit (port : Nat)
  | named (pkg : Nat)
  | ats (core va : Nat)
  | telemetry (load : Dbl) (rails : List (Nat × Nat × Nat × Nat)) (parts : List (Nat × List Dbl))
  | flashRefused (offset : Nat)
  | booted (slot : Nat)
deriving DecidableEq, Repr

/-- Capabilities present (R394). -/
structure Caps where
  k4 : Bool
  photo : Bool
  paired : Bool
  shadow : Nat
deriving DecidableEq, Repr

/-- Board flash and what boot has made of it (R395 to R400). -/
structure BootSt where
  flash : Memory
  active : Option Nat
  recovery : Bool
  locked : Bool
  vfcount : Nat
  package : Nat
  group : Nat
  iftint : Nat
  modules : Nat
  grants : List (Nat × Nat)
  resetN : Bool
  pwrok : Bool
deriving DecidableEq, Repr

/-- What issues: threads of a workgroup, or a quad's starter. -/
inductive Issuer where
  | group (wg : Nat)
  | starter (quad : Nat)
deriving DecidableEq, Repr

/-- How the word being issued ended its clk. -/
inductive Ended where
  | no
  | trapped
  | parked
  | moved
  | held
  | illegal
deriving DecidableEq, Repr

/-- The word being issued: issuer, threads (by k.thread, ascending), its address, the first word of its clk, the word
control passes to, its literal and C, the number from which the clk takes identities, so that older words have lower ones, and the
issuer as it stood before the clk, which every word of the clk reads (R36). -/
structure Issue where
  who : Issuer
  threads : List Nat
  addr : Pc
  first : Pc
  next : Pc
  lit : Word32
  chain : Bool
  older : Nat
  base : Option Wg
  baseStarter : Option Starter
  ended : Ended
deriving DecidableEq, Repr

/-- A run that holds a port (R37): the threads, where it goes on, and the number of packets it has issued. hidden are values of system
registers that its words have written, as they stood before: by crew, number and value, numbers below 9 being the flag word and the
masks with the flags that were cleared (R330, R336). base is the workgroup as it stood before a clk whose words are not all issued,
since a memory word among them is still to pass its checks (R36, R326). -/
structure Run where
  who : Issuer
  threads : List Nat
  pc : Pc
  packets : Nat
  port : Nat
  hidden : List (Nat × Nat × Dbl)
  base : Option Wg
deriving DecidableEq, Repr

/-- The state of a K7 package. hubWaits are accesses to a queue that wait for a page of its function's table: function, QID,
operation (0 a notify, else a command) and value. qcbsOut are the stopped queues' blocks that the cache has given up, by address and function
(R361, R392). The last group of fields are the model's own: steps that fall due at a clk, the word being
issued, the counters of free values and of identities, and what has been sent out. heardFrom is the last clk of a flit from each package
(R376), badWords the words of HBM found to hold an uncorrectable error (R371), by number. -/
structure State where
  wgs : List Wg
  cores : List (Nat × Core)
  quads : List (Nat × Quad)
  mem : Memory
  slices : List (Nat × Slice)
  hbms : List (Nat × Hbm)
  ops : List MemOp
  walks : List Walk
  walkCache : List WalkEntry
  pageReqs : List PageReq
  objs : List SyncObj
  ordAccs : List OrdAcc
  contribs : List Contribution
  results : List Result
  joins : List JoinRec
  waiters : List Waiter
  episodes : List Episode
  words : List EngWord
  frozenChans : List Nat
  flits : List Flit
  parts : List Partition
  batons : List Baton
  grids : List Grid
  nodes : List Node
  pacer : Pacer
  qcbs : List Qcb
  qcbsOut : List (Nat × Nat)
  harts : List Hart
  packets : List Packet
  hubWaits : List (Nat × Nat × Nat × Nat)
  funcs : List (Nat × Func)
  relParts : List (Nat × RelPart)
  rhctl : List (Nat × Word32)
  frzlog : Dbl
  frzWho : Option Master
  ports : List (Nat × Port)
  switchesDown : List Nat
  groupsDown : List Nat
  namedFailures : List Nat
  heardFrom : List (Nat × Nat)
  badWords : List Nat
  leftOut : List Nat
  telemetry : List (Nat × Nat × Nat × Nat)
  caps : Caps
  boot : BootSt
  clk : Nat
  agenda : List (Nat × Instr)
  cur : Option Issue
  runs : List Run
  issuedAt : List (Nat × Nat)
  free : Nat
  ids : Nat
  sent : List Msg
deriving DecidableEq, Repr

/-- Why the machine stops. -/
inductive Fault where
  /-- An encoded instruction is given to `exec` with no word being issued, or the issuer named is not there: raised by
  the meanings of encoded instructions only; step never makes such a call. Safe. -/
  | noIssue
deriving DecidableEq, Repr

/-- Why an instruction has no meaning. -/
inductive Refusal where
  /-- The arm of `exec` has not been written: raised by Dispatch.lean only. Safe. -/
  | notModelled (mnemonic : String)
deriving DecidableEq, Repr

/-- A log with no record (R207). -/
def Log.reset : Log := { recs := [], head := 0, tail := 0, drained := 0, nodes := [], occ := false, foreign := [] }

/-- A FREE slot (R144); LINES at reset is log entry 4. -/
def Slot.reset : Slot := { state := .free, lines := 1, readers := 0, releasing := false }

/-- A cleared bank of kind float (R156, R166, R172). -/
def Bank.reset : Bank :=
  { acc := [], int := false, cr := [], cc := [], nc := 0, exRows := [], exCols := [], fmts := none }

/-- A frame that holds no overlay (R276). -/
def Frame.reset : Frame := { ovl := none, code := [], ready := 0 }

/-- A core after reset (R144, R156, R188, R207, R262); the bucket is log entry 4. -/
def Core.reset : Core :=
  { frames := [Frame.reset, Frame.reset], scratch := [], absent := [], setNow := (0, []), wake := [],
    opmem := [], valid := [], slots := List.replicate 8 Slot.reset, banks := [Bank.reset, Bank.reset], queue := [],
    nextc := 0, nextrow := 0, rowsAt := (0, 0, 0), chunk := none, held := [], rowFlags := [], stepDue := none, token := .none, pinned := none, asked := false, mtile := 0, view := [], tlb := [],
    log := Log.reset, acq := [], seq := 0, ct := [], bucket := 320000, bucketAt := 0, denySince := none, served := 0, busy := [0, 0, 0, 0, 0],
    kept := [] }

/-- An idle starter (R142, R175, R294). -/
def Starter.reset : Starter :=
  { run := none, kwg := 0, knode := 0, kheat := 0, pc := { frame := false, word := 0 }, wait := .ready, notBefore := 0, s := List.replicate 32 0, p := 0,
    flags := 0, masks := List.replicate 8 0, newFlags := 0, newMasks := List.replicate 8 0, tvec := 0, tinfo := 0, tpc := 0, tval := 0, flagen := 0, mfinfo := 0,
    mfaddr := 0, mflanes := 0, dropkey := 0, droporg := 0, mcorr := 0, rstack := [], code := [], pend := [], written := [], divider := 0, wrote := 0,
    mark := none, stopped := none, frozen := false }

/-- A quad after reset (R142, R339, R383). -/
def Quad.reset : Quad :=
  { starter := Starter.reset, shadow := [], skips := 0, blocked := false, failed := false, passed := 0, testDue := none,
    testing := false }

/-- Function 0 and partition 0 have the first turns (log entry 30). -/
def Arbiter.reset : Arbiter := { turn := 63, left := 0, vturn := 15, reserved := [] }

/-- A slice with nothing in it (R404). -/
def Slice.reset : Slice :=
  { lines := [], queue := [], startedAt := 0, startedN := 0, compact := 0, reads := 0, arb := Arbiter.reset, updating := [] }

/-- An idle HBM controller (R374). -/
def Hbm.reset : Hbm := { queue := [], busy := [], acts := [], arb := Arbiter.reset }

/-- A tx register when a crew begins a baton (R282). -/
def Tx.reset : Tx := { link := none, gen := 0, seq := 0, unacked := 0, refused := false }

/-- An rx register when a crew begins a baton (R282). -/
def Rx.reset : Rx := { queue := [], closed := false, from_ := [] }

/-- A function after reset (R357, R382, R388); MSI-X vectors unmasked is log entry 4. -/
def Func.reset : Func :=
  { fqt1 := 0, qkey := 0, qcmdstat := 0, hqt2 := 0, resetting := false, frozen := false, intcause := 0, causeSet := (0, 0), s2fring := 0,
    s2fhead := 0, s2ftail := 0, masked := 0, pendingBits := 0, msix := [], freed := [], qosw := 0x10, qrate := 0, qburst := 0x100, qdeny := 0 }

/-- Reliability registers of a partition after reset (R375, R384). -/
def RelPart.reset : RelPart :=
  { errstat := 0, errSet := (0, 0), erraddr := 0, cecount := 0, uecount := 0, rhbounce := 0, paired := false, ceSent := none }

/-- A Haled port after reset (R376). -/
def Port.reset : Port := { heard := 0, sent := 0, down := false }

/-- The pacer after reset (R344, R353). -/
def Pacer.reset : Pacer :=
  { ramp := 48, rampNext := 48, amps := 16, rise := 1250, fall := 1250, slotNow := 0, slotBase := 0, shares := [], waves := [],
    stall := [], ballast := [], fsinfo := [], reqs := [], costs := [], vf := [] }

/-- Boot state after reset (R397 to R399): flash erased and no slot verifying are log entry 4. -/
def BootSt.reset : BootSt :=
  { flash := [], active := none, recovery := false, locked := false, vfcount := 0, package := 0,
    group := 0, iftint := 8, modules := 15, grants := [], resetN := true, pwrok := true }

/-- A crew as a baton starts (R92, R101, R104, R262, R281, R293, R331); s30 and MEMBERS are given at the start. -/
def Crew.reset : Crew :=
  { s := List.replicate 32 0, h := List.replicate 16 .empty, flags := 0, masks := List.replicate 8 0, newFlags := 0, newMasks := List.replicate 8 0, fpctl := 0,
    repctl := 0, members := BitVec.allOnes 64, tvec := 0, tinfo := 0, tpc := 0, tval := 0, flagen := 0, mfinfo := 0,
    mfaddr := 0, mflanes := 0, barinfo := 0, tx := List.replicate 4 Tx.reset, rx := List.replicate 4 Rx.reset,
    trapH := [], repThreads := [], repOuter := none, wrote := 0, seq := 0, out := false, frozen := false }

/-- The machine right after reset (R14, R344, R375, R395, R398): every sector unowned, nothing resident, and the boot
processor's choice of a slot due. The capabilities present are log entry 5. -/
def State.reset : State :=
  { wgs := [], cores := [], quads := [], mem := [], slices := [], hbms := [], ops := [], walks := [], walkCache := [],
    pageReqs := [], objs := [], ordAccs := [], contribs := [], results := [], joins := [], waiters := [],
    episodes := [], words := [], frozenChans := [], flits := [], parts := [], batons := [], grids := [], nodes := [],
    pacer := Pacer.reset, qcbs := [], qcbsOut := [], harts := [], packets := [], hubWaits := [], funcs := [], relParts := [], rhctl := [], frzlog := 0,
    frzWho := none, ports := [], switchesDown := [], groupsDown := [], namedFailures := [], heardFrom := [], badWords := [], leftOut := [],
    telemetry := [], caps := { k4 := true, photo := true, paired := true, shadow := 1 }, boot := BootSt.reset, clk := 0,
    agenda := [(0, .boot)], cur := none, runs := [], issuedAt := [], free := 0, ids := 1, sent := [] }

end Sys2Proof.Machine
end

