-- ==== Sys2Proof/Machine/Ops.lean ====
section
/-! DEFINITION. The named reads and writes of the state: keyed tables, memories, cores, quads, workgroups, crews and
threads, the agenda, and taking an exact trap and returning from it (R333 to R335). -/

namespace Sys2Proof.Machine

/-! ### Keyed tables -/

/-- The entry of a table at a key, or the value an absent entry stands for. -/
def kget {α : Type} (d : α) : List (Nat × α) → Nat → α
  | [], _ => d
  | (a, x) :: t, k => if a = k then x else kget d t k

/-- A table with an entry written. -/
def kset {α : Type} : List (Nat × α) → Nat → α → List (Nat × α)
  | [], k, v => [(k, v)]
  | (a, x) :: t, k, v => if a = k then (a, v) :: t else (a, x) :: kset t k v

/-- A list with f applied where p holds. -/
def mapIf {α : Type} (p : α → Bool) (f : α → α) (l : List α) : List α := l.map fun x => if p x then f x else x

/-- Element n of a list changed by f, if there is one. -/
def modAt {α : Type} : List α → Nat → (α → α) → List α
  | [], _, _ => []
  | x :: t, 0, f => f x :: t
  | x :: t, n + 1, f => x :: modAt t n f

/-- Insertion into a list kept ascending by a key; an equal key goes behind. -/
def insertBy {α : Type} (key : α → Nat) (x : α) : List α → List α
  | [] => [x]
  | y :: t => if key x < key y then x :: y :: t else y :: insertBy key x t

/-- A list in ascending order of a key, equal keys in their old order. -/
def sortBy {α : Type} (key : α → Nat) (l : List α) : List α := l.foldl (fun acc x => insertBy key x acc) []

/-- A list without repeats, first occurrences kept. -/
def dedup (l : List Nat) : List Nat := (l.foldl (fun acc x => if x ∈ acc then acc else x :: acc) []).reverse

/-! ### Memory -/

/-- A byte of a memory; an unlisted byte reads 0 (log entry 3). -/
def Memory.get : Memory → Nat → Byte
  | [], _ => 0
  | (b, x) :: t, a => if a = b then x else Memory.get t a

/-- A memory with a byte written, in canonical form: writing 0 removes the entry. -/
def Memory.set : Memory → Nat → Byte → Memory
  | [], a, x => if x = 0 then [] else [(a, x)]
  | (b, y) :: t, a, x =>
    if a < b then (if x = 0 then (b, y) :: t else (a, x) :: (b, y) :: t)
    else if a = b then (if x = 0 then t else (a, x) :: t)
    else (b, y) :: Memory.set t a x

/-- The canonical form: addresses strictly rising, no byte 0. -/
def Memory.wf : Memory → Bool
  | [] => true
  | [(_, x)] => x != 0
  | (a, x) :: (b, y) :: t => x != 0 && decide (a < b) && Memory.wf ((b, y) :: t)

/-- n bytes from an address, ascending. -/
def Memory.bytes (m : Memory) (a n : Nat) : List Byte := (List.range n).map fun k => m.get (a + k)

/-- Bytes written from an address, ascending. -/
def Memory.setBytes (m : Memory) (a : Nat) : List Byte → Memory
  | [] => m
  | x :: t => Memory.setBytes (m.set a x) (a + 1) t

/-- The little-endian 32-bit word at an address (R4). -/
def Memory.word (m : Memory) (a : Nat) : Word32 := m.get (a + 3) ++ m.get (a + 2) ++ m.get (a + 1) ++ m.get a

/-- The little-endian 64-bit value at an address (R4). -/
def Memory.dbl (m : Memory) (a : Nat) : Dbl := m.word (a + 4) ++ m.word a

/-- The bytes of a word, lowest address first (R4). -/
def wordBytes (w : Word32) : List Byte :=
  [w.extractLsb' 0 8, w.extractLsb' 8 8, w.extractLsb' 16 8, w.extractLsb' 24 8]

/-- A word written at an address. -/
def Memory.setWord (m : Memory) (a : Nat) (w : Word32) : Memory := m.setBytes a (wordBytes w)

/-- A 64-bit value written at an address. -/
def Memory.setDbl (m : Memory) (a : Nat) (d : Dbl) : Memory :=
  (m.setWord a (d.extractLsb' 0 32)).setWord (a + 4) (d.extractLsb' 32 32)

/-- Thirty-two words from a line's address (R24). -/
def Memory.line (m : Memory) (a : Nat) : List Word32 := (List.range 32).map fun k => m.word (a + 4 * k)

/-- Words written from an address, ascending. -/
def Memory.setWords (m : Memory) (a : Nat) : List Word32 → Memory
  | [] => m
  | w :: t => Memory.setWords (m.setWord a w) (a + 4) t

/-- A memory with n bytes from an address as another memory holds them. -/
def Memory.patch (m src : Memory) (a n : Nat) : Memory :=
  m.filter (fun x => decide (x.1 < a)) ++ src.filter (fun x => decide (a ≤ x.1) && decide (x.1 < a + n))
    ++ m.filter fun x => decide (a + n ≤ x.1)

/-! ### Geography of the package -/

/-- The die of a core index (R180). -/
def coreDie (c : Nat) : Nat := c / 192
/-- The row of a core index (R180). -/
def coreRow (c : Nat) : Nat := c % 192 / 12
/-- The column of a core index (R180). -/
def coreCol (c : Nat) : Nat := c % 12
/-- The core index of a die, row and column (R180). -/
def coreIndex (die row col : Nat) : Nat := die * 192 + row * 12 + col
/-- The package number of a core's quad: 48 for each die, and R13 within the die. -/
def coreQuad (c : Nat) : Nat := coreDie c * 48 + coreRow c / 2 * 6 + coreCol c / 2
/-- The package sector of a core (R13). -/
def coreSector (c : Nat) : Nat := coreDie c * 4 + coreRow c / 8 * 2 + (if coreCol c ≥ 6 then 1 else 0)
/-- The array number of a core in its quad (R143). -/
def coreArray (c : Nat) : Nat := coreCol c % 2 + 2 * (coreRow c % 2)
/-- The core of array i of a quad (R143). -/
def quadCore (q i : Nat) : Nat := coreIndex (q / 48) (q % 48 / 6 * 2 + i / 2) (q % 48 % 6 * 2 + i % 2)
/-- The sector of an HBM physical address (R180). -/
def paSector (pa : Nat) : Nat := natBits pa 38 35
/-- The home slice of an HBM physical address, numbered over the package (R182). -/
def paSlice (pa : Nat) : Nat := paSector pa * 4 + ((natBits pa 8 7 ^^^ natBits pa 14 13) ^^^ natBits pa 20 19)
/-- The die of a slice (R11). -/
def sliceDie (h : Nat) : Nat := h / 16
/-- The HBM stack of a physical address (R180). -/
def paStack (pa : Nat) : Nat := 2 * (paSector pa / 4) + paSector pa % 4 / 2
/-- Whether an address lies in HBM (R180). -/
def isHbm (pa : Nat) : Bool := decide (pa < 0x8000000000)
/-- Whether an address lies in host memory (R180). -/
def isHost (pa : Nat) : Bool := decide (0x800000000000 ≤ pa)
/-- Whether a 64-bit virtual address is canonical (R181). -/
def canonical (a : Nat) : Bool := natBits a 63 47 = 0 || natBits a 63 47 = 0x1FFFF
/-- One-way travel from a core to a slice (R204): 20 clk on the own die, 60 to another. -/
def travel (core slice : Nat) : Nat := if coreDie core = sliceDie slice then 20 else 60

/-! ### The parts of the state -/

/-- A core; an absent entry is a core after reset. -/
def State.core (s : State) (c : Nat) : Core := kget Core.reset s.cores c
/-- A core replaced. -/
def State.setCore (s : State) (c : Nat) (k : Core) : State := { s with cores := kset s.cores c k }
/-- A core changed. -/
def State.modCore (s : State) (c : Nat) (f : Core → Core) : State := s.setCore c (f (s.core c))
/-- The optional features that the capability list reports: in recovery it holds ARCH alone (R1, R398). -/
def State.features (s : State) : Caps :=
  if s.boot.recovery then { k4 := false, photo := false, paired := false, shadow := s.caps.shadow } else s.caps
/-- A quad; an absent entry is a quad after reset. -/
def State.quad (s : State) (q : Nat) : Quad := kget Quad.reset s.quads q
/-- A quad changed. -/
def State.modQuad (s : State) (q : Nat) (f : Quad → Quad) : State := { s with quads := kset s.quads q (f (s.quad q)) }
/-- A quad's starter. -/
def State.starter (s : State) (q : Nat) : Starter := (s.quad q).starter
/-- A quad's starter changed. -/
def State.modStarter (s : State) (q : Nat) (f : Starter → Starter) : State :=
  s.modQuad q fun k => { k with starter := f k.starter }
/-- A slice. -/
def State.slice (s : State) (h : Nat) : Slice := kget Slice.reset s.slices h
/-- A slice changed. -/
def State.modSlice (s : State) (h : Nat) (f : Slice → Slice) : State := { s with slices := kset s.slices h (f (s.slice h)) }
/-- An HBM stack's controller. -/
def State.hbm (s : State) (n : Nat) : Hbm := kget Hbm.reset s.hbms n
/-- An HBM stack's controller changed. -/
def State.modHbm (s : State) (n : Nat) (f : Hbm → Hbm) : State := { s with hbms := kset s.hbms n (f (s.hbm n)) }
/-- A function. -/
def State.func (s : State) (f : Nat) : Func := kget Func.reset s.funcs f
/-- A function changed. -/
def State.modFunc (s : State) (f : Nat) (g : Func → Func) : State := { s with funcs := kset s.funcs f (g (s.func f)) }
/-- Reliability registers of a partition. -/
def State.relPart (s : State) (p : Nat) : RelPart := kget RelPart.reset s.relParts p
/-- The clk that the comparator of paired mode adds to an outbound request of a partition (R384). -/
def State.comparator (s : State) (part : Nat) : Nat := if (s.relPart part).paired then 6 else 0
/-- Reliability registers of a partition changed. -/
def State.modRel (s : State) (p : Nat) (f : RelPart → RelPart) : State :=
  { s with relParts := kset s.relParts p (f (s.relPart p)) }
/-- A workgroup by identity. -/
def State.wg? (s : State) (id : Nat) : Option Wg := s.wgs.find? fun w => w.id = id
/-- A workgroup changed. -/
def State.modWg (s : State) (id : Nat) (f : Wg → Wg) : State := { s with wgs := mapIf (fun w => w.id = id) f s.wgs }
/-- An operation by identity. -/
def State.op? (s : State) (id : Nat) : Option MemOp := s.ops.find? fun o => o.id = id
/-- An operation changed. -/
def State.modOp (s : State) (id : Nat) (f : MemOp → MemOp) : State := { s with ops := mapIf (fun o => o.id = id) f s.ops }
/-- An operation taken off. -/
def State.dropOp (s : State) (id : Nat) : State := { s with ops := s.ops.filter fun o => o.id ≠ id }
/-- A partition. -/
def State.part? (s : State) (p : Nat) : Option Partition := s.parts.find? fun x => x.num = p
/-- A partition changed. -/
def State.modPart (s : State) (p : Nat) (f : Partition → Partition) : State :=
  { s with parts := mapIf (fun x => x.num = p) f s.parts }
/-- A grid. -/
def State.grid? (s : State) (g : Nat) : Option Grid := s.grids.find? fun x => x.id = g
/-- A grid changed. -/
def State.modGrid (s : State) (g : Nat) (f : Grid → Grid) : State := { s with grids := mapIf (fun x => x.id = g) f s.grids }
/-- A baton. -/
def State.baton? (s : State) (b : Nat) : Option Baton := s.batons.find? fun x => x.id = b
/-- A baton changed. -/
def State.modBaton (s : State) (b : Nat) (f : Baton → Baton) : State :=
  { s with batons := mapIf (fun x => x.id = b) f s.batons }
/-- A live node. -/
def State.node? (s : State) (p n : Nat) : Option Node := s.nodes.find? fun x => x.part = p && x.num = n
/-- A node changed. -/
def State.modNode (s : State) (p n : Nat) (f : Node → Node) : State :=
  { s with nodes := mapIf (fun x => x.part = p && x.num = n) f s.nodes }
/-- An engine word. -/
def State.word? (s : State) (w : Nat) : Option EngWord := s.words.find? fun x => x.id = w
/-- An engine word changed. -/
def State.modWord (s : State) (w : Nat) (f : EngWord → EngWord) : State :=
  { s with words := mapIf (fun x => x.id = w) f s.words }
/-- A sync object at a physical address. -/
def State.obj? (s : State) (pa : Nat) : Option SyncObj := s.objs.find? fun o => o.pa = pa
/-- A sync object changed. -/
def State.modObj (s : State) (pa : Nat) (f : SyncObj → SyncObj) : State :=
  { s with objs := mapIf (fun o => o.pa = pa) f s.objs }
/-- A queue control block the device holds. -/
def State.qcb? (s : State) (pa : Nat) : Option Qcb := s.qcbs.find? fun q => q.pa = pa
/-- A queue control block changed. -/
def State.modQcb (s : State) (pa : Nat) (f : Qcb → Qcb) : State := { s with qcbs := mapIf (fun q => q.pa = pa) f s.qcbs }
/-- The partition that owns a sector (R14). -/
def State.sectorPart (s : State) (k : Nat) : Option Partition := s.parts.find? fun p => k ∈ p.sectors
/-- The partition that owns a core. -/
def State.corePart (s : State) (c : Nat) : Option Partition := s.sectorPart (coreSector c)
/-- The cores of a partition, in ascending core index. -/
def State.partCores (s : State) (p : Nat) : List Nat :=
  match s.part? p with
  | none => []
  | some q => (List.range 768).filter fun c => coreSector c ∈ q.sectors

/-- The participants of a collective group by rank, where the workgroup's grid is the one that the group is bound to (R278,
R365). -/
def State.groupOf (s : State) (w : Wg) (gid : Nat) : Option (List (Nat × Nat × Nat)) :=
  match s.part? w.part, s.grid? w.grid with
  | some p, some g =>
    (p.groups.find? fun x => x.1 = gid && x.2.2.1 = g.qcb && x.2.2.2 = g.packet).map fun x => x.2.1
  | _, _ => none

/-- sys.COREID of a core (R13). -/
def State.coreid (s : State) (c : Nat) : Word32 :=
  let part := match s.corePart c with | some p => p.num | none => 0
  BitVec.ofNat 32 (coreCol c + coreRow c * 16 + coreDie c * 256 + (coreQuad c % 48) * 1024 + coreSector c * 65536
    + part * 1048576)

/-- A step put on the agenda, due a number of clk from now. -/
def State.post (s : State) (delay : Nat) (i : Instr) : State := { s with agenda := s.agenda ++ [(s.clk + delay, i)] }
/-- Several steps put on the agenda. -/
def State.postAll (s : State) (l : List (Nat × Instr)) : State := l.foldl (fun t x => t.post x.1 x.2) s
/-- A fresh identity is s.ids; this is the state in which it has been taken. -/
def State.takeId (s : State) : State := { s with ids := s.ids + 1 }
/-- The state in which a free value has been taken. -/
def State.takeFree (s : State) : State := { s with free := s.free + 1 }
/-- A message sent out. -/
def State.send (s : State) (m : Msg) : State := { s with sent := s.sent ++ [m] }

/-! ### Threads and crews of a workgroup -/

/-- The crew a thread belongs to. -/
def Wg.crewOf (w : Wg) (t : Nat) : Nat := t / w.width
/-- The lane of a thread in its crew, the value of k.lane (R83). -/
def Wg.laneOf (w : Wg) (t : Nat) : Nat := t % w.width
/-- A thread changed. -/
def Wg.modThread (w : Wg) (t : Nat) (f : Thread → Thread) : Wg := { w with threads := modAt w.threads t f }
/-- Several threads changed alike. -/
def Wg.modThreads (w : Wg) (ts : List Nat) (f : Thread → Thread) : Wg := ts.foldl (fun w t => w.modThread t f) w
/-- A crew changed. -/
def Wg.modCrew (w : Wg) (c : Nat) (f : Crew → Crew) : Wg := { w with crews := modAt w.crews c f }
/-- Several crews changed alike. -/
def Wg.modCrews (w : Wg) (cs : List Nat) (f : Crew → Crew) : Wg := cs.foldl (fun w c => w.modCrew c f) w
/-- The crews of a list of threads, ascending. -/
def Wg.crewsOf (w : Wg) (ts : List Nat) : List Nat := dedup (ts.map w.crewOf)
/-- The threads of a crew. -/
def Wg.crewThreads (w : Wg) (c : Nat) : List Nat := (List.range w.width).map fun l => c * w.width + l
/-- A thread, if it is resident. -/
def Wg.thread? (w : Wg) (t : Nat) : Option Thread := w.threads[t]?
/-- A crew, if it is resident. -/
def Wg.crew? (w : Wg) (c : Nat) : Option Crew := w.crews[c]?
/-- The threads of a crew that have not exited. -/
def Wg.live (w : Wg) (c : Nat) : List Nat :=
  (w.crewThreads c).filter fun t => match w.thread? t with | some x => !x.exited | none => false

/-- The mask that names every lane of a crew (R104). -/
def laneMask (width : Nat) : Dbl := BitVec.ofNat 64 (2 ^ width - 1)

/-- A v register of a thread; a register beyond the thread's set reads 0 (no word that names one issues, R85). -/
def Thread.reg (t : Thread) (r : Nat) : Word32 := t.v.getD r 0
/-- A v register written. -/
def Thread.setReg (t : Thread) (r : Nat) (x : Word32) : Thread := { t with v := t.v.set r x }
/-- A predicate of a thread. -/
def Thread.pred (t : Thread) (n : Nat) : Bool := t.p.getLsbD n
/-- A predicate written. -/
def setBit {w : Nat} (p : BitVec w) (n : Nat) (b : Bool) : BitVec w :=
  if b then p ||| (1#w <<< n) else p &&& ~~~(1#w <<< n)
/-- Whether the guard of a word lets a thread act (R31): 7 is always. -/
def guardOn (p : BitVec 7) (g : BitVec 3) : Bool := g = 7 || p.getLsbD g.toNat
/-- A result shifted into the latches (R38). -/
def Thread.shift (t : Thread) (x : Word32) : Thread := { t with latches := (x :: t.latches).take 4 }
/-- An s register of a crew. -/
def Crew.sreg (c : Crew) (r : Nat) : Dbl := c.s.getD r 0
/-- An s register written. -/
def Crew.setS (c : Crew) (r : Nat) (x : Dbl) : Crew := { c with s := c.s.set r x }
/-- An h register of a crew. -/
def Crew.hreg (c : Crew) (r : Nat) : HReg := c.h.getD r .empty
/-- Lane masks with a lane's bit set in those of given flags. -/
def raiseMasks {n : Nat} (masks : List (BitVec n)) (lane : Nat) (f : BitVec 8) : List (BitVec n) :=
  (List.range 8).map fun k =>
    let m := masks.getD k 0
    if f.getLsbD k then setBit m lane true else m

/-- Sticky flags raised in a lane (R97, R327). -/
def Crew.raise (c : Crew) (lane : Nat) (f : BitVec 8) : Crew :=
  { c with flags := c.flags ||| f, masks := raiseMasks c.masks lane f, newFlags := c.newFlags ||| f,
           newMasks := raiseMasks c.newMasks lane f }

/-- Flags of a starter raised, by an array or by none (R143, R327). -/
def Starter.raise (k : Starter) (array : Option Nat) (f : BitVec 8) : Starter :=
  match array with
  | some i =>
    { k with flags := k.flags ||| f, masks := raiseMasks k.masks i f, newFlags := k.newFlags ||| f,
             newMasks := raiseMasks k.newMasks i f }
  | none => { k with flags := k.flags ||| f, newFlags := k.newFlags ||| f }

/-- Flags cleared with their masks (R330): those raised in this clk stay set (R327). -/
def clearMasks {n : Nat} (masks new : List (BitVec n)) (f : BitVec 8) : List (BitVec n) :=
  (List.range 8).map fun k => if f.getLsbD k then new.getD k 0 else masks.getD k 0
def Crew.clearFlags (c : Crew) (f : BitVec 8) : Crew :=
  { c with flags := (c.flags &&& ~~~f) ||| c.newFlags, masks := clearMasks c.masks c.newMasks f }
def Starter.clearFlags (k : Starter) (f : BitVec 8) : Starter :=
  { k with flags := (k.flags &&& ~~~f) ||| k.newFlags, masks := clearMasks k.masks k.newMasks f }

/-- A thread set going at an address, in a new issue group: its latches are lost (R38). -/
def Thread.goto (t : Thread) (pc : Pc) (clk delay : Nat) : Thread :=
  { t with pc := pc, wait := .ready, latches := [], since := clk, notBefore := clk + delay, mark := none, notes := [] }

/-- Whether the crew's handler runs (R331, TINFO.IN). -/
def Crew.inHandler (c : Crew) : Bool := c.tinfo.getLsbD 8
/-- Whether a thread is held outside the handler's set (R333). -/
def Wg.heldOut (w : Wg) (t : Nat) : Bool :=
  match w.crew? (w.crewOf t) with
  | some c => c.inHandler && !(w.laneOf t ∈ c.trapH)
  | none => true

/-- The clk ends: flags raised in it are no longer new (R327), and its results are read from now on (R70, R99). -/
def State.ageFlags (s : State) : State :=
  { s with
    wgs := s.wgs.map fun (w : Wg) =>
      { w with crews := w.crews.map (fun c => { c with newFlags := 0, newMasks := List.replicate 8 0 }), written := [] }
    quads := s.quads.map fun (x : Nat × Quad) =>
      (x.1, { x.2 with starter := { x.2.starter with newFlags := 0, newMasks := List.replicate 8 0, written := [] } }) }

/-! ### Code addresses -/

/-- A frame of a core as it stands: while its overlay is being written it holds none (R276, R292). -/
def State.frame (s : State) (core : Nat) (f : Bool) : Frame :=
  match (s.core core).frames[f.toNat]? with | some x => if x.ready ≤ s.clk then x else Frame.reset | none => Frame.reset
/-- Code loaded in a frame of a core. -/
def State.frameCode (s : State) (core : Nat) (f : Bool) : List Word32 := (s.frame core f).code
/-- The overlay number loaded in a frame; 0 in the field of a word that reports it when none is. -/
def State.frameOvl (s : State) (core : Nat) (f : Bool) : BitVec 8 :=
  match (s.frame core f).ovl with
  | some (_, n) => BitVec.ofNat 8 n
  | none => 0
/-- Whether a byte offset is a valid target in a frame of a core (R252). -/
def State.validTarget (s : State) (core : Nat) (f : Bool) (off : Nat) : Bool :=
  off % 12 = 0 && decide (off < 4 * (s.frameCode core f).length)
/-- Whether a byte offset is a valid target in a starter's memory (R252). -/
def State.validStarterTarget (s : State) (q off : Nat) : Bool :=
  off % 12 = 0 && decide (off < 4 * (s.starter q).code.length)
/-- The program counter of a byte offset. -/
def pcOf (f : Bool) (off : Nat) : Pc := { frame := f, word := BitVec.ofNat 14 (off / 4) }
/-- The word n places on. -/
def Pc.plus (p : Pc) (n : Nat) : Pc := { p with word := p.word + BitVec.ofNat 14 n }
/-- A program counter as one number, frame first (R255). -/
def Pc.toNat (p : Pc) : Nat := p.frame.toNat * 16384 + p.word.toNat

/-- The filler word (R33). -/
def filler : Word32 := 0x01F03264

/-- Filler words at which a group would begin are passed over (R35). -/
def skipFillers (code : List Word32) : Nat → Pc → Pc
  | 0, p => p
  | n + 1, p => if code[p.word.toNat]? = some filler then skipFillers code n (p.plus 1) else p

/-- The place where a group that stands at an address begins. -/
def beginAt (code : List Word32) (p : Pc) : Pc := skipFillers code code.length p

/-! ### Exact traps (R333 to R335) -/

/-- Trap codes (R326). -/
inductive Trap where
  | illop
  | xmember (cause : Nat)
  | memfault
  | logfull
  | sealedFault
  | latch
  | arith
  | barrier
  | falseStart
  | abort
  | user
deriving DecidableEq, Repr

/-- The code TINFO reports (R326). -/
def Trap.code : Trap → Nat
  | .illop => 1 | .xmember _ => 2 | .memfault => 3 | .logfull => 4 | .sealedFault => 5 | .latch => 6 | .arith => 7
  | .barrier => 8 | .falseStart => 9 | .abort => 10 | .user => 11

/-- TINFO.DETAIL (R331). -/
def Trap.detail : Trap → Nat
  | .xmember c => c
  | .abort => 1
  | _ => 0

/-- TINFO of a trap (R331). -/
def tinfoOf (t : Trap) (inn nest : Bool) (word : Pc) : Word32 :=
  BitVec.ofNat 32 (t.code + t.detail * 16 + inn.toNat * 256 + nest.toNat * 512 + word.word.toNat * 1024
    + word.frame.toNat * 16777216)

/-- TPC of a resume point (R331). -/
def tpcOf (p : Pc) (ovl : BitVec 8) : Word32 :=
  BitVec.ofNat 32 (p.word.toNat + p.frame.toNat * 16384 + ovl.toNat * 32768)

/-- The program counter in a TPC-layout word. -/
def pcOfTpc (w : Word32) : Pc := { frame := w.getLsbD 14, word := w.extractLsb' 0 14 }

/-- Whether TVEC sends a crew's trap to its handler (R333): VALID, not in a handler, target valid. -/
def State.delegates (s : State) (core : Nat) (c : Crew) : Bool :=
  c.tvec.getLsbD 31 && !c.inHandler && s.validTarget core (c.tvec.getLsbD 16) (c.tvec.extractLsb' 0 16).toNat

/-- One crew takes a trap (R333): the lanes trapping, the reported word, the resume point. An undelegated trap stops the
workgroup with TINFO and TPC written (R335). -/
def State.crewTrap (s : State) (wg crew : Nat) (lanes : List Nat) (t : Trap) (word resume : Pc) : State :=
  match s.wg? wg with
  | none => s
  | some w =>
    match w.crew? crew with
    | none => s
    | some c =>
      let ovl := s.frameOvl w.core resume.frame
      if s.delegates w.core c then
        let entry := pcOf (c.tvec.getLsbD 16) (c.tvec.extractLsb' 0 16).toNat
        s.modWg wg fun w =>
          (w.modCrew crew fun c =>
            { c with tinfo := tinfoOf t true false word, tpc := tpcOf resume ovl, trapH := lanes }).modThreads
            (lanes.map fun l => crew * w.width + l) fun x => x.goto entry s.clk 4
      else
        s.modWg wg fun w =>
          { (w.modCrew crew fun c =>
              { c with tinfo := tinfoOf t c.inHandler c.inHandler word, tpc := tpcOf resume ovl }) with
            stopped := some t.code }

/-- A workgroup or starter that an undelegated trap has stopped is told to the command complex, which completes its grid's LAUNCH
with TRAP (R335, R366). -/
def State.reportStop (s : State) (grid : Nat) : State :=
  match s.grid? grid with
  | some g => s.post 0 (.packetComplete g.qcb g.packet 3)
  | none => s

/-- A starter takes a trap (R333); an undelegated one stops it and the workgroups of its grid on the quad, and is told to the command
complex (R335). -/
def State.starterTrap (s : State) (q : Nat) (t : Trap) (word resume : Pc) : State :=
  let k := s.starter q
  let off := (k.tvec.extractLsb' 0 16).toNat
  let inn := k.tinfo.getLsbD 8
  if k.tvec.getLsbD 31 && !inn && s.validStarterTarget q off then
    s.modStarter q fun k =>
      { k with tinfo := tinfoOf t true false word, tpc := tpcOf resume 0, pc := pcOf false off, wait := .ready,
               notBefore := s.clk + 4, mark := none }
  else
    let s := s.modStarter q fun k =>
      { k with tinfo := tinfoOf t inn inn word, tpc := tpcOf resume 0, stopped := some t.code }
    match k.run with
    | some (g, _) =>
      { s with wgs := mapIf (fun w => w.grid = g && coreQuad w.core = q) (fun w => { w with stopped := some t.code }) s.wgs }.reportStop g
    | none => s

/-- Every crew of a list of threads takes a trap, one handler per crew (R333). -/
def State.groupTrap (s : State) (wg : Nat) (threads : List Nat) (t : Trap) (word resume : Pc) : State :=
  match s.wg? wg with
  | none => s
  | some w =>
    let s := (w.crewsOf threads).foldl
      (fun s c => s.crewTrap wg c ((threads.filter fun x => w.crewOf x = c).map w.laneOf) t word resume) s
    match s.wg? wg with
    | some w' => if w'.stopped.isSome && w.stopped.isNone then s.reportStop w.grid else s
    | none => s

/-- A return from a crew's handler (R334): IN cleared, every live thread of H at TPC, the held threads released; a repeat sequence goes
on for its own set (R100, R103), which the handler's own sequence, if one is left, has only interrupted. -/
def State.crewReturn (s : State) (wg crew : Nat) : State :=
  s.modWg wg fun w =>
    match w.crew? crew with
    | none => w
    | some c =>
      let back := (c.trapH.map fun l => crew * w.width + l).filter
        fun t => match w.thread? t with | some x => !x.exited | none => false
      (w.modThreads back fun x => x.goto (pcOfTpc c.tpc) s.clk 4).modCrew crew
        fun c => { c with tinfo := setBit c.tinfo 8 false, trapH := [], repThreads := c.repOuter.getD c.repThreads, repOuter := none }

/-- A return from a starter's handler (R334). -/
def State.starterReturn (s : State) (q : Nat) : State :=
  s.modStarter q fun k =>
    { k with tinfo := setBit k.tinfo 8 false, pc := pcOfTpc k.tpc, wait := .ready, notBefore := s.clk + 4, mark := none }

/-! ### Frozen masters (R379) -/

/-- Whether threads of a workgroup belong to a frozen master: a crew of theirs, or their partition's function. -/
def State.frozenWg (s : State) (wg : Nat) (threads : List Nat) : Bool :=
  match s.wg? wg with
  | none => false
  | some w => (match s.part? w.part with | some p => (s.func p.func).frozen | none => false)
      || (w.crewsOf threads).any fun c => match w.crew? c with | some k => k.frozen | none => false

end Sys2Proof.Machine
end

