-- ==== Sys2Proof/Machine/Arrays.lean ====
section
/-! DEFINITION. Operand slots and their word-valid bits (R144, R145), banks (R156), scratchpad presence (R188, R191), and
what a kill does to an array (R163, R178). -/

namespace Sys2Proof.Machine

/-- The arrays an array mask names (R143). -/
def arraysOf (m : BitVec 4) : List Nat := (List.range 4).filter fun i => m.getLsbD i

/-- The elements of a list of numbers below n that a mask names. -/
def maskOf (n : Nat) (v : Nat) : List Nat := (List.range n).filter fun i => v.testBit i

/-- An operand slot of a core. -/
def Core.slot (k : Core) (n : Nat) : Slot := k.slots.getD n Slot.reset
/-- An operand slot changed. -/
def Core.modSlot (k : Core) (n : Nat) (f : Slot → Slot) : Core := { k with slots := modAt k.slots n f }
/-- A bank of a core. -/
def Core.bank (k : Core) (n : Nat) : Bank := k.banks.getD n Bank.reset
/-- A bank changed. -/
def Core.modBank (k : Core) (n : Nat) (f : Bank → Bank) : Core := { k with banks := modAt k.banks n f }
/-- Whether an operand line, 0 to 1,023, is present: all 32 word-valid bits set (R144). -/
def Core.lineFull (k : Core) (line : Nat) : Bool := kget 0 k.valid line = BitVec.allOnes 32
/-- A slot's word-valid bits cleared. -/
def Core.clearValid (k : Core) (n : Nat) : Core := { k with valid := k.valid.filter fun x => x.1 / 128 ≠ n }
/-- A CLAIMED slot whose required lines are all present becomes FULL (R144). -/
def Core.settleSlot (k : Core) (n : Nat) : Core :=
  let sl := k.slot n
  if sl.state = .claimed ∧ (List.range sl.lines).all fun l => k.lineFull (128 * n + l) then
    k.modSlot n fun x => { x with state := .full }
  else k
/-- The word-valid bit of an operand word set, by its byte offset; a slot no longer CLAIMED takes no bit (R145). -/
def Core.markWord (k : Core) (off : Nat) : Core :=
  if (k.slot (off / 16384)).state = .claimed then
    ({ k with valid := kset k.valid (off / 128) (setBit (kget 0 k.valid (off / 128)) (off % 128 / 4) true) }).settleSlot
      (off / 16384)
  else k
/-- A slot made FREE (R144): its word-valid bits are cleared at the next claim. -/
def Core.freeSlot (k : Core) (n : Nat) : Core :=
  k.modSlot n fun x => { x with state := .free, readers := 0, releasing := false }

/-- A sequencer is looked at again in the clk after something it may wait for has changed (R155, R161, R174, R408). -/
def State.poke (s : State) (core : Nat) : State :=
  if (s.core core).queue = [] then s else s.post 1 (.macroOperationStart core)

/-! ### Scratchpad presence -/

/-- Scratchpad lines of a core made present; each wake mark sends its notice (R188, R191). -/
def State.setPresent (s : State) (core : Nat) (lines : List Nat) : State :=
  let k := s.core core
  let woken := k.wake.filter fun x => x.1 ∈ lines
  let s := s.setCore core
    { k with
      absent := k.absent.filter fun l => !(l ∈ lines)
      setNow := (s.clk, (if k.setNow.1 = s.clk then k.setNow.2 else []) ++ lines)
      wake := k.wake.filter fun x => !(x.1 ∈ lines) }
  (s.postAll (woken.map fun x => (2, .wakeNotice x.2 core x.1))).poke core

/-- Scratchpad lines of a core made absent, but for those set present in the same clk (R188). -/
def State.setAbsent (s : State) (core : Nat) (lines : List Nat) : State :=
  s.modCore core fun k =>
    { k with absent := dedup (k.absent ++ lines.filter fun l => !(k.setNow.1 = s.clk && l ∈ k.setNow.2)) }

/-! ### The end of work on an array -/

/-- Events of a core's sequencer, the request and the grant of its token among them (R346). -/
def isSequencerEvent (core : Nat) (i : Instr) : Bool :=
  match i with
  | .macroOperationStart c => c = core
  | .mmaRowStep c => c = core
  | .mmaComplete c => c = core
  | .mzeroComplete c => c = core
  | .checkComplete c => c = core
  | .drainLineWrite c _ => c = core
  | .drainComplete c => c = core
  | .tokenRequest c => c = core
  | .tokenGrant c => c = core
  | _ => false

/-- A token goes over to ballast (R347). -/
def Token.toBallast (t : Token) (clk : Nat) : Token := match t with | .work => .ballast clk | t => t

/-- The bank a macro-operation names. -/
def MacroKind.bankOf : MacroKind → Option Nat
  | .zero b _ => some b.toNat
  | .mma b .. => some b.toNat
  | .drain b .. => some b.toNat
  | .check b => some b.toNat
  | .heat .. => none

/-- Bytes of one A block (R146); a B block is half of it. -/
def aBlock (code planes : Nat) : Nat :=
  match code with
  | 1 => 32768
  | 2 | 3 => 16384
  | 7 => 4096
  | 8 => planes * 1024
  | _ => 8192

/-- Code and planes of a format slot (R127, R129). -/
def fmtOf (f : List Word32) : Nat × Nat :=
  let c := ((f.getD 0 0).extractLsb' 0 4).toNat
  (c, if c = 8 then ((f.getD 0 0).extractLsb' 8 4).toNat else 8)

/-- The byte range of A and of B of an mma (R146, R157). -/
def mmaRanges (g : Option Grid) (fa fb oa ob kc : Nat) : (Nat × Nat) × (Nat × Nat) :=
  let sl := fun n => match g with | some g => g.fslots.getD n [] | none => []
  let a := fmtOf (sl fa)
  let b := fmtOf (sl fb)
  ((16384 * oa, 16384 * oa + kc * aBlock a.1 a.2), (16384 * ob, 16384 * ob + kc * (aBlock b.1 b.2 / 2)))

/-- The slots a byte range of operand memory touches. -/
def slotsIn (r : Nat × Nat) : List Nat := (List.range 8).filter fun n => 16384 * n < r.2 && r.1 < 16384 * (n + 1)

/-- The slots a macro-operation reads. -/
def State.opSlots (s : State) (o : MacroOp) : List Nat :=
  match o.kind with
  | .mma _ fa fb oa ob kc _ _ =>
    let r := mmaRanges (s.grid? o.grid) fa fb oa ob kc
    dedup (slotsIn r.1 ++ slotsIn r.2)
  | _ => []

/-- An array stops and discards its work (R163): the queue emptied, every bank named by a discarded operation cleared, the
token run on as ballast, READERS cleared and every slot a discarded operation read set to SCRUB, cleared 32 clk later
(R178). -/
def State.killArray (s : State) (core : Nat) : State :=
  let k := s.core core
  let reads := dedup (k.queue.flatMap s.opSlots)
  let banks := dedup (k.queue.filterMap fun o => o.kind.bankOf)
  let k := banks.foldl (fun (k : Core) b => k.modBank b fun _ => Bank.reset) k
  let k := { k with queue := [], nextc := 0, nextrow := 0, rowsAt := (0, 0, 0), chunk := none, held := [], rowFlags := [], stepDue := none, asked := false,
                    token := k.token.toBallast s.clk, slots := k.slots.map fun x => { x with readers := 0, releasing := false } }
  let k := reads.foldl (fun (k : Core) n => k.modSlot n fun x => { x with state := .scrub }) k
  let s := { s.setCore core k with
    ops := s.ops.filter fun (o : MemOp) => !(o.kind == OpKind.scale && decide (o.core = core))
    agenda := s.agenda.filter fun e => !isSequencerEvent core e.2
    pacer := { s.pacer with reqs := s.pacer.reqs.filter fun r => r.core ≠ core } }
  s.postAll (reads.map fun n => (32, .slotScrubComplete core n))

/-- The allocation of a starter's grid on a core: its base and size, size 0 when there is none (R170). With several workgroups of
the grid on the core it is that of the first begun, and it lasts when that workgroup ends (log entry 70). -/
def State.gridAlloc (s : State) (core grid : Nat) : Nat × Nat :=
  match (s.core core).kept.find? fun x => x.1 = grid with
  | some x => (x.2.1, x.2.2)
  | none => match sortBy (fun (w : Wg) => w.id) (s.wgs.filter fun w => w.core = core && w.grid = grid) with
    | w :: _ => (w.scratchBase, w.scratchBytes)
    | [] => (0, 0)

/-- The allocation of a grid's first begun workgroup on a core stays with the grid when that workgroup leaves while the quad's
starter runs the grid (R170; log entry 70). -/
def State.keepAlloc (s : State) (w : Wg) : State :=
  match (s.starter (coreQuad w.core)).run with
  | some (g, _) =>
    let first := s.wgs.all fun x => !(x.core = w.core && x.grid = w.grid) || decide (w.id ≤ x.id)
    if g = w.grid && first && !(s.core w.core).kept.any fun x => x.1 = w.grid then
      s.modCore w.core fun k => { k with kept := (w.grid, w.scratchBase, w.scratchBytes) :: k.kept }
    else s
  | none => s

/-- A starter set back to its idle state (R178, R294); its grid's allocations on the quad end with it (R170), and the grid, if
it is over, leaves its table. -/
def State.idleStarter (s : State) (q : Nat) : State :=
  let s := match (s.starter q).run with
    | some (g, _) =>
      let s := (List.range 4).foldl (fun (s : State) i => s.modCore (quadCore q i) fun k =>
        { k with kept := k.kept.filter fun x => x.1 ≠ g }) s
      match s.grid? g with
      | some x => s.post 0 (.packetComplete x.qcb x.packet 0)
      | none => s
    | none => s
  s.modStarter q fun k => { Starter.reset with code := k.code, mcorr := k.mcorr }

end Sys2Proof.Machine
end

