-- ==== Sys2Proof/Machine/Operands.lean ====
section
/-! DEFINITION. Operand forms: source selectors (R28 to R30, R48), guards (R31, R98), the word's issuer, and the one
way a word writes its results, shifts latches and hands control on (R32, R36, R38, R84, R99). -/

namespace Sys2Proof.Machine

/-- The f32 and integer constants that read the same everywhere (R29); 0 for a selector that names none. -/
def plainConst (sel : Nat) : Word32 :=
  match sel with
  | 100 => 0
  | 101 => 1
  | 105 => 0xFFFFFFFF
  | 106 => 2
  | 107 => 0x7FFFFFFF
  | 108 => 0x80000000
  | 109 => 0xFF
  | 110 => 0xFFFF
  | 114 => 0x3F800000
  | 115 => 0xBF800000
  | 116 => 0x3F000000
  | 117 => 0x40000000
  | 118 => 0x7F800000
  | 119 => 0xFF800000
  | 120 => 0x7F7FFFFF
  | 121 => 0x7FC00000
  | 122 => 0x40490FDB
  | 123 => 0x3F317218
  | 124 => 0x3FB8AA3B
  | _ => 0

/-- The constant a selector yields in a thread (R29). -/
def constSel (s : State) (w : Wg) (t sel : Nat) : Word32 :=
  match sel with
  | 102 => BitVec.ofNat 32 (w.laneOf t)
  | 103 => BitVec.ofNat 32 t
  | 104 => BitVec.ofNat 32 (w.crewOf t)
  | 111 => BitVec.ofNat 32 w.width
  | 112 => BitVec.ofNat 32 w.index
  | 113 => s.coreid w.core
  | 125 => BitVec.ofNat 32 w.node
  | 126 => BitVec.ofNat 32 w.hcore
  | _ => plainConst sel

/-- The constant a selector yields in a starter stream (R48). -/
def starterConst (s : State) (q : Nat) (k : Starter) (sel : Nat) : Word32 :=
  let width := match k.run with | some (g, _) => (match s.grid? g with | some g => g.width | none => 0) | none => 0
  match sel with
  | 104 => 0
  | 111 => BitVec.ofNat 32 width
  | 112 => BitVec.ofNat 32 k.kwg
  | 113 => s.coreid (quadCore q 0)
  | 125 => BitVec.ofNat 32 k.knode
  | 126 => BitVec.ofNat 32 k.kheat
  | _ => plainConst sel

/-- A per-lane source (R86), and whether it reads a lost latch (R38). -/
def laneSrc (s : State) (is : Issue) (w : Wg) (t sel : Nat) : Word32 × Bool :=
  match w.thread? t with
  | none => (0, false)
  | some x =>
    if sel < 64 then (x.reg sel, false)
    else if sel < 96 then
      match w.crew? (w.crewOf t) with
      | some c => ((c.sreg (sel - 64)).truncate 32, false)
      | none => (0, false)
    else if sel < 100 then
      match x.latches[sel - 96]? with
      | some v => (v, false)
      | none => (0, true)
    else if sel = 127 then (is.lit, false)
    else (constSel s w t sel, false)

/-- A uniform source as a 64-bit value, from the crew of a thread (R67). -/
def uniSrcAt (s : State) (is : Issue) (w : Wg) (t sel : Nat) : Dbl :=
  if 64 ≤ sel ∧ sel < 96 then
    match w.crew? (w.crewOf t) with
    | some c => c.sreg (sel - 64)
    | none => 0
  else if sel = 127 then is.lit.signExtend 64
  else (constSel s w t sel).signExtend 64

/-- A source read once for the group, from the crew of its lowest-numbered thread (R67, R84). -/
def uniSrc (s : State) (is : Issue) (w : Wg) (sel : Nat) : Dbl := uniSrcAt s is w (is.threads.headD 0) sel

/-- A source of a starter word, as a 64-bit value (R30). -/
def starterSrc (s : State) (is : Issue) (q : Nat) (k : Starter) (sel : Nat) : Dbl :=
  if 64 ≤ sel ∧ sel < 96 then k.s.getD (sel - 64) 0
  else if sel = 127 then is.lit.signExtend 64
  else (starterConst s q k sel).signExtend 64

/-- The s register n of the crew of a thread. -/
def Wg.sOf (w : Wg) (t n : Nat) : Dbl :=
  match w.crew? (w.crewOf t) with
  | some c => c.sreg n
  | none => 0

/-- The s register n of the crew of the group's lowest-numbered thread (R84). -/
def uniS (is : Issue) (w : Wg) (n : Nat) : Dbl := w.sOf (is.threads.headD 0) n

/-- The active threads of a word: those whose guard predicate is 1 (R31). -/
def active (is : Issue) (w : Wg) (g : BitVec 3) : List Nat :=
  is.threads.filter fun t => match w.thread? t with | some x => guardOn x.p g | none => false

/-- The crews of the group that have an active thread (R84). -/
def activeCrews (is : Issue) (w : Wg) (g : BitVec 3) : List Nat := w.crewsOf (active is w g)

/-- Run a meaning of the vector stream on the word being issued and the workgroup as the clk reads it (R36). -/
def withGroup (s : State) (f : Issue → Wg → State) : Host.Outcome State Fault Refusal :=
  match s.cur with
  | some is =>
    match is.who with
    | .group id =>
      match (match is.base with | some w => some w | none => s.wg? id) with
      | some w => .next (f is w)
      | none => .fault .noIssue
    | .starter _ => .fault .noIssue
  | none => .fault .noIssue

/-- The workgroup a word of the vector stream reads (R36). -/
def State.reading (s : State) : Option Wg :=
  match s.cur with
  | some { who := .group _, base := some w, .. } => some w
  | some { who := .group id, base := none, .. } => s.wg? id
  | _ => none

/-- Run a meaning of the starter stream on the word being issued and the starter as the clk reads it. -/
def withStarter (s : State) (f : Issue → Nat → Starter → State) : Host.Outcome State Fault Refusal :=
  match s.cur with
  | some is =>
    match is.who with
    | .starter q => .next (f is q (match is.baseStarter with | some k => k | none => s.starter q))
    | .group _ => .fault .noIssue
  | none => .fault .noIssue

/-- Run a meaning that both streams have. -/
def withEither (s : State) (f : Issue → Wg → State) (g : Issue → Nat → Starter → State) :
    Host.Outcome State Fault Refusal :=
  match s.cur with
  | some { who := .starter _, .. } => withStarter s g
  | _ => withGroup s f

/-- What a word of a group does to registers: v registers of threads, s registers of crews, predicates of threads,
latches shifted, and flags raised in threads (R97). -/
structure Effect where
  v : List (Nat × Nat × Word32) := []
  s : List (Nat × Nat × Dbl) := []
  p : List (Nat × Nat × Bool) := []
  shift : List (Nat × Word32) := []
  flags : List (Nat × BitVec 8) := []
deriving DecidableEq, Repr

/-- Flags raised in a thread go to its crew's flag word and masks (R97). -/
def Wg.raise (w : Wg) (t : Nat) (f : BitVec 8) : Wg := w.modCrew (w.crewOf t) fun c => c.raise (w.laneOf t) f

/-- Registers written and flags raised. -/
def Wg.write (w : Wg) (v : List (Nat × Nat × Word32)) (sl : List (Nat × Nat × Dbl)) (p : List (Nat × Nat × Bool))
    (flags : List (Nat × BitVec 8)) : Wg :=
  let w := v.foldl (fun (w : Wg) (x : Nat × Nat × Word32) => w.modThread x.1 fun t => t.setReg x.2.1 x.2.2) w
  let w := sl.foldl (fun (w : Wg) (x : Nat × Nat × Dbl) => w.modCrew x.1 fun c => c.setS x.2.1 x.2.2) w
  let w := p.foldl (fun (w : Wg) (x : Nat × Nat × Bool) => w.modThread x.1 fun t => { t with p := setBit t.p x.2.1 x.2.2 }) w
  flags.foldl (fun (w : Wg) (x : Nat × BitVec 8) => w.raise x.1 x.2) w

/-- A word of some crews has written its results in a clk (R411). -/
def Wg.wroteIn (w : Wg) (crews : List Nat) (clk : Nat) : Wg := w.modCrews crews fun c => { c with wrote := clk + 1 }

/-- Results of this clk with what their v registers held before it, which an X-pipe word reads in lanes that are not active (R107). -/
def PendWr.asRead (p : PendWr) (w : Wg) : PendWr :=
  { p with v := p.v.map fun x => (x.1, x.2.1, match w.thread? x.1 with | some t => t.reg x.2.1 | none => 0) }

/-- Whether a word has results to write. -/
def Effect.writes (e : Effect) : Bool := e.v != [] || e.s != [] || e.p != [] || e.flags != []

/-- The threads of the word go to the word control passes to, ready in the next clk (R34, R261); a thread that another word of
the clk has set waiting goes on waiting. -/
def State.retireAt (s : State) (is : Issue) (wg delay : Nat) : State :=
  s.modWg wg fun w => w.modThreads is.threads fun t =>
    if t.exited || t.wait != .ready then t
    else { t with pc := is.next, since := s.clk, notBefore := max t.notBefore (s.clk + delay), mark := none, notes := [] }

/-- The threads of the word go on (R34). -/
def State.retire (s : State) (is : Issue) (wg : Nat) : State := s.retireAt is wg 1

/-- A word's results written, its latches shifted, and its threads sent on. A result of latency 1 is written at the end
of the clk; one of latency l is pending until clk l − 1 from now (R70, R99, R116, R411). -/
def State.finish (s : State) (is : Issue) (w : Wg) (e : Effect) (latency : Nat) : State :=
  let shifted := fun (w : Wg) => e.shift.foldl (fun w x => w.modThread x.1 fun t => t.shift x.2) w
  let flags := e.flags.filter fun f => f.2 ≠ 0
  let s :=
    if latency ≤ 1 then s.modWg w.id fun x =>
        ((shifted x).write e.v e.s e.p flags).wroteIn (if e.writes then w.crewsOf is.threads else []) s.clk
    else
      let pw : PendWr := { id := s.ids, v := e.v, s := e.s, p := e.p, flags := flags, crews := w.crewsOf is.threads,
                            valid := [], latch := e.shift.map fun x => x.1, mem := [] }
      ((s.modWg w.id fun w => { shifted w with pend := (shifted w).pend ++ [pw] }).post (latency - 1)
        (.multiClkResultWrite w.id s.ids)).takeId
  s.retire is w.id

/-- A starter word's results: s registers and flags after a latency, predicates at once, the program counter moved on
(R68, R70, R142, R327). -/
def State.starterFinish (s : State) (is : Issue) (q : Nat) (sl : List (Nat × Dbl)) (p : List (Nat × Bool))
    (flags : BitVec 8) (latency : Nat) : State :=
  let on := fun (k : Starter) =>
    { k with p := p.foldl (fun (b : BitVec 7) (x : Nat × Bool) => setBit b x.1 x.2) k.p, pc := is.next, wait := .ready,
             notBefore := max k.notBefore (s.clk + 1), mark := none }
  if latency ≤ 1 then
    s.modStarter q fun k =>
      on ({ k with
        s := sl.foldl (fun (l : List Dbl) (x : Nat × Dbl) => l.set x.1 x.2) k.s
        wrote := if sl = [] ∧ p = [] then k.wrote else s.clk + 1 }.raise none flags)
  else
    let pw : PendWr :=
      { id := s.ids, v := [], s := sl.map fun (x : Nat × Dbl) => (0, x.1, x.2), p := [], flags := [(0, flags)], crews := [],
        valid := [], latch := [], mem := [] }
    ((s.modStarter q fun k => on { k with pend := k.pend ++ [pw] }).post (latency - 1)
      (.multiClkResultWrite 0 s.ids)).takeId

/-- A starter goes on with no effect. -/
def State.starterRetire (s : State) (is : Issue) (q : Nat) : State := s.starterFinish is q [] [] 0 1

/-- The word ends its clk as the issue runner must know. -/
def State.ended (s : State) (e : Ended) : State :=
  { s with cur := match s.cur with | some is => some { is with ended := e } | none => none }

/-- The issuing threads take a trap at a word, resuming there (R326, R333). -/
def State.trapHere (s : State) (is : Issue) (wg : Nat) (threads : List Nat) (t : Trap) : State :=
  let resume := match t with | .illop => is.first | _ => is.addr
  (s.groupTrap wg threads t is.addr resume).ended (match t with | .illop => .illegal | _ => .trapped)

/-- The issuing threads park at the first word of the clk (R412). -/
def State.park (s : State) (is : Issue) (wg : Nat) (c : PCond) : State :=
  (s.modWg wg fun w => w.modThreads is.threads fun t =>
    { t with pc := is.first, wait := .parked c, since := s.clk }).ended .parked

/-- The issuing threads park with a number kept for the word (R412, the steps a word's rule keeps). -/
def State.parkMark (s : State) (is : Issue) (wg : Nat) (c : PCond) (m : Nat) : State :=
  (s.modWg wg fun w => w.modThreads is.threads fun t =>
    { t with pc := is.first, wait := .parked c, since := s.clk, mark := some m }).ended .parked

/-- The issuing threads park, and their word keeps a number for them (R412). -/
def State.parkNote (s : State) (is : Issue) (wg : Nat) (c : PCond) (m : Nat) : State :=
  (s.modWg wg fun w => w.modThreads is.threads fun t =>
    { t with pc := is.first, wait := .parked c, since := s.clk
             notes := { at_ := is.addr, val := m, clk := s.clk } :: t.notes.filter fun n => n.at_ ≠ is.addr }).ended .parked

/-- What the word being issued has kept for a thread. -/
def noteOf (is : Issue) (w : Wg) (t : Nat) : Option Note :=
  match w.thread? t with
  | some x => x.notes.find? fun n => n.at_ = is.addr
  | none => none

/-- What the word being issued has kept for its threads. -/
def issueNotes (is : Issue) (w : Wg) : List Note := is.threads.filterMap (noteOf is w)

/-- The number the issuing threads keep for a word that parked. -/
def issueMark (is : Issue) (w : Wg) : Option Nat :=
  match w.thread? (is.threads.headD 0) with
  | some t => t.mark
  | none => none

/-- The issuing threads go on but issue nothing younger until an operation replies (R199, R214, R215). -/
def State.block (s : State) (is : Issue) (wg op : Nat) : State :=
  (s.retire is wg).modWg wg fun w => w.modThreads is.threads fun t => { t with wait := .blocked op }

/-- A starter takes a trap at its word. -/
def State.starterTrapHere (s : State) (is : Issue) (q : Nat) (t : Trap) : State :=
  (s.starterTrap q t is.addr (match t with | .illop => is.first | _ => is.addr)).ended
    (match t with | .illop => .illegal | _ => .trapped)

/-- A starter stalls at its word (R154, R160, R169). -/
def State.starterPark (s : State) (is : Issue) (q : Nat) (c : PCond) (m : Option Nat) : State :=
  (s.modStarter q fun k => { k with pc := is.first, wait := .parked c, mark := match m with | some x => some x | none => k.mark }).ended .parked

/-- MFINFO (R200). -/
def mfinfoOf (cause : Nat) (write : Bool) : Word32 := BitVec.ofNat 32 (cause + write.toNat * 16)

/-- The issuing threads of the crews that have an active thread: the ones a word's trap takes (R333, R403). -/
def trapping (is : Issue) (w : Wg) (g : BitVec 3) : List Nat :=
  is.threads.filter fun t => w.crewOf t ∈ activeCrews is w g

/-- The report registers of a memory fault (R200, R414): bad names the faulting threads with their addresses. Each crew
of the trapping threads gets its own lanes and its own lowest faulting lane's address; one that has none traps with both 0 (log
entry 76). -/
def Wg.faultReport (w : Wg) (threads : List Nat) (cause : Nat) (write : Bool) (bad : List (Nat × Nat)) : Wg :=
  (w.crewsOf threads).foldl (fun (w : Wg) (c : Nat) =>
    let mine := sortBy (fun x => w.laneOf x.1) (bad.filter fun x => w.crewOf x.1 = c)
    w.modCrew c fun k =>
      { k with
        mfinfo := mfinfoOf cause write
        mfaddr := match mine with | x :: _ => BitVec.ofNat 64 x.2 | [] => 0
        mflanes := mine.foldl (fun m x => setBit m (w.laneOf x.1) true) 0#64 }) w

/-- A word takes MEMFAULT, SEALED or LOGFULL with its report (R200, R326). -/
def State.memFault (s : State) (is : Issue) (w : Wg) (g : BitVec 3) (t : Trap) (cause : Nat) (write : Bool)
    (bad : List (Nat × Nat)) : State :=
  let ts := trapping is w g
  (s.modWg w.id fun x => x.faultReport ts cause write bad).trapHere is w.id ts t

/-- The same for a word that acts once for its group: every active thread is named, with one address (R84). -/
def State.memFaultOnce (s : State) (is : Issue) (w : Wg) (g : BitVec 3) (t : Trap) (cause : Nat) (write : Bool)
    (addr : Nat) : State :=
  s.memFault is w g t cause write ((active is w g).map fun x => (x, addr))

end Sys2Proof.Machine
end

