-- ==== Sys2Proof/Machine/Flags.lean ====
section
/-! DEFINITION. The sticky flags (R97, R327), exact arithmetic on float formats with one rounding (R93 to R96, R122,
R133), and the f32 operations every unit shares. -/

namespace Sys2Proof.Machine

/-- Flag bits (R327). -/
def flNV : BitVec 8 := 1
def flOF : BitVec 8 := 2
def flUF : BitVec 8 := 4
def flNX : BitVec 8 := 8
def flSAT : BitVec 8 := 16
def flDIVZ : BitVec 8 := 32
def flREDERR : BitVec 8 := 64
def flLATCH : BitVec 8 := 128

/-- A flag when a condition holds. -/
def flagIf (b : Bool) (f : BitVec 8) : BitVec 8 := if b then f else 0

/-- A rounding mode and the subnormal controls (R92); rm: 0 nearest-even, 1 towards zero, 2 down, 3 up. -/
structure FpMode where
  rm : Nat
  ftz : Bool
  daz : Bool
deriving DecidableEq, Repr

/-- The mode FPCTL selects (R92). -/
def fpMode (w : Word32) : FpMode := { rm := (w.extractLsb' 0 2).toNat, ftz := w.getLsbD 2, daz := w.getLsbD 3 }
/-- Nearest-even with subnormals kept (R158, R244). -/
def plainMode : FpMode := { rm := 0, ftz := false, daz := false }

/-- What a float code stands for: NaN, infinity, or the finite value ± m × 2^e. -/
inductive FVal where
  | nan (signalling : Bool)
  | inf (neg : Bool)
  | fin (neg : Bool) (m : Nat) (e : Int)
deriving DecidableEq, Repr

/-- An IEEE-style layout: exponent bits and mantissa bits (R122). -/
structure Ieee where
  eb : Nat
  mb : Nat
deriving DecidableEq, Repr

def Ieee.f32 : Ieee := { eb := 8, mb := 23 }
def Ieee.f16 : Ieee := { eb := 5, mb := 10 }
def Ieee.bf16 : Ieee := { eb := 8, mb := 7 }
/-- The exponent bias. -/
def Ieee.bias (f : Ieee) : Nat := 2 ^ (f.eb - 1) - 1
/-- The exponent of the smallest subnormal. -/
def Ieee.qmin (f : Ieee) : Int := 1 - (f.bias : Int) - f.mb
/-- The canonical NaN (R122). -/
def Ieee.qnan (f : Ieee) : Nat := (2 ^ f.eb - 1) * 2 ^ f.mb + 2 ^ (f.mb - 1)
/-- A signed infinity. -/
def Ieee.infinity (f : Ieee) (neg : Bool) : Nat := neg.toNat * 2 ^ (f.eb + f.mb) + (2 ^ f.eb - 1) * 2 ^ f.mb
/-- The largest finite value with a sign. -/
def Ieee.largest (f : Ieee) (neg : Bool) : Nat := f.infinity neg - 1

/-- The value of a code of an IEEE-style format (R122). -/
def Ieee.val (f : Ieee) (w : Nat) : FVal :=
  let neg := w.testBit (f.eb + f.mb)
  let ex := w / 2 ^ f.mb % 2 ^ f.eb
  let fr := w % 2 ^ f.mb
  if ex = 2 ^ f.eb - 1 then
    if fr = 0 then .inf neg else .nan (!fr.testBit (f.mb - 1))
  else if ex = 0 then .fin neg fr f.qmin
  else .fin neg (fr + 2 ^ f.mb) ((ex : Int) - f.bias - f.mb)

/-- The exact value ± num / den × 2^e brought to a multiple of 2^q by a rounding mode: the multiple, and inexactness. -/
def roundAt (rm : Nat) (neg : Bool) (num den : Nat) (e q : Int) : Nat × Bool :=
  let n := if e ≥ q then num * 2 ^ (e - q).toNat else num
  let d := if e ≥ q then den else den * 2 ^ (q - e).toNat
  let quo := n / d
  let rem := n % d
  let up := match rm with
    | 0 => decide (2 * rem > d) || (decide (2 * rem = d) && quo % 2 = 1)
    | 1 => false
    | 2 => neg && rem ≠ 0
    | _ => !neg && rem ≠ 0
  (if up then quo + 1 else quo, rem ≠ 0)

/-- The exponent of the leading bit of num / den × 2^e, for num and den not 0. -/
def leadExp (num den : Nat) (e : Int) : Int :=
  let l : Int := (num.log2 : Int) - den.log2
  let below := if l ≥ 0 then decide (num < den * 2 ^ l.toNat) else decide (num * 2 ^ (-l).toNat < den)
  (if below then l - 1 else l) + e

/-- The sign bit of a format as a number. -/
def Ieee.signBit (f : Ieee) (neg : Bool) : Nat := neg.toNat * 2 ^ (f.eb + f.mb)

/-- An exact value rounded once into an IEEE-style format, with the flags of R94 and R96. -/
def Ieee.round (f : Ieee) (md : FpMode) (neg : Bool) (num den : Nat) (e : Int) : Nat × BitVec 8 :=
  if num = 0 then (f.signBit neg, 0)
  else
    let lead := leadExp num den e
    let free := roundAt md.rm neg num den e (lead - f.mb)
    let lead' := if free.1 = 2 ^ (f.mb + 1) then lead + 1 else lead
    let tiny := decide (lead' < 1 - (f.bias : Int))
    if tiny && md.ftz then (f.signBit neg, flUF ||| flNX)
    else
      let q := if lead - f.mb < f.qmin then f.qmin else lead - f.mb
      let r := roundAt md.rm neg num den e q
      let m := if r.1 = 2 ^ (f.mb + 1) then 2 ^ f.mb else r.1
      let q := if r.1 = 2 ^ (f.mb + 1) then q + 1 else q
      let ex : Int := if m < 2 ^ f.mb then 0 else q + f.bias + f.mb
      if ex ≥ 2 ^ f.eb - 1 then
        let toInf := match md.rm with | 0 => true | 1 => false | 2 => neg | _ => !neg
        (if toInf then f.infinity neg else f.largest neg, flOF ||| flNX)
      else
        (f.signBit neg + (if m < 2 ^ f.mb then m else ex.toNat * 2 ^ f.mb + (m - 2 ^ f.mb)),
          flagIf r.2 flNX ||| flagIf (tiny && r.2) flUF)

/-- The exact sum of two finite values, as a sign, a magnitude and an exponent; a zero sum has its sign by R94. -/
def finSum (rm : Nat) (n1 : Bool) (m1 : Nat) (e1 : Int) (n2 : Bool) (m2 : Nat) (e2 : Int) : Bool × Nat × Int :=
  let e := if e1 < e2 then e1 else e2
  let a : Int := (if n1 then -1 else 1) * ((m1 * 2 ^ (e1 - e).toNat : Nat) : Int)
  let b : Int := (if n2 then -1 else 1) * ((m2 * 2 ^ (e2 - e).toNat : Nat) : Int)
  let t := a + b
  if t = 0 then (if n1 = n2 then n1 else rm = 2, 0, e) else (decide (t < 0), t.natAbs, e)

/-- Subnormal inputs read as zeros of their sign under DAZ (R96). -/
def dazVal (daz : Bool) (v : FVal) : FVal :=
  match v with
  | .fin n m e => if daz && decide (m < 2 ^ 23) then .fin n 0 e else .fin n m e
  | v => v

/-- The value of an f32 word under a mode (R96). -/
def f32Val (md : FpMode) (x : Word32) : FVal := dazVal md.daz (Ieee.f32.val x.toNat)

/-- Whether a value is a NaN. -/
def FVal.isNan : FVal → Bool
  | .nan _ => true
  | _ => false
/-- Whether a value is a signalling NaN. -/
def FVal.isSnan : FVal → Bool
  | .nan b => b
  | _ => false

/-- The canonical NaN of f32 (R122). -/
def canonNan : Word32 := 0x7FC00000

/-- An f32 result from an exact value. -/
def f32Round (md : FpMode) (neg : Bool) (num den : Nat) (e : Int) : Word32 × BitVec 8 :=
  let r := Ieee.f32.round md neg num den e
  (BitVec.ofNat 32 r.1, r.2)

/-- The f32 word of an infinity. -/
def f32Inf (neg : Bool) : Word32 := if neg then 0xFF800000 else 0x7F800000

/-- The sum of two values, neither a NaN (R93, R94). -/
def sumVals (md : FpMode) (a b : FVal) : Word32 × BitVec 8 :=
  match a, b with
  | .inf n, .inf m => if n = m then (f32Inf n, 0) else (canonNan, flNV)
  | .inf n, _ => (f32Inf n, 0)
  | _, .inf n => (f32Inf n, 0)
  | .fin n1 m1 e1, .fin n2 m2 e2 =>
    let t := finSum md.rm n1 m1 e1 n2 m2 e2
    f32Round md t.1 t.2.1 1 t.2.2
  | _, _ => (canonNan, 0)

/-- The product of two values: none when it is 0 × ∞. -/
def mulVals (a b : FVal) : Option FVal :=
  match a, b with
  | .fin n1 m1 e1, .fin n2 m2 e2 => some (.fin (n1 != n2) (m1 * m2) (e1 + e2))
  | .inf n, .fin m k _ => if k = 0 then none else some (.inf (n != m))
  | .fin m k _, .inf n => if k = 0 then none else some (.inf (n != m))
  | .inf n, .inf m => some (.inf (n != m))
  | _, _ => some (.nan false)

/-- vadd.f32 (R93). -/
def f32Add (md : FpMode) (a b : Word32) : Word32 × BitVec 8 :=
  let x := f32Val md a
  let y := f32Val md b
  if x.isSnan || y.isSnan then (canonNan, flNV)
  else if x.isNan || y.isNan then (canonNan, 0)
  else sumVals md x y

/-- The sign bit inverted (R89). -/
def f32Neg (x : Word32) : Word32 := x ^^^ 0x80000000

/-- vsub.f32 (R93). -/
def f32Sub (md : FpMode) (a b : Word32) : Word32 × BitVec 8 := f32Add md a (f32Neg b)

/-- vmul.f32 (R93). -/
def f32Mul (md : FpMode) (a b : Word32) : Word32 × BitVec 8 :=
  let x := f32Val md a
  let y := f32Val md b
  if x.isSnan || y.isSnan then (canonNan, flNV)
  else if x.isNan || y.isNan then (canonNan, 0)
  else match mulVals x y with
    | none => (canonNan, flNV)
    | some (.fin n m e) => f32Round md n m 1 e
    | some (.inf n) => (f32Inf n, 0)
    | some (.nan _) => (canonNan, 0)

/-- vfma.f32: a × b + c with one rounding (R93); an invalid product is invalid whatever c is. -/
def f32Fma (md : FpMode) (a b c : Word32) : Word32 × BitVec 8 :=
  let x := f32Val md a
  let y := f32Val md b
  let z := f32Val md c
  if x.isSnan || y.isSnan || z.isSnan then (canonNan, flNV)
  else match (if x.isNan || y.isNan then some (.nan false) else mulVals x y) with
    | none => (canonNan, flNV)
    | some p => if p.isNan || z.isNan then (canonNan, 0) else sumVals md p z

/-- An order on f32 words that are no NaN, −0 below +0 (R95). -/
def f32Key (x : Word32) : Int := if x.getLsbD 31 then -((x.toNat - 2 ^ 31 : Nat) : Int) - 1 else (x.toNat : Int)

/-- A zero in place of a subnormal under DAZ, the sign kept (R96). -/
def dazWord (daz : Bool) (x : Word32) : Word32 :=
  if daz && x.extractLsb' 23 8 = 0#8 then x &&& 0x80000000 else x

/-- Whether an f32 word is a NaN. -/
def f32IsNan (x : Word32) : Bool := (Ieee.f32.val x.toNat).isNan
/-- Whether an f32 word is a signalling NaN. -/
def f32IsSnan (x : Word32) : Bool := (Ieee.f32.val x.toNat).isSnan

/-- vmin.f32 and vmax.f32 (R95). -/
def f32MinMax (max daz : Bool) (a b : Word32) : Word32 × BitVec 8 :=
  let x := dazWord daz a
  let y := dazWord daz b
  let fl := flagIf (f32IsSnan x || f32IsSnan y) flNV
  if f32IsNan x && f32IsNan y then (canonNan, fl)
  else if f32IsNan x then (y, fl)
  else if f32IsNan y then (x, fl)
  else if max then (if f32Key x < f32Key y then y else x, fl)
  else (if f32Key y < f32Key x then y else x, fl)

/-- vclamp.f32: Min(Max(old D, a), b) (R95). -/
def f32Clamp (daz : Bool) (d a b : Word32) : Word32 × BitVec 8 :=
  let m := f32MinMax true daz d a
  let r := f32MinMax false daz m.1 b
  (r.1, m.2 ||| r.2)

/-- The order of two finite or infinite values, zeros equal: a number to compare (R91). -/
def f32Cmp (x : Word32) : Int := if x = 0x80000000 then 0 else if x.getLsbD 31 then f32Key x + 1 else f32Key x

/-- vcmp.f32 under a condition (R91), and NV. -/
def f32Cond (md : FpMode) (k : BitVec 3) (a b : Word32) : Bool × BitVec 8 :=
  let x := dazWord md.daz a
  let y := dazWord md.daz b
  let uno := f32IsNan x || f32IsNan y
  let c := match k.toNat with
    | 0 => !uno && f32Cmp x = f32Cmp y
    | 1 => uno || f32Cmp x ≠ f32Cmp y
    | 2 => !uno && decide (f32Cmp x < f32Cmp y)
    | 3 => !uno && decide (f32Cmp y ≤ f32Cmp x)
    | 4 => !uno && decide (f32Cmp x ≤ f32Cmp y)
    | 5 => !uno && decide (f32Cmp y < f32Cmp x)
    | 6 => !uno
    | _ => uno
  (c, flagIf (f32IsSnan x || f32IsSnan y || (uno && decide (2 ≤ k.toNat) && decide (k.toNat ≤ 5))) flNV)

/-- The eight conditions of scmp (R81). -/
def scmpCond (k : BitVec 3) (a b : Dbl) : Bool :=
  match k.toNat with
  | 0 => a == b
  | 1 => a != b
  | 2 => a.slt b
  | 3 => !a.slt b
  | 4 => a.ult b
  | 5 => !a.ult b
  | 6 => (a &&& b) != 0
  | _ => (a &&& b) == 0

/-- The eight conditions of vcmp.i32 and vcmp.n32 (R91). -/
def vcmpCond (signed : Bool) (k : BitVec 3) (a b : Word32) : Bool :=
  let lt := fun (x y : Word32) => if signed then x.slt y else x.ult y
  match k.toNat with
  | 0 => a == b
  | 1 => a != b
  | 2 => lt a b
  | 3 => !lt a b
  | 4 => !lt b a
  | 5 => lt b a
  | 6 => (a &&& b) != 0
  | _ => (a &&& b) == 0

/-- Leading zero bits of a value of w bits (R74, R89). -/
def clz {w : Nat} (x : BitVec w) : Nat := if x = 0 then w else w - 1 - x.toNat.log2

/-- One bits of a value (R74, R89). -/
def popcount {w : Nat} (x : BitVec w) : Nat := ((List.range w).filter fun k => x.getLsbD k).length

end Sys2Proof.Machine
end

