-- ==== Sys2Proof/Machine/Scalar.lean ====
section
/-! DEFINITION. The scalar and address arithmetic instructions (majors 0x01 to 0x15, R67 to R81), one meaning each
over two shared forms: a word that writes an s register, and a compare that writes a predicate. -/

namespace Sys2Proof.Machine

/-- A scalar word that writes s_D (R67, R68, R70): f gives the result and flags from the reading of a source and the old
s_D. It executes once for the crew if a thread of the group is active, and for a starter if its predicate is 1. -/
def scalarOp (s : State) (g : BitVec 3) (w : Bool) (d : BitVec 5) (latency : Nat)
    (f : (BitVec 7 → Dbl) → Dbl → Dbl × BitVec 8) : Host.Outcome State Fault Refusal :=
  withEither s
    (fun is wg =>
      if active is wg g = [] then s.retire is wg.id
      else
        let r := f (fun x => uniSrc s is wg x.toNat) (uniS is wg d.toNat)
        s.finish is wg
          { s := if w then [] else (activeCrews is wg g).map fun c => (c, d.toNat, r.1)
            flags := (active is wg g).map fun t => (t, r.2) } latency)
    (fun is q k =>
      if guardOn k.p g then
        let r := f (fun x => starterSrc s is q k x.toNat) (k.s.getD d.toNat 0)
        s.starterFinish is q (if w then [] else [(d.toNat, r.1)]) [] r.2 latency
      else s.starterRetire is q)

/-- A compare of two values into a predicate of the active threads, or of the starter (R80). -/
def scalarCmp (s : State) (g : BitVec 3) (w : Bool) (p : BitVec 3) (f : (BitVec 7 → Dbl) → Bool) :
    Host.Outcome State Fault Refusal :=
  withEither s
    (fun is wg =>
      let c := f fun x => uniSrc s is wg x.toNat
      s.finish is wg { p := if w then [] else (active is wg g).map fun t => (t, p.toNat, c) } 1)
    (fun is q k =>
      if guardOn k.p g then
        s.starterFinish is q [] (if w then [] else [(p.toNat, f fun x => starterSrc s is q k x.toNat)]) 0 1
      else s.starterRetire is q)

/-- sadd (R72). -/
def execSadd (g : BitVec 3) (w : Bool) (d : BitVec 5) (a b : BitVec 7) (s : State) :=
  scalarOp s g w d 1 fun x _ => (x a + x b, 0)
/-- ssub (R72). -/
def execSsub (g : BitVec 3) (w : Bool) (d : BitVec 5) (a b : BitVec 7) (s : State) :=
  scalarOp s g w d 1 fun x _ => (x a - x b, 0)
/-- smul (R72). -/
def execSmul (g : BitVec 3) (w : Bool) (d : BitVec 5) (a b : BitVec 7) (s : State) :=
  scalarOp s g w d 4 fun x _ => (x a * x b, 0)
/-- smulh: bits 127:64 of the signed product (R72). -/
def execSmulh (g : BitVec 3) (w : Bool) (d : BitVec 5) (a b : BitVec 7) (s : State) :=
  scalarOp s g w d 4 fun x _ => (BitVec.ofInt 64 ((x a).toInt * (x b).toInt / 2 ^ 64), 0)
/-- The quotient of sdiv with its special cases (R73). -/
def sdivValue (a b : Dbl) : Dbl × BitVec 8 :=
  if b = 0 then (0, flDIVZ) else (BitVec.ofInt 64 (a.toInt.tdiv b.toInt), 0)
/-- sdiv (R73). -/
def execSdiv (g : BitVec 3) (w : Bool) (d : BitVec 5) (a b : BitVec 7) (s : State) :=
  scalarOp s g w d 36 fun x _ => sdivValue (x a) (x b)
/-- sand (R72). -/
def execSand (g : BitVec 3) (w : Bool) (d : BitVec 5) (a b : BitVec 7) (s : State) :=
  scalarOp s g w d 1 fun x _ => (x a &&& x b, 0)
/-- sor (R72). -/
def execSor (g : BitVec 3) (w : Bool) (d : BitVec 5) (a b : BitVec 7) (s : State) :=
  scalarOp s g w d 1 fun x _ => (x a ||| x b, 0)
/-- sxor (R72). -/
def execSxor (g : BitVec 3) (w : Bool) (d : BitVec 5) (a b : BitVec 7) (s : State) :=
  scalarOp s g w d 1 fun x _ => (x a ^^^ x b, 0)
/-- A left shift by a whole unsigned value; 0 from the width on (R72, R88). -/
def shlBy {n : Nat} (a : BitVec n) (b : Nat) : BitVec n := if b ≥ n then 0 else a <<< b
/-- A logical right shift by a whole unsigned value; 0 from the width on (R72, R88). -/
def shrBy {n : Nat} (a : BitVec n) (b : Nat) : BitVec n := if b ≥ n then 0 else a >>> b
/-- An arithmetic right shift by a whole unsigned value; the sign from the width on (R72, R88). -/
def sraBy {n : Nat} (a : BitVec n) (b : Nat) : BitVec n :=
  if b ≥ n then (if a.msb then BitVec.allOnes n else 0) else a.sshiftRight b
/-- sshl (R72). -/
def execSshl (g : BitVec 3) (w : Bool) (d : BitVec 5) (a b : BitVec 7) (s : State) :=
  scalarOp s g w d 1 fun x _ => (shlBy (x a) (x b).toNat, 0)
/-- sshr (R72). -/
def execSshr (g : BitVec 3) (w : Bool) (d : BitVec 5) (a b : BitVec 7) (s : State) :=
  scalarOp s g w d 1 fun x _ => (shrBy (x a) (x b).toNat, 0)
/-- ssra (R72). -/
def execSsra (g : BitVec 3) (w : Bool) (d : BitVec 5) (a b : BitVec 7) (s : State) :=
  scalarOp s g w d 1 fun x _ => (sraBy (x a) (x b).toNat, 0)
/-- smin (R72). -/
def execSmin (g : BitVec 3) (w : Bool) (d : BitVec 5) (a b : BitVec 7) (s : State) :=
  scalarOp s g w d 1 fun x _ => (if (x b).slt (x a) then x b else x a, 0)
/-- smax (R72). -/
def execSmax (g : BitVec 3) (w : Bool) (d : BitVec 5) (a b : BitVec 7) (s : State) :=
  scalarOp s g w d 1 fun x _ => (if (x a).slt (x b) then x b else x a, 0)
/-- ssel: a if the old s_D is not 0, else b (R75). -/
def execSsel (g : BitVec 3) (w : Bool) (d : BitVec 5) (a b : BitVec 7) (s : State) :=
  scalarOp s g w d 1 fun x old => (if old ≠ 0 then x a else x b, 0)
/-- scmp (R80, R81). -/
def execScmp (g : BitVec 3) (w : Bool) (k p : BitVec 3) (a b : BitVec 7) (s : State) :=
  scalarCmp s g w p fun x => scmpCond k (x a) (x b)
/-- smov (R74). -/
def execSmov (g : BitVec 3) (w : Bool) (d : BitVec 5) (a : BitVec 7) (s : State) :=
  scalarOp s g w d 1 fun x _ => (x a, 0)
/-- sclz (R74). -/
def execSclz (g : BitVec 3) (w : Bool) (d : BitVec 5) (a : BitVec 7) (s : State) :=
  scalarOp s g w d 1 fun x _ => (BitVec.ofNat 64 (clz (x a)), 0)
/-- spop (R74). -/
def execSpop (g : BitVec 3) (w : Bool) (d : BitVec 5) (a : BitVec 7) (s : State) :=
  scalarOp s g w d 1 fun x _ => (BitVec.ofNat 64 (popcount (x a)), 0)
/-- sli (R76). -/
def execSli (g : BitVec 3) (w : Bool) (d : BitVec 5) (n : BitVec 14) (s : State) :=
  scalarOp s g w d 1 fun _ _ => (n.signExtend 64, 0)
/-- slit.lo (R77). -/
def execSlitLo (g : BitVec 3) (w : Bool) (d : BitVec 5) (a : BitVec 7) (s : State) :=
  scalarOp s g w d 1 fun x _ => (((x a).truncate 32).zeroExtend 64, 0)
/-- slit.hi: the high half replaced (R77). -/
def execSlitHi (g : BitVec 3) (w : Bool) (d : BitVec 5) (a : BitVec 7) (s : State) :=
  scalarOp s g w d 1 fun x old => ((x a).truncate 32 ++ old.truncate 32, 0)
/-- saddr: a + 4 × the sign-extended low half of b (R79). -/
def execSaddr (g : BitVec 3) (w : Bool) (d : BitVec 5) (a b : BitVec 7) (s : State) :=
  scalarOp s g w d 1 fun x _ => (x a + (((x b).truncate 32).signExtend 64) * 4, 0)
/-- sadd with IMM7 (R78). -/
def execSaddImm (g : BitVec 3) (w : Bool) (d : BitVec 5) (a im : BitVec 7) (s : State) :=
  scalarOp s g w d 1 fun x _ => (x a + im.signExtend 64, 0)
/-- scmp with IMM7 (R78, R80). -/
def execScmpImm (g : BitVec 3) (w : Bool) (k p : BitVec 3) (a im : BitVec 7) (s : State) :=
  scalarCmp s g w p fun x => scmpCond k (x a) (im.signExtend 64)

end Sys2Proof.Machine
end

