-- ==== Sys2Proof/Machine/Vector.lean ====
section
/-! DEFINITION. The vector arithmetic instructions (majors 0x18 to 0x34 but the special functions, R83 to R99) and the
repeat control of rep (R100 to R103). -/

namespace Sys2Proof.Machine

/-- The floating-point mode of a thread's crew (R92). -/
def laneMode (w : Wg) (t : Nat) : FpMode :=
  match w.crew? (w.crewOf t) with | some c => fpMode c.fpctl | none => plainMode

/-- A lane's old D. -/
def laneD (w : Wg) (t : Nat) (d : Nat) : Word32 := match w.thread? t with | some x => x.reg d | none => 0

/-- A word of the V pipe that gives each active thread a result (R86, R98, R99): f computes from the mode, a, b and the
old D; the result shifts into the latches and goes to D unless W is 1. -/
def vecOp (s : State) (g : BitVec 3) (w : Bool) (d : BitVec 6) (a b : BitVec 7) (latency : Nat)
    (f : FpMode → Word32 → Word32 → Word32 → Word32 × BitVec 8) : Host.Outcome State Fault Refusal :=
  withGroup s fun is wg =>
    let res := (active is wg g).map fun t =>
      let x := laneSrc s is wg t a.toNat
      let y := laneSrc s is wg t b.toNat
      let r := f (laneMode wg t) x.1 y.1 (laneD wg t d.toNat)
      (t, r.1, r.2 ||| flagIf (x.2 || y.2) flLATCH)
    s.finish is wg
      { v := if w then [] else res.map fun r => (r.1, d.toNat, r.2.1)
        shift := res.map fun r => (r.1, r.2.1)
        flags := res.map fun r => (r.1, r.2.2) } latency

/-- A V-pipe word with one source. -/
def vecOp1 (s : State) (g : BitVec 3) (w : Bool) (d : BitVec 6) (a : BitVec 7) (latency : Nat)
    (f : FpMode → Word32 → Word32 × BitVec 8) : Host.Outcome State Fault Refusal :=
  vecOp s g w d a 100#7 latency fun md x _ _ => f md x

/-- A compare of the V pipe into a predicate of each active thread (R91); the latches do not shift. -/
def vecCmp (s : State) (g : BitVec 3) (w : Bool) (p : BitVec 3) (a b : BitVec 7)
    (f : FpMode → Word32 → Word32 → Bool × BitVec 8) : Host.Outcome State Fault Refusal :=
  withGroup s fun is wg =>
    let res := (active is wg g).map fun t =>
      let x := laneSrc s is wg t a.toNat
      let y := laneSrc s is wg t b.toNat
      let r := f (laneMode wg t) x.1 y.1
      (t, r.1, r.2 ||| flagIf (x.2 || y.2) flLATCH)
    s.finish is wg
      { p := if w then [] else res.map fun r => (r.1, p.toNat, r.2.1)
        flags := res.map fun r => (r.1, r.2.2) } 1

/-- vadd.i32 (R88). -/
def execVaddI32 (g : BitVec 3) (w : Bool) (d : BitVec 6) (a b : BitVec 7) (s : State) :=
  vecOp s g w d a b 1 fun _ x y _ => (x + y, 0)
/-- vadd.f32 (R93). -/
def execVaddF32 (g : BitVec 3) (w : Bool) (d : BitVec 6) (a b : BitVec 7) (s : State) :=
  vecOp s g w d a b 4 fun md x y _ => f32Add md x y
/-- vsub.i32 (R88). -/
def execVsubI32 (g : BitVec 3) (w : Bool) (d : BitVec 6) (a b : BitVec 7) (s : State) :=
  vecOp s g w d a b 1 fun _ x y _ => (x - y, 0)
/-- vsub.f32 (R93). -/
def execVsubF32 (g : BitVec 3) (w : Bool) (d : BitVec 6) (a b : BitVec 7) (s : State) :=
  vecOp s g w d a b 4 fun md x y _ => f32Sub md x y
/-- vmul.i32 (R88). -/
def execVmulI32 (g : BitVec 3) (w : Bool) (d : BitVec 6) (a b : BitVec 7) (s : State) :=
  vecOp s g w d a b 3 fun _ x y _ => (x * y, 0)
/-- vmul.f32 (R93). -/
def execVmulF32 (g : BitVec 3) (w : Bool) (d : BitVec 6) (a b : BitVec 7) (s : State) :=
  vecOp s g w d a b 4 fun md x y _ => f32Mul md x y
/-- vmulh.i32: bits 63:32 of the signed product (R88). -/
def execVmulhI32 (g : BitVec 3) (w : Bool) (d : BitVec 6) (a b : BitVec 7) (s : State) :=
  vecOp s g w d a b 3 fun _ x y _ => (BitVec.ofInt 32 (x.toInt * y.toInt / 2 ^ 32), 0)
/-- vmulh.n32: bits 63:32 of the unsigned product (R88). -/
def execVmulhN32 (g : BitVec 3) (w : Bool) (d : BitVec 6) (a b : BitVec 7) (s : State) :=
  vecOp s g w d a b 3 fun _ x y _ => (BitVec.ofNat 32 (x.toNat * y.toNat / 2 ^ 32), 0)
/-- vmin.i32 (R88). -/
def execVminI32 (g : BitVec 3) (w : Bool) (d : BitVec 6) (a b : BitVec 7) (s : State) :=
  vecOp s g w d a b 1 fun _ x y _ => (if y.slt x then y else x, 0)
/-- vmin.n32 (R88). -/
def execVminN32 (g : BitVec 3) (w : Bool) (d : BitVec 6) (a b : BitVec 7) (s : State) :=
  vecOp s g w d a b 1 fun _ x y _ => (if y.ult x then y else x, 0)
/-- vmin.f32 (R95). -/
def execVminF32 (g : BitVec 3) (w : Bool) (d : BitVec 6) (a b : BitVec 7) (s : State) :=
  vecOp s g w d a b 2 fun md x y _ => f32MinMax false md.daz x y
/-- vmax.i32 (R88). -/
def execVmaxI32 (g : BitVec 3) (w : Bool) (d : BitVec 6) (a b : BitVec 7) (s : State) :=
  vecOp s g w d a b 1 fun _ x y _ => (if x.slt y then y else x, 0)
/-- vmax.n32 (R88). -/
def execVmaxN32 (g : BitVec 3) (w : Bool) (d : BitVec 6) (a b : BitVec 7) (s : State) :=
  vecOp s g w d a b 1 fun _ x y _ => (if x.ult y then y else x, 0)
/-- vmax.f32 (R95). -/
def execVmaxF32 (g : BitVec 3) (w : Bool) (d : BitVec 6) (a b : BitVec 7) (s : State) :=
  vecOp s g w d a b 2 fun md x y _ => f32MinMax true md.daz x y
/-- vfma.f32: a × b + old D with one rounding (R93). -/
def execVfmaF32 (g : BitVec 3) (w : Bool) (d : BitVec 6) (a b : BitVec 7) (s : State) :=
  vecOp s g w d a b 4 fun md x y c => f32Fma md x y c
/-- vmad.i32 (R88). -/
def execVmadI32 (g : BitVec 3) (w : Bool) (d : BitVec 6) (a b : BitVec 7) (s : State) :=
  vecOp s g w d a b 3 fun _ x y c => (x * y + c, 0)
/-- vand (R88). -/
def execVand (g : BitVec 3) (w : Bool) (d : BitVec 6) (a b : BitVec 7) (s : State) :=
  vecOp s g w d a b 1 fun _ x y _ => (x &&& y, 0)
/-- vor (R88). -/
def execVor (g : BitVec 3) (w : Bool) (d : BitVec 6) (a b : BitVec 7) (s : State) :=
  vecOp s g w d a b 1 fun _ x y _ => (x ||| y, 0)
/-- vxor (R88). -/
def execVxor (g : BitVec 3) (w : Bool) (d : BitVec 6) (a b : BitVec 7) (s : State) :=
  vecOp s g w d a b 1 fun _ x y _ => (x ^^^ y, 0)
/-- vshl (R88). -/
def execVshl (g : BitVec 3) (w : Bool) (d : BitVec 6) (a b : BitVec 7) (s : State) :=
  vecOp s g w d a b 1 fun _ x y _ => (shlBy x y.toNat, 0)
/-- vshr (R88). -/
def execVshr (g : BitVec 3) (w : Bool) (d : BitVec 6) (a b : BitVec 7) (s : State) :=
  vecOp s g w d a b 1 fun _ x y _ => (shrBy x y.toNat, 0)
/-- vsra (R88). -/
def execVsra (g : BitVec 3) (w : Bool) (d : BitVec 6) (a b : BitVec 7) (s : State) :=
  vecOp s g w d a b 1 fun _ x y _ => (sraBy x y.toNat, 0)
/-- vsel: a where predicate G is 1, else b, in every thread of the group (R31, R90). -/
def execVsel (g : BitVec 3) (w : Bool) (d : BitVec 6) (a b : BitVec 7) (s : State) :=
  withGroup s fun is wg =>
    let res := is.threads.map fun t =>
      let x := laneSrc s is wg t a.toNat
      let y := laneSrc s is wg t b.toNat
      let p := match wg.thread? t with | some k => k.pred g.toNat | none => false
      (t, if p then x.1 else y.1, flagIf (x.2 || y.2) flLATCH)
    s.finish is wg
      { v := if w then [] else res.map fun r => (r.1, d.toNat, r.2.1)
        shift := res.map fun r => (r.1, r.2.1)
        flags := res.map fun r => (r.1, r.2.2) } 1
/-- vmov (R89). -/
def execVmov (g : BitVec 3) (w : Bool) (d : BitVec 6) (a : BitVec 7) (s : State) :=
  vecOp1 s g w d a 1 fun _ x => (x, 0)
/-- vabs.i32: −2^31 gives the largest value and SAT (R89). -/
def execVabsI32 (g : BitVec 3) (w : Bool) (d : BitVec 6) (a : BitVec 7) (s : State) :=
  vecOp1 s g w d a 1 fun _ x => if x = 0x80000000 then (0x7FFFFFFF, flSAT) else (if x.msb then -x else x, 0)
/-- vabs.f32: bit 31 cleared (R89). -/
def execVabsF32 (g : BitVec 3) (w : Bool) (d : BitVec 6) (a : BitVec 7) (s : State) :=
  vecOp1 s g w d a 1 fun _ x => (x &&& 0x7FFFFFFF, 0)
/-- vneg.i32: −2^31 gives the largest value and SAT (R89). -/
def execVnegI32 (g : BitVec 3) (w : Bool) (d : BitVec 6) (a : BitVec 7) (s : State) :=
  vecOp1 s g w d a 1 fun _ x => if x = 0x80000000 then (0x7FFFFFFF, flSAT) else (-x, 0)
/-- vneg.f32: bit 31 inverted (R89). -/
def execVnegF32 (g : BitVec 3) (w : Bool) (d : BitVec 6) (a : BitVec 7) (s : State) :=
  vecOp1 s g w d a 1 fun _ x => (f32Neg x, 0)
/-- vclz (R89). -/
def execVclz (g : BitVec 3) (w : Bool) (d : BitVec 6) (a : BitVec 7) (s : State) :=
  vecOp1 s g w d a 1 fun _ x => (BitVec.ofNat 32 (clz x), 0)
/-- vpop (R89). -/
def execVpop (g : BitVec 3) (w : Bool) (d : BitVec 6) (a : BitVec 7) (s : State) :=
  vecOp1 s g w d a 1 fun _ x => (BitVec.ofNat 32 (popcount x), 0)
/-- vcmp.i32 (R91). -/
def execVcmpI32 (g : BitVec 3) (w : Bool) (k p : BitVec 3) (a b : BitVec 7) (s : State) :=
  vecCmp s g w p a b fun _ x y => (vcmpCond true k x y, 0)
/-- vcmp.n32 (R91). -/
def execVcmpN32 (g : BitVec 3) (w : Bool) (k p : BitVec 3) (a b : BitVec 7) (s : State) :=
  vecCmp s g w p a b fun _ x y => (vcmpCond false k x y, 0)
/-- vcmp.f32 (R91). -/
def execVcmpF32 (g : BitVec 3) (w : Bool) (k p : BitVec 3) (a b : BitVec 7) (s : State) :=
  vecCmp s g w p a b fun md x y => f32Cond md k x y
/-- vclamp.i32: Min(Max(old D, a), b), signed (R88). -/
def execVclampI32 (g : BitVec 3) (w : Bool) (d : BitVec 6) (a b : BitVec 7) (s : State) :=
  vecOp s g w d a b 1 fun _ x y c =>
    let m := if c.slt x then x else c
    (if y.slt m then y else m, 0)
/-- vclamp.f32 (R95). -/
def execVclampF32 (g : BitVec 3) (w : Bool) (d : BitVec 6) (a b : BitVec 7) (s : State) :=
  vecOp s g w d a b 2 fun md x y c => f32Clamp md.daz c x y

/-! ### rep (R41, R42, R100 to R103) -/

/-- REPCTL with VALID 1 and NEXT 0 from the fields of a rep word (R101). -/
def repctlOf (t : BitVec 2) (x y z : Bool) (n : BitVec 6) : Word32 :=
  BitVec.ofNat 32 (n.toNat * 64 + z.toNat * 4096 + y.toNat * 8192 + x.toNat * 16384 + t.toNat * 32768 + 2147483648)

/-- The value a write of REPCTL leaves (R101, R103): reserved bits 0, and VALID 0 when NEXT would exceed COUNT. -/
def repctlWritten (v : Word32) : Word32 :=
  let r := v &&& 0x8001FFFF
  if (r.extractLsb' 6 6).ult (r.extractLsb' 0 6) then r &&& 0x7FFFFFFF else r

/-- rep: loads REPCTL when VALID is 0 and fixes the thread set; the repeats then issue one by one (R100, R102). A handler's own
sequence keeps the set of the one it has interrupted (R103). t is STRIDE, x is SB, y is SA, z is SD and n is COUNT. -/
def execRep (t : BitVec 2) (x y z : Bool) (n : BitVec 6) (s : State) : Host.Outcome State Fault Refusal :=
  withGroup s fun is wg =>
    let c := wg.crewOf (is.threads.headD 0)
    s.modWg wg.id fun w => w.modCrew c fun k =>
      { k with
        repctl := if k.repctl.getLsbD 31 then k.repctl else repctlOf t x y z n
        repThreads := is.threads.map wg.laneOf
        repOuter := if k.inHandler && !k.repctl.getLsbD 31 then some k.repThreads else k.repOuter }

/-- After a repeat has issued (R102, R103): NEXT moves on; after the last, REPCTL is cleared and the thread set's
program counter moves to the next packet, and until then it holds the rep packet's address. -/
def State.repeatDone (s : State) (wg crew : Nat) : State :=
  s.modWg wg fun w =>
    match w.crew? crew with
    | none => w
    | some k =>
      let next := k.repctl.extractLsb' 0 6
      let count := k.repctl.extractLsb' 6 6
      let ts := k.repThreads.map fun l => crew * w.width + l
      if next.ult count then
        w.modCrew crew fun k => { k with repctl := k.repctl + 1 }
      else
        (w.modThreads ts fun t =>
          let packet := t.pc.word.toNat / 3 * 3
          { t with pc := { t.pc with word := BitVec.ofNat 14 (packet + 3) }, since := s.clk,
                   notBefore := max t.notBefore (s.clk + 1) }).modCrew crew fun k =>
            { k with repctl := 0, repThreads := k.repOuter.getD [], repOuter := none }

/-- One repeat of a sequence has issued (R102). -/
def execRepeatIssue (wg crew : Nat) (s : State) : Host.Outcome State Fault Refusal := .next (s.repeatDone wg crew)

/-- A write of REPCTL by the crew of the word being issued (R103). -/
def execRepctlWrite (v : BitVec 64) (s : State) : Host.Outcome State Fault Refusal :=
  withGroup s fun is wg =>
    s.modWg wg.id fun w => w.modCrew (wg.crewOf (is.threads.headD 0)) fun k =>
      { k with repctl := repctlWritten (v.truncate 32) }

/-- A multi-clk result is written at the end of its latency (R99, R107); identity 0 of a workgroup stands for starters. -/
def execMultiClkResultWrite (wg id : Nat) (s : State) : Host.Outcome State Fault Refusal :=
  if wg = 0 then
    .next { s with quads := s.quads.map fun (x : Nat × Quad) =>
      let k := x.2.starter
      match k.pend.find? fun p => p.id = id with
      | none => x
      | some p =>
        let k := p.flags.foldl (fun (k : Starter) (e : Nat × BitVec 8) => k.raise none e.2) k
        (x.1, { x.2 with
          starter := { k with
            s := p.s.foldl (fun (l : List Dbl) (e : Nat × Nat × Dbl) => l.set e.2.1 e.2.2) k.s
            pend := k.pend.filter fun p => p.id ≠ id
            written := p :: k.written
            wrote := s.clk + 1 } }) }
  else
    match s.wg? wg with
    | none => .next s
    | some w =>
      match w.pend.find? fun p => p.id = id with
      | none => .next s
      | some p =>
        let s := s.modWg wg fun w => { (w.write p.v p.s p.p p.flags).wroteIn p.crews s.clk with
          pend := w.pend.filter (fun p => p.id ≠ id), written := p.asRead w :: w.written }
        if p.valid = [] then .next s
        else .next ((s.modCore w.core fun k => p.valid.foldl (fun (k : Core) off => k.markWord off) k).poke w.core)

end Sys2Proof.Machine
end

