-- ==== Sys2Proof/Machine/CrossLane.lean ====
section
/-! DEFINITION. The cross-lane instructions (majors 0x38 to 0x3F, R104 to R116): arrival of the members, the XMEMBER
check, permutations, votes, and reductions over a fixed tree. -/

namespace Sys2Proof.Machine

/-- The member lanes of a crew (R104): those MASK names, within H while the handler runs (R333). -/
def Wg.members (w : Wg) (c : Nat) : List Nat :=
  match w.crew? c with
  | none => []
  | some k => (List.range w.width).filter fun l => k.members.getLsbD l && (!k.inHandler || l ∈ k.trapH)

/-- The lanes of a crew parked at an X-pipe word, not held outside a handler. -/
def Wg.xParked (w : Wg) (c : Nat) : List Nat :=
  (List.range w.width).filter fun l =>
    match w.thread? (c * w.width + l) with
    | some t => !t.exited && t.wait == .parked .members && !w.heldOut (c * w.width + l)
    | none => false

/-- A lane's program counter as a number. -/
def Wg.lanePc (w : Wg) (c l : Nat) : Nat := match w.thread? (c * w.width + l) with | some t => t.pc.toNat | none => 0
/-- Whether a lane's thread has exited. -/
def Wg.laneExited (w : Wg) (c l : Nat) : Bool :=
  match w.thread? (c * w.width + l) with | some t => t.exited | none => true

/-- Whether every member of a crew is parked at one address (R105). -/
def Wg.xArrived (w : Wg) (c : Nat) : Bool :=
  let ps := w.xParked c
  let ms := w.members c
  match ms with
  | [] => false
  | m :: _ => ms.all fun l => l ∈ ps && w.lanePc c l = w.lanePc c m

/-- The cause of an XMEMBER trap of a crew, if one of R106 holds: the lowest cause number; new are the lanes that have just parked. -/
def Wg.xCause (w : Wg) (c : Nat) (new : List Nat) : Option Nat :=
  let ps := w.xParked c
  let ms := w.members c
  if ps = [] then none
  else if ms.any fun l => w.laneExited c l then some 1
  else if new.any fun l => l ∈ ps && !(l ∈ ms) then some 2
  else
    let live := ms.filter fun l => !w.laneExited c l
    if live.all (fun l => l ∈ ps) && !w.xArrived c then some 3 else none

/-- The XMEMBER check of a crew (R106), some of whose lanes have just parked: the threads parked at the lowest parked address take the
trap. -/
def State.xCheck (s : State) (wg crew : Nat) (new : List Nat) : State :=
  match s.wg? wg with
  | none => s
  | some w =>
    match w.xCause crew new with
    | none => s
    | some cause =>
      let ps := sortBy (fun l => w.lanePc crew l) (w.xParked crew)
      let low := match ps with | l :: _ => w.lanePc crew l | [] => 0
      let h := ps.filter fun l => w.lanePc crew l = low
      match w.thread? (crew * w.width + h.headD 0) with
      | none => s
      | some t => s.groupTrap wg (h.map fun l => crew * w.width + l) (.xmember cause) t.pc t.pc

/-- The threads of the word park at an X-pipe word, and the crew is checked (R105, R106). -/
def State.xPark (s : State) (is : Issue) (w : Wg) : State :=
  ((s.parkNote is w.id .members 0).xCheck w.id (w.crewOf (is.threads.headD 0)) (is.threads.map w.laneOf)).ended .parked

/-- Whether the word being issued has its members: the issue group is exactly the members (R105), or it is a repeat of a
sequence that has parked once at its rep packet (R100). -/
def xHere (is : Issue) (w : Wg) : Bool :=
  let c := w.crewOf (is.threads.headD 0)
  let lanes := is.threads.map w.laneOf
  let ms := w.members c
  (ms.all (fun l => l ∈ lanes) && lanes.all (fun l => l ∈ ms) && ms ≠ [])
    || (match w.crew? c with | some k => k.repctl.getLsbD 31 && k.repThreads ≠ [] && k.repThreads = lanes | none => false)

/-- log₂ of the crew width (R116). -/
def log2w (w : Wg) : Nat := if w.width = 16 then 4 else if w.width = 32 then 5 else 6

/-- Source A of a lane of the crew as it stood before the clk, whether or not the lane takes part: a result that is written in this
clk is not seen (R107). -/
def xSrc (s : State) (is : Issue) (w : Wg) (a : BitVec 7) (lane : Nat) : Word32 :=
  let t := w.crewOf (is.threads.headD 0) * w.width + lane % w.width
  match (w.written.flatMap fun p => p.v).reverse.find? fun x => x.1 = t && x.2.1 = a.toNat with
  | some x => x.2.2
  | none => (laneSrc s is w t a.toNat).1

/-- LATCH when a lane's per-lane source reads a lost latch (R38). -/
def lostFlag (s : State) (is : Issue) (w : Wg) (t : Nat) (a : BitVec 7) : BitVec 8 :=
  flagIf (laneSrc s is w t a.toNat).2 flLATCH

/-- A cross-lane word with a result in each active lane (R107): f gives a thread's result and flags from the active
threads. -/
def xVec (s : State) (g : BitVec 3) (w : Bool) (d : BitVec 6) (srcs : List (BitVec 7)) (latency : Wg → Nat)
    (f : Issue → Wg → List Nat → Nat → Word32 × BitVec 8) : Host.Outcome State Fault Refusal :=
  withGroup s fun is wg =>
    if !xHere is wg then s.xPark is wg
    else
      let act := active is wg g
      let res := act.map fun t =>
        let r := f is wg act t
        (t, r.1, srcs.foldl (fun fl a => fl ||| lostFlag s is wg t a) r.2)
      s.finish is wg
        { v := if w then [] else res.map fun r => (r.1, d.toNat, r.2.1)
          shift := res.map fun r => (r.1, r.2.1)
          flags := res.map fun r => (r.1, r.2.2) } (latency wg)

/-- A cross-lane word with one result for the crew (R109, R110); with no active lane it writes nothing (R107). -/
def xUni (s : State) (g : BitVec 3) (w : Bool) (d : BitVec 5) (srcs : List (BitVec 7))
    (f : Issue → Wg → List Nat → Dbl) : Host.Outcome State Fault Refusal :=
  withGroup s fun is wg =>
    if !xHere is wg then s.xPark is wg
    else
      let act := active is wg g
      if act = [] then s.retire is wg.id
      else
        s.finish is wg
          { s := if w then [] else [(wg.crewOf (is.threads.headD 0), d.toNat, f is wg act)]
            flags := act.map fun t => (t, srcs.foldl (fun fl a => fl ||| lostFlag s is wg t a) 0) } 2

/-- xshuf (R109). -/
def execXshuf (g : BitVec 3) (w : Bool) (d : BitVec 6) (a b : BitVec 7) (s : State) :=
  xVec s g w d [b] (fun _ => 2) fun is wg _ t => (xSrc s is wg a (laneSrc s is wg t b.toNat).1.toNat, 0)
/-- xrot (R109). -/
def execXrot (g : BitVec 3) (w : Bool) (d : BitVec 6) (a b : BitVec 7) (s : State) :=
  xVec s g w d [] (fun _ => 2) fun is wg _ t =>
    (xSrc s is wg a (wg.laneOf t + ((uniSrc s is wg b.toNat).truncate 32).toNat), 0)
/-- xbcast (R109). -/
def execXbcast (g : BitVec 3) (w : Bool) (d : BitVec 6) (a b : BitVec 7) (s : State) :=
  xVec s g w d [] (fun _ => 2) fun is wg _ _ => (xSrc s is wg a ((uniSrc s is wg b.toNat).truncate 32).toNat, 0)
/-- xfirst (R109); a lost latch sets LATCH in every active lane (log entry 73). -/
def execXfirst (g : BitVec 3) (w : Bool) (d : BitVec 5) (a b : BitVec 7) (s : State) :=
  xUni s g w d [b] fun is wg act =>
    let f := act.headD 0
    (laneSrc s is wg f b.toNat).1 ++ (laneSrc s is wg f a.toNat).1

/-- xvote (R110): ballot, any, all, uni. -/
def execXvote (g : BitVec 3) (w : Bool) (d : BitVec 5) (a : BitVec 7) (m : BitVec 2) (s : State) :=
  xUni s g w d [a] fun is wg act =>
    let vals := act.map fun t => (laneSrc s is wg t a.toNat).1
    match m.toNat with
    | 0 => act.foldl (fun acc t => setBit acc (wg.laneOf t) ((laneSrc s is wg t a.toNat).1 != 0)) 0#64
    | 1 => if vals.any (fun v => v != 0) then 1 else 0
    | 2 => if vals.all (fun v => v != 0) then 1 else 0
    | _ => if vals.all (fun v => v == vals.headD 0) then 1 else 0

/-- xcount (R111). -/
def execXcount (g : BitVec 3) (w : Bool) (d : BitVec 6) (a b : BitVec 7) (s : State) :=
  xVec s g w d [a, b] (fun _ => 3) fun is wg act t =>
    (BitVec.ofNat 32 (act.filter fun m =>
      decide (m < t) && ((laneSrc s is wg m a.toNat).1 &&& (laneSrc s is wg m b.toNat).1) != 0).length, 0)

/-- The node operation of a reduction (R112): op 0 add, 1 min, 2 max, 3 and, 4 or, 5 xor; type 0 i32, 1 n32, 2 f32. -/
def nodeOp (md : FpMode) (op ty : Nat) (x y : Word32) : Word32 × BitVec 8 :=
  match op, ty with
  | 0, 2 => f32Add md x y
  | 0, _ => (x + y, 0)
  | 1, 2 => f32MinMax false md.daz x y
  | 1, 1 => (if y.ult x then y else x, 0)
  | 1, _ => (if y.slt x then y else x, 0)
  | 2, 2 => f32MinMax true md.daz x y
  | 2, 1 => (if x.ult y then y else x, 0)
  | 2, _ => (if x.slt y then y else x, 0)
  | 3, _ => (x &&& y, 0)
  | 4, _ => (x ||| y, 0)
  | _, _ => (x ^^^ y, 0)

/-- One level of the pairwise tree (R113): a node with one present input passes it unchanged. -/
def treeLevel (f : Word32 → Word32 → Word32 × BitVec 8) :
    List (Option (Word32 × BitVec 8)) → List (Option (Word32 × BitVec 8))
  | some (x, fx) :: some (y, fy) :: t => (let r := f x y; some (r.1, r.2 ||| fx ||| fy)) :: treeLevel f t
  | none :: b :: t => b :: treeLevel f t
  | a :: none :: t => a :: treeLevel f t
  | l => l

/-- The root of the tree after a number of levels. -/
def treeRoot (f : Word32 → Word32 → Word32 × BitVec 8) :
    Nat → List (Option (Word32 × BitVec 8)) → Option (Word32 × BitVec 8)
  | 0, l => l.headD none
  | n + 1, l => treeRoot f n (treeLevel f l)

/-- The tree's value over the lanes present (R113); vals gives each present lane's input. -/
def treeOver (f : Word32 → Word32 → Word32 × BitVec 8) (levels width : Nat) (present : Nat → Option Word32) :
    Option (Word32 × BitVec 8) :=
  treeRoot f levels ((List.range width).map fun l => (present l).map fun v => (v, 0))

/-- The identity of an operation (R114). -/
def identity (op ty : Nat) : Word32 :=
  match op, ty with
  | 1, 0 => 0x7FFFFFFF
  | 1, 1 => 0xFFFFFFFF
  | 1, _ => 0x7F800000
  | 2, 0 => 0x80000000
  | 2, 1 => 0
  | 2, _ => 0xFF800000
  | 3, _ => 0xFFFFFFFF
  | _, _ => 0

/-- Latency of a reduction or scan (R116). -/
def reduceLatency (o : BitVec 4) (t : BitVec 2) (w : Wg) : Nat :=
  if o = 0 ∧ t = 2 then 4 + 4 * log2w w else 2 + log2w w

/-- xreduce (R113, R115). -/
def execXreduce (g : BitVec 3) (w : Bool) (d : BitVec 6) (a : BitVec 7) (t : BitVec 2) (o : BitVec 4) (s : State) :=
  xVec s g w d [a] (reduceLatency o t) fun is wg act x =>
    match treeOver (nodeOp (laneMode wg x) o.toNat t.toNat) (log2w wg) wg.width (fun l =>
      (act.find? fun k => wg.laneOf k = l).map fun k => (laneSrc s is wg k a.toNat).1) with
    | some r => r
    | none => (0, 0)

/-- xscan, inclusive or exclusive (R114, R115). -/
def execXscan (g : BitVec 3) (w : Bool) (d : BitVec 6) (a : BitVec 7) (x : Bool) (t : BitVec 2) (o : BitVec 4)
    (s : State) :=
  xVec s g w d [a] (reduceLatency o t) fun is wg act k =>
    match treeOver (nodeOp (laneMode wg k) o.toNat t.toNat) (log2w wg) wg.width (fun l =>
      (act.find? fun m => wg.laneOf m = l && (if x then decide (m < k) else decide (m ≤ k))).map
        fun m => (laneSrc s is wg m a.toNat).1) with
    | some r => r
    | none => (identity o.toNat t.toNat, 0)

end Sys2Proof.Machine
end

