-- ==== Sys2Proof/Decode.lean ====
section
/-! DEFINITION. Decoding and encoding of instruction words (02_encoding): total on any bytes,
rejecting by name, the encoder beside it, and the bit fields both use. A decoded word may still break a
selector range or a field class; WellFormed checks those, and a word that fails either takes ILLOP (R49). -/

namespace Sys2Proof

/-- Why a run of bytes is no instruction. -/
inductive Reject where
  /-- Fewer than four bytes. -/
  | short
  /-- A major that R44 leaves unused. -/
  | unusedMajor
  /-- A sub-operation that R46 does not list, or a fixed or reserved bit that differs from its encoding. -/
  | noRow
deriving DecidableEq, Repr

/-- The field of n bits whose lowest bit is lo (R4). -/
def fld (w : Word32) (lo n : Nat) : BitVec n := w.extractLsb' lo n

/-- One bit of a word. -/
def bit (w : Word32) (k : Nat) : Bool := w.getLsbD k

/-- A little-endian word from its four bytes (R4). -/
def wordOfBytes (b0 b1 b2 b3 : Byte) : Word32 := b3 ++ b2 ++ b1 ++ b0

/-- Major 0x01: SADD (R43, R46). -/
def decodeMajor01 (w : Word32) : Except Reject Instr :=
  if fld w 19 1 = 0#1 then .ok (.sadd (bit w 31) (fld w 21 3) (bit w 20) (fld w 14 5) (fld w 7 7) (fld w 0 7)) else
  .error .noRow

/-- Major 0x02: SSUB (R43, R46). -/
def decodeMajor02 (w : Word32) : Except Reject Instr :=
  if fld w 19 1 = 0#1 then .ok (.ssub (bit w 31) (fld w 21 3) (bit w 20) (fld w 14 5) (fld w 7 7) (fld w 0 7)) else
  .error .noRow

/-- Major 0x03: SMUL (R43, R46). -/
def decodeMajor03 (w : Word32) : Except Reject Instr :=
  if fld w 19 1 = 0#1 then .ok (.smul (bit w 31) (fld w 21 3) (bit w 20) (fld w 14 5) (fld w 7 7) (fld w 0 7)) else
  .error .noRow

/-- Major 0x04: SMULH (R43, R46). -/
def decodeMajor04 (w : Word32) : Except Reject Instr :=
  if fld w 19 1 = 0#1 then .ok (.smulh (bit w 31) (fld w 21 3) (bit w 20) (fld w 14 5) (fld w 7 7) (fld w 0 7)) else
  .error .noRow

/-- Major 0x05: SDIV (R43, R46). -/
def decodeMajor05 (w : Word32) : Except Reject Instr :=
  if fld w 19 1 = 0#1 then .ok (.sdiv (bit w 31) (fld w 21 3) (bit w 20) (fld w 14 5) (fld w 7 7) (fld w 0 7)) else
  .error .noRow

/-- Major 0x06: SAND (R43, R46). -/
def decodeMajor06 (w : Word32) : Except Reject Instr :=
  if fld w 19 1 = 0#1 then .ok (.sand (bit w 31) (fld w 21 3) (bit w 20) (fld w 14 5) (fld w 7 7) (fld w 0 7)) else
  .error .noRow

/-- Major 0x07: SOR (R43, R46). -/
def decodeMajor07 (w : Word32) : Except Reject Instr :=
  if fld w 19 1 = 0#1 then .ok (.sor (bit w 31) (fld w 21 3) (bit w 20) (fld w 14 5) (fld w 7 7) (fld w 0 7)) else
  .error .noRow

/-- Major 0x08: SXOR (R43, R46). -/
def decodeMajor08 (w : Word32) : Except Reject Instr :=
  if fld w 19 1 = 0#1 then .ok (.sxor (bit w 31) (fld w 21 3) (bit w 20) (fld w 14 5) (fld w 7 7) (fld w 0 7)) else
  .error .noRow

/-- Major 0x09: SSHL (R43, R46). -/
def decodeMajor09 (w : Word32) : Except Reject Instr :=
  if fld w 19 1 = 0#1 then .ok (.sshl (bit w 31) (fld w 21 3) (bit w 20) (fld w 14 5) (fld w 7 7) (fld w 0 7)) else
  .error .noRow

/-- Major 0x0A: SSHR (R43, R46). -/
def decodeMajor0A (w : Word32) : Except Reject Instr :=
  if fld w 19 1 = 0#1 then .ok (.sshr (bit w 31) (fld w 21 3) (bit w 20) (fld w 14 5) (fld w 7 7) (fld w 0 7)) else
  .error .noRow

/-- Major 0x0B: SSRA (R43, R46). -/
def decodeMajor0B (w : Word32) : Except Reject Instr :=
  if fld w 19 1 = 0#1 then .ok (.ssra (bit w 31) (fld w 21 3) (bit w 20) (fld w 14 5) (fld w 7 7) (fld w 0 7)) else
  .error .noRow

/-- Major 0x0C: SMIN (R43, R46). -/
def decodeMajor0C (w : Word32) : Except Reject Instr :=
  if fld w 19 1 = 0#1 then .ok (.smin (bit w 31) (fld w 21 3) (bit w 20) (fld w 14 5) (fld w 7 7) (fld w 0 7)) else
  .error .noRow

/-- Major 0x0D: SMAX (R43, R46). -/
def decodeMajor0D (w : Word32) : Except Reject Instr :=
  if fld w 19 1 = 0#1 then .ok (.smax (bit w 31) (fld w 21 3) (bit w 20) (fld w 14 5) (fld w 7 7) (fld w 0 7)) else
  .error .noRow

/-- Major 0x0E: SSEL (R43, R46). -/
def decodeMajor0E (w : Word32) : Except Reject Instr :=
  if fld w 19 1 = 0#1 then .ok (.ssel (bit w 31) (fld w 21 3) (bit w 20) (fld w 14 5) (fld w 7 7) (fld w 0 7)) else
  .error .noRow

/-- Major 0x0F: SCMP (R43, R46). -/
def decodeMajor0F (w : Word32) : Except Reject Instr :=
  .ok (.scmp (bit w 31) (fld w 21 3) (bit w 20) (fld w 17 3) (fld w 14 3) (fld w 7 7) (fld w 0 7))

/-- Major 0x10: SMOV, SCLZ, SPOP (R43, R46). -/
def decodeMajor10 (w : Word32) : Except Reject Instr :=
  if fld w 19 1 = 0#1 ∧ fld w 0 7 = 0#7 then .ok (.smov (bit w 31) (fld w 21 3) (bit w 20) (fld w 14 5) (fld w 7 7)) else
  if fld w 19 1 = 0#1 ∧ fld w 0 7 = 1#7 then .ok (.sclz (bit w 31) (fld w 21 3) (bit w 20) (fld w 14 5) (fld w 7 7)) else
  if fld w 19 1 = 0#1 ∧ fld w 0 7 = 2#7 then .ok (.spop (bit w 31) (fld w 21 3) (bit w 20) (fld w 14 5) (fld w 7 7)) else
  .error .noRow

/-- Major 0x11: SLI (R43, R46). -/
def decodeMajor11 (w : Word32) : Except Reject Instr :=
  if fld w 19 1 = 0#1 then .ok (.sli (bit w 31) (fld w 21 3) (bit w 20) (fld w 14 5) (fld w 0 14)) else
  .error .noRow

/-- Major 0x12: SLIT_LO, SLIT_HI (R43, R46). -/
def decodeMajor12 (w : Word32) : Except Reject Instr :=
  if fld w 19 1 = 0#1 ∧ fld w 0 7 = 0#7 then .ok (.slitLo (bit w 31) (fld w 21 3) (bit w 20) (fld w 14 5) (fld w 7 7)) else
  if fld w 19 1 = 0#1 ∧ fld w 0 7 = 1#7 then .ok (.slitHi (bit w 31) (fld w 21 3) (bit w 20) (fld w 14 5) (fld w 7 7)) else
  .error .noRow

/-- Major 0x13: SADDR (R43, R46). -/
def decodeMajor13 (w : Word32) : Except Reject Instr :=
  if fld w 19 1 = 0#1 then .ok (.saddr (bit w 31) (fld w 21 3) (bit w 20) (fld w 14 5) (fld w 7 7) (fld w 0 7)) else
  .error .noRow

/-- Major 0x14: SADD_IMM (R43, R46). -/
def decodeMajor14 (w : Word32) : Except Reject Instr :=
  if fld w 19 1 = 0#1 then .ok (.saddImm (bit w 31) (fld w 21 3) (bit w 20) (fld w 14 5) (fld w 7 7) (fld w 0 7)) else
  .error .noRow

/-- Major 0x15: SCMP_IMM (R43, R46). -/
def decodeMajor15 (w : Word32) : Except Reject Instr :=
  .ok (.scmpImm (bit w 31) (fld w 21 3) (bit w 20) (fld w 17 3) (fld w 14 3) (fld w 7 7) (fld w 0 7))

/-- Major 0x18: VADD_I32 (R43, R46). -/
def decodeMajor18 (w : Word32) : Except Reject Instr :=
  .ok (.vaddI32 (bit w 31) (fld w 21 3) (bit w 20) (fld w 14 6) (fld w 7 7) (fld w 0 7))

/-- Major 0x19: VADD_F32 (R43, R46). -/
def decodeMajor19 (w : Word32) : Except Reject Instr :=
  .ok (.vaddF32 (bit w 31) (fld w 21 3) (bit w 20) (fld w 14 6) (fld w 7 7) (fld w 0 7))

/-- Major 0x1A: VSUB_I32 (R43, R46). -/
def decodeMajor1A (w : Word32) : Except Reject Instr :=
  .ok (.vsubI32 (bit w 31) (fld w 21 3) (bit w 20) (fld w 14 6) (fld w 7 7) (fld w 0 7))

/-- Major 0x1B: VSUB_F32 (R43, R46). -/
def decodeMajor1B (w : Word32) : Except Reject Instr :=
  .ok (.vsubF32 (bit w 31) (fld w 21 3) (bit w 20) (fld w 14 6) (fld w 7 7) (fld w 0 7))

/-- Major 0x1C: VMUL_I32 (R43, R46). -/
def decodeMajor1C (w : Word32) : Except Reject Instr :=
  .ok (.vmulI32 (bit w 31) (fld w 21 3) (bit w 20) (fld w 14 6) (fld w 7 7) (fld w 0 7))

/-- Major 0x1D: VMUL_F32 (R43, R46). -/
def decodeMajor1D (w : Word32) : Except Reject Instr :=
  .ok (.vmulF32 (bit w 31) (fld w 21 3) (bit w 20) (fld w 14 6) (fld w 7 7) (fld w 0 7))

/-- Major 0x1E: VMULH_I32 (R43, R46). -/
def decodeMajor1E (w : Word32) : Except Reject Instr :=
  .ok (.vmulhI32 (bit w 31) (fld w 21 3) (bit w 20) (fld w 14 6) (fld w 7 7) (fld w 0 7))

/-- Major 0x1F: VMULH_N32 (R43, R46). -/
def decodeMajor1F (w : Word32) : Except Reject Instr :=
  .ok (.vmulhN32 (bit w 31) (fld w 21 3) (bit w 20) (fld w 14 6) (fld w 7 7) (fld w 0 7))

/-- Major 0x20: VMIN_I32 (R43, R46). -/
def decodeMajor20 (w : Word32) : Except Reject Instr :=
  .ok (.vminI32 (bit w 31) (fld w 21 3) (bit w 20) (fld w 14 6) (fld w 7 7) (fld w 0 7))

/-- Major 0x21: VMIN_N32 (R43, R46). -/
def decodeMajor21 (w : Word32) : Except Reject Instr :=
  .ok (.vminN32 (bit w 31) (fld w 21 3) (bit w 20) (fld w 14 6) (fld w 7 7) (fld w 0 7))

/-- Major 0x22: VMIN_F32 (R43, R46). -/
def decodeMajor22 (w : Word32) : Except Reject Instr :=
  .ok (.vminF32 (bit w 31) (fld w 21 3) (bit w 20) (fld w 14 6) (fld w 7 7) (fld w 0 7))

/-- Major 0x23: VMAX_I32 (R43, R46). -/
def decodeMajor23 (w : Word32) : Except Reject Instr :=
  .ok (.vmaxI32 (bit w 31) (fld w 21 3) (bit w 20) (fld w 14 6) (fld w 7 7) (fld w 0 7))

/-- Major 0x24: VMAX_N32 (R43, R46). -/
def decodeMajor24 (w : Word32) : Except Reject Instr :=
  .ok (.vmaxN32 (bit w 31) (fld w 21 3) (bit w 20) (fld w 14 6) (fld w 7 7) (fld w 0 7))

/-- Major 0x25: VMAX_F32 (R43, R46). -/
def decodeMajor25 (w : Word32) : Except Reject Instr :=
  .ok (.vmaxF32 (bit w 31) (fld w 21 3) (bit w 20) (fld w 14 6) (fld w 7 7) (fld w 0 7))

/-- Major 0x26: VFMA_F32 (R43, R46). -/
def decodeMajor26 (w : Word32) : Except Reject Instr :=
  .ok (.vfmaF32 (bit w 31) (fld w 21 3) (bit w 20) (fld w 14 6) (fld w 7 7) (fld w 0 7))

/-- Major 0x27: VMAD_I32 (R43, R46). -/
def decodeMajor27 (w : Word32) : Except Reject Instr :=
  .ok (.vmadI32 (bit w 31) (fld w 21 3) (bit w 20) (fld w 14 6) (fld w 7 7) (fld w 0 7))

/-- Major 0x28: VAND (R43, R46). -/
def decodeMajor28 (w : Word32) : Except Reject Instr :=
  .ok (.vand (bit w 31) (fld w 21 3) (bit w 20) (fld w 14 6) (fld w 7 7) (fld w 0 7))

/-- Major 0x29: VOR (R43, R46). -/
def decodeMajor29 (w : Word32) : Except Reject Instr :=
  .ok (.vor (bit w 31) (fld w 21 3) (bit w 20) (fld w 14 6) (fld w 7 7) (fld w 0 7))

/-- Major 0x2A: VXOR (R43, R46). -/
def decodeMajor2A (w : Word32) : Except Reject Instr :=
  .ok (.vxor (bit w 31) (fld w 21 3) (bit w 20) (fld w 14 6) (fld w 7 7) (fld w 0 7))

/-- Major 0x2B: VSHL (R43, R46). -/
def decodeMajor2B (w : Word32) : Except Reject Instr :=
  .ok (.vshl (bit w 31) (fld w 21 3) (bit w 20) (fld w 14 6) (fld w 7 7) (fld w 0 7))

/-- Major 0x2C: VSHR (R43, R46). -/
def decodeMajor2C (w : Word32) : Except Reject Instr :=
  .ok (.vshr (bit w 31) (fld w 21 3) (bit w 20) (fld w 14 6) (fld w 7 7) (fld w 0 7))

/-- Major 0x2D: VSRA (R43, R46). -/
def decodeMajor2D (w : Word32) : Except Reject Instr :=
  .ok (.vsra (bit w 31) (fld w 21 3) (bit w 20) (fld w 14 6) (fld w 7 7) (fld w 0 7))

/-- Major 0x2E: VSEL (R43, R46). -/
def decodeMajor2E (w : Word32) : Except Reject Instr :=
  .ok (.vsel (bit w 31) (fld w 21 3) (bit w 20) (fld w 14 6) (fld w 7 7) (fld w 0 7))

/-- Major 0x2F: VMOV, VABS_I32, VABS_F32, VNEG_I32, VNEG_F32, VCLZ, VPOP, FRCP, FRSQ, FSQRT, FEXP2, FLOG2, FSIN, FCOS, FTANH (R43, R46). -/
def decodeMajor2F (w : Word32) : Except Reject Instr :=
  if fld w 0 7 = 0#7 then .ok (.vmov (bit w 31) (fld w 21 3) (bit w 20) (fld w 14 6) (fld w 7 7)) else
  if fld w 0 7 = 1#7 then .ok (.vabsI32 (bit w 31) (fld w 21 3) (bit w 20) (fld w 14 6) (fld w 7 7)) else
  if fld w 0 7 = 2#7 then .ok (.vabsF32 (bit w 31) (fld w 21 3) (bit w 20) (fld w 14 6) (fld w 7 7)) else
  if fld w 0 7 = 3#7 then .ok (.vnegI32 (bit w 31) (fld w 21 3) (bit w 20) (fld w 14 6) (fld w 7 7)) else
  if fld w 0 7 = 4#7 then .ok (.vnegF32 (bit w 31) (fld w 21 3) (bit w 20) (fld w 14 6) (fld w 7 7)) else
  if fld w 0 7 = 5#7 then .ok (.vclz (bit w 31) (fld w 21 3) (bit w 20) (fld w 14 6) (fld w 7 7)) else
  if fld w 0 7 = 6#7 then .ok (.vpop (bit w 31) (fld w 21 3) (bit w 20) (fld w 14 6) (fld w 7 7)) else
  if fld w 0 7 = 8#7 then .ok (.frcp (bit w 31) (fld w 21 3) (bit w 20) (fld w 14 6) (fld w 7 7)) else
  if fld w 0 7 = 9#7 then .ok (.frsq (bit w 31) (fld w 21 3) (bit w 20) (fld w 14 6) (fld w 7 7)) else
  if fld w 0 7 = 10#7 then .ok (.fsqrt (bit w 31) (fld w 21 3) (bit w 20) (fld w 14 6) (fld w 7 7)) else
  if fld w 0 7 = 11#7 then .ok (.fexp2 (bit w 31) (fld w 21 3) (bit w 20) (fld w 14 6) (fld w 7 7)) else
  if fld w 0 7 = 12#7 then .ok (.flog2 (bit w 31) (fld w 21 3) (bit w 20) (fld w 14 6) (fld w 7 7)) else
  if fld w 0 7 = 13#7 then .ok (.fsin (bit w 31) (fld w 21 3) (bit w 20) (fld w 14 6) (fld w 7 7)) else
  if fld w 0 7 = 14#7 then .ok (.fcos (bit w 31) (fld w 21 3) (bit w 20) (fld w 14 6) (fld w 7 7)) else
  if fld w 0 7 = 15#7 then .ok (.ftanh (bit w 31) (fld w 21 3) (bit w 20) (fld w 14 6) (fld w 7 7)) else
  .error .noRow

/-- Major 0x30: VCMP_I32 (R43, R46). -/
def decodeMajor30 (w : Word32) : Except Reject Instr :=
  .ok (.vcmpI32 (bit w 31) (fld w 21 3) (bit w 20) (fld w 17 3) (fld w 14 3) (fld w 7 7) (fld w 0 7))

/-- Major 0x31: VCMP_N32 (R43, R46). -/
def decodeMajor31 (w : Word32) : Except Reject Instr :=
  .ok (.vcmpN32 (bit w 31) (fld w 21 3) (bit w 20) (fld w 17 3) (fld w 14 3) (fld w 7 7) (fld w 0 7))

/-- Major 0x32: VCMP_F32 (R43, R46). -/
def decodeMajor32 (w : Word32) : Except Reject Instr :=
  .ok (.vcmpF32 (bit w 31) (fld w 21 3) (bit w 20) (fld w 17 3) (fld w 14 3) (fld w 7 7) (fld w 0 7))

/-- Major 0x33: VCLAMP_I32 (R43, R46). -/
def decodeMajor33 (w : Word32) : Except Reject Instr :=
  .ok (.vclampI32 (bit w 31) (fld w 21 3) (bit w 20) (fld w 14 6) (fld w 7 7) (fld w 0 7))

/-- Major 0x34: VCLAMP_F32 (R43, R46). -/
def decodeMajor34 (w : Word32) : Except Reject Instr :=
  .ok (.vclampF32 (bit w 31) (fld w 21 3) (bit w 20) (fld w 14 6) (fld w 7 7) (fld w 0 7))

/-- Major 0x35: REP (R43, R46). -/
def decodeMajor35 (w : Word32) : Except Reject Instr :=
  if fld w 31 1 = 0#1 ∧ fld w 11 13 = 7168#13 then .ok (.rep (fld w 9 2) (bit w 8) (bit w 7) (bit w 6) (fld w 0 6)) else
  .error .noRow

/-- Major 0x38: XSHUF (R43, R46). -/
def decodeMajor38 (w : Word32) : Except Reject Instr :=
  .ok (.xshuf (bit w 31) (fld w 21 3) (bit w 20) (fld w 14 6) (fld w 7 7) (fld w 0 7))

/-- Major 0x39: XROT (R43, R46). -/
def decodeMajor39 (w : Word32) : Except Reject Instr :=
  .ok (.xrot (bit w 31) (fld w 21 3) (bit w 20) (fld w 14 6) (fld w 7 7) (fld w 0 7))

/-- Major 0x3A: XBCAST (R43, R46). -/
def decodeMajor3A (w : Word32) : Except Reject Instr :=
  .ok (.xbcast (bit w 31) (fld w 21 3) (bit w 20) (fld w 14 6) (fld w 7 7) (fld w 0 7))

/-- Major 0x3B: XFIRST (R43, R46). -/
def decodeMajor3B (w : Word32) : Except Reject Instr :=
  if fld w 19 1 = 0#1 then .ok (.xfirst (bit w 31) (fld w 21 3) (bit w 20) (fld w 14 5) (fld w 7 7) (fld w 0 7)) else
  .error .noRow

/-- Major 0x3C: XVOTE (R43, R46). -/
def decodeMajor3C (w : Word32) : Except Reject Instr :=
  if fld w 19 1 = 0#1 ∧ fld w 2 5 = 0#5 then .ok (.xvote (bit w 31) (fld w 21 3) (bit w 20) (fld w 14 5) (fld w 7 7) (fld w 0 2)) else
  .error .noRow

/-- Major 0x3D: XREDUCE (R43, R46). -/
def decodeMajor3D (w : Word32) : Except Reject Instr :=
  if fld w 6 1 = 0#1 then .ok (.xreduce (bit w 31) (fld w 21 3) (bit w 20) (fld w 14 6) (fld w 7 7) (fld w 4 2) (fld w 0 4)) else
  .error .noRow

/-- Major 0x3E: XSCAN (R43, R46). -/
def decodeMajor3E (w : Word32) : Except Reject Instr :=
  .ok (.xscan (bit w 31) (fld w 21 3) (bit w 20) (fld w 14 6) (fld w 7 7) (bit w 6) (fld w 4 2) (fld w 0 4))

/-- Major 0x3F: XCOUNT (R43, R46). -/
def decodeMajor3F (w : Word32) : Except Reject Instr :=
  .ok (.xcount (bit w 31) (fld w 21 3) (bit w 20) (fld w 14 6) (fld w 7 7) (fld w 0 7))

/-- Major 0x40: CVT_ENC, CVT_DEC (R43, R46). -/
def decodeMajor40 (w : Word32) : Except Reject Instr :=
  if fld w 4 1 = 1#1 then .ok (.cvtEnc (bit w 31) (fld w 21 3) (bit w 20) (fld w 14 6) (fld w 7 7) (fld w 5 2) (fld w 0 4)) else
  if fld w 4 1 = 0#1 then .ok (.cvtDec (bit w 31) (fld w 21 3) (bit w 20) (fld w 14 6) (fld w 7 7) (fld w 5 2) (fld w 0 4)) else
  .error .noRow

/-- Major 0x41: CVTS_ENC, CVTS_DEC (R43, R46). -/
def decodeMajor41 (w : Word32) : Except Reject Instr :=
  if fld w 6 1 = 0#1 ∧ fld w 3 1 = 1#1 then .ok (.cvtsEnc (bit w 31) (fld w 21 3) (bit w 20) (fld w 14 6) (fld w 7 7) (fld w 4 2) (fld w 0 3)) else
  if fld w 6 1 = 0#1 ∧ fld w 3 1 = 0#1 then .ok (.cvtsDec (bit w 31) (fld w 21 3) (bit w 20) (fld w 14 6) (fld w 7 7) (fld w 4 2) (fld w 0 3)) else
  .error .noRow

/-- Major 0x42: PLPACK (R43, R46). -/
def decodeMajor42 (w : Word32) : Except Reject Instr :=
  if fld w 3 4 = 0#4 then .ok (.plpack (bit w 31) (fld w 21 3) (bit w 20) (fld w 14 6) (fld w 7 7) (fld w 0 3)) else
  .error .noRow

/-- Major 0x43: PLUNPACK (R43, R46). -/
def decodeMajor43 (w : Word32) : Except Reject Instr :=
  if fld w 6 1 = 0#1 then .ok (.plunpack (bit w 31) (fld w 21 3) (bit w 20) (fld w 14 6) (fld w 7 7) (fld w 3 3) (fld w 0 3)) else
  .error .noRow

/-- Major 0x44: PLANE (R43, R46). -/
def decodeMajor44 (w : Word32) : Except Reject Instr :=
  if fld w 5 2 = 0#2 then .ok (.plane (bit w 31) (fld w 21 3) (bit w 20) (fld w 14 6) (fld w 7 7) (fld w 3 2) (fld w 0 3)) else
  .error .noRow

/-- Major 0x45: FMTQ (R43, R46). -/
def decodeMajor45 (w : Word32) : Except Reject Instr :=
  if fld w 5 9 = 400#9 then .ok (.fmtq (bit w 31) (fld w 21 3) (bit w 20) (fld w 14 6) (fld w 3 2) (fld w 0 3)) else
  .error .noRow

/-- Major 0x48: MCLAIM (R43, R46). -/
def decodeMajor48 (w : Word32) : Except Reject Instr :=
  if fld w 17 3 = 0#3 ∧ fld w 4 3 = 0#3 then .ok (.mclaim (bit w 31) (fld w 21 3) (bit w 20) (fld w 14 3) (fld w 7 7) (fld w 0 4)) else
  .error .noRow

/-- Major 0x49: MRELEASE (R43, R46). -/
def decodeMajor49 (w : Word32) : Except Reject Instr :=
  if fld w 14 7 = 0#7 ∧ fld w 4 3 = 0#3 then .ok (.mrelease (bit w 31) (fld w 21 3) (fld w 7 7) (fld w 0 4)) else
  .error .noRow

/-- Major 0x4A: MLOAD (R43, R46). -/
def decodeMajor4A (w : Word32) : Except Reject Instr :=
  if fld w 20 1 = 0#1 ∧ fld w 3 4 = 0#4 then .ok (.mload (bit w 31) (fld w 21 3) (fld w 14 6) (fld w 7 7) (fld w 0 3)) else
  .error .noRow

/-- Major 0x4B: MZERO (R43, R46). -/
def decodeMajor4B (w : Word32) : Except Reject Instr :=
  if fld w 6 15 = 200#15 then .ok (.mzero (bit w 31) (fld w 21 3) (bit w 5) (bit w 4) (fld w 0 4)) else
  .error .noRow

/-- Major 0x4C: MMA (R43, R46). -/
def decodeMajor4C (w : Word32) : Except Reject Instr :=
  if fld w 20 1 = 0#1 then .ok (.mma (bit w 31) (fld w 21 3) (fld w 17 3) (fld w 14 3) (fld w 7 7) (bit w 6) (bit w 5) (bit w 4) (fld w 0 4)) else
  .error .noRow

/-- Major 0x4D: MDRAIN (R43, R46). -/
def decodeMajor4D (w : Word32) : Except Reject Instr :=
  if fld w 20 1 = 0#1 ∧ fld w 6 1 = 0#1 then .ok (.mdrain (bit w 31) (fld w 21 3) (fld w 17 3) (fld w 14 3) (fld w 7 7) (bit w 5) (bit w 4) (fld w 0 4)) else
  .error .noRow

/-- Major 0x4E: MCHK (R43, R46). -/
def decodeMajor4E (w : Word32) : Except Reject Instr :=
  if fld w 17 3 = 0#3 ∧ fld w 5 9 = 400#9 then .ok (.mchk (bit w 31) (fld w 21 3) (bit w 20) (fld w 14 3) (bit w 4) (fld w 0 4)) else
  .error .noRow

/-- Major 0x4F: MHEAT, MHEAT_OFF (R43, R46). -/
def decodeMajor4F (w : Word32) : Except Reject Instr :=
  if fld w 14 7 = 0#7 ∧ fld w 4 3 = 1#3 then .ok (.mheat (bit w 31) (fld w 21 3) (fld w 7 7) (fld w 0 4)) else
  if fld w 4 17 = 800#17 then .ok (.mheatOff (bit w 31) (fld w 21 3) (fld w 0 4)) else
  .error .noRow

/-- Major 0x50: MWAIT (R43, R46). -/
def decodeMajor50 (w : Word32) : Except Reject Instr :=
  if fld w 6 15 = 200#15 then .ok (.mwait (bit w 31) (fld w 21 3) (fld w 4 2) (fld w 0 4)) else
  .error .noRow

/-- Major 0x52: LD (R43, R46). -/
def decodeMajor52 (w : Word32) : Except Reject Instr :=
  .ok (.ld (bit w 31) (fld w 21 3) (bit w 20) (fld w 14 6) (fld w 7 7) (fld w 0 7))

/-- Major 0x53: ST (R43, R46). -/
def decodeMajor53 (w : Word32) : Except Reject Instr :=
  if fld w 20 1 = 0#1 then .ok (.st (bit w 31) (fld w 21 3) (fld w 14 6) (fld w 7 7) (fld w 0 7)) else
  .error .noRow

/-- Major 0x54: LDS (R43, R46). -/
def decodeMajor54 (w : Word32) : Except Reject Instr :=
  .ok (.lds (bit w 31) (fld w 21 3) (bit w 20) (fld w 14 6) (fld w 7 7) (fld w 0 7))

/-- Major 0x55: STS (R43, R46). -/
def decodeMajor55 (w : Word32) : Except Reject Instr :=
  if fld w 20 1 = 0#1 then .ok (.sts (bit w 31) (fld w 21 3) (fld w 14 6) (fld w 7 7) (fld w 0 7)) else
  .error .noRow

/-- Major 0x56: LDX (R43, R46). -/
def decodeMajor56 (w : Word32) : Except Reject Instr :=
  .ok (.ldx (bit w 31) (fld w 21 3) (bit w 20) (fld w 14 6) (fld w 7 7) (fld w 0 7))

/-- Major 0x57: STX (R43, R46). -/
def decodeMajor57 (w : Word32) : Except Reject Instr :=
  if fld w 20 1 = 0#1 then .ok (.stx (bit w 31) (fld w 21 3) (fld w 14 6) (fld w 7 7) (fld w 0 7)) else
  .error .noRow

/-- Major 0x58: LDW (R43, R46). -/
def decodeMajor58 (w : Word32) : Except Reject Instr :=
  .ok (.ldw (bit w 31) (fld w 21 3) (bit w 20) (fld w 14 6) (fld w 7 7) (fld w 0 7))

/-- Major 0x59: STW (R43, R46). -/
def decodeMajor59 (w : Word32) : Except Reject Instr :=
  if fld w 20 1 = 0#1 then .ok (.stw (bit w 31) (fld w 21 3) (fld w 14 6) (fld w 7 7) (fld w 0 7)) else
  .error .noRow

/-- Major 0x5A: PRES, SEAL, UNSEAL, PREF (R43, R46). -/
def decodeMajor5A (w : Word32) : Except Reject Instr :=
  if fld w 15 6 = 0#6 ∧ fld w 0 7 = 0#7 then .ok (.pres (bit w 31) (fld w 21 3) (bit w 14) (fld w 7 7)) else
  if fld w 19 2 = 0#2 ∧ fld w 0 14 = 12816#14 then .ok (.seal (bit w 31) (fld w 21 3) (fld w 14 5)) else
  if fld w 19 2 = 0#2 ∧ fld w 0 14 = 12832#14 then .ok (.unseal (bit w 31) (fld w 21 3) (fld w 14 5)) else
  if fld w 19 2 = 0#2 ∧ fld w 1 6 = 24#6 then .ok (.pref (bit w 31) (fld w 21 3) (fld w 14 5) (fld w 7 7) (bit w 0)) else
  .error .noRow

/-- Major 0x5B: BIND (R43, R46). -/
def decodeMajor5B (w : Word32) : Except Reject Instr :=
  if fld w 19 2 = 0#2 ∧ fld w 0 7 = 100#7 then .ok (.bind (bit w 31) (fld w 21 3) (fld w 14 5) (fld w 7 7)) else
  .error .noRow

/-- Major 0x5C: UNBIND (R43, R46). -/
def decodeMajor5C (w : Word32) : Except Reject Instr :=
  if fld w 19 2 = 0#2 ∧ fld w 0 7 = 100#7 then .ok (.unbind (bit w 31) (fld w 21 3) (fld w 14 5) (fld w 7 7)) else
  .error .noRow

/-- Major 0x5D: ACQ (R43, R46). -/
def decodeMajor5D (w : Word32) : Except Reject Instr :=
  if fld w 14 7 = 0#7 ∧ fld w 3 4 = 0#4 then .ok (.acq (bit w 31) (fld w 21 3) (fld w 7 7) (fld w 0 3)) else
  .error .noRow

/-- Major 0x5E: REL (R43, R46). -/
def decodeMajor5E (w : Word32) : Except Reject Instr :=
  if fld w 14 7 = 0#7 ∧ fld w 3 4 = 0#4 then .ok (.rel (bit w 31) (fld w 21 3) (fld w 7 7) (fld w 0 3)) else
  .error .noRow

/-- Major 0x5F: CHKPT, LOGQ (R43, R46). -/
def decodeMajor5F (w : Word32) : Except Reject Instr :=
  if fld w 19 2 = 0#2 ∧ fld w 0 7 = 0#7 then .ok (.chkpt (bit w 31) (fld w 21 3) (fld w 14 5) (fld w 7 7)) else
  if fld w 19 1 = 0#1 ∧ fld w 0 7 = 1#7 then .ok (.logq (bit w 31) (fld w 21 3) (bit w 20) (fld w 14 5) (fld w 7 7)) else
  .error .noRow

/-- Major 0x60: FENCE (R43, R46). -/
def decodeMajor60 (w : Word32) : Except Reject Instr :=
  if fld w 3 18 = 1600#18 then .ok (.fence (bit w 31) (fld w 21 3) (fld w 0 3)) else
  .error .noRow

/-- Major 0x61: XFENCE (R43, R46). -/
def decodeMajor61 (w : Word32) : Except Reject Instr :=
  if fld w 5 16 = 400#16 then .ok (.xfence (bit w 31) (fld w 21 3) (bit w 4) (bit w 3) (fld w 0 3)) else
  .error .noRow

/-- Major 0x62: AADD, AMIN, AMAX, AAND, AOR, AXOR, ASWAP, ACAS, AINC (R43, R46). -/
def decodeMajor62 (w : Word32) : Except Reject Instr :=
  if fld w 6 1 = 0#1 ∧ fld w 0 4 = 0#4 then .ok (.aadd (bit w 31) (fld w 21 3) (bit w 20) (fld w 14 6) (fld w 7 7) (fld w 4 2)) else
  if fld w 6 1 = 0#1 ∧ fld w 0 4 = 1#4 then .ok (.amin (bit w 31) (fld w 21 3) (bit w 20) (fld w 14 6) (fld w 7 7) (fld w 4 2)) else
  if fld w 6 1 = 0#1 ∧ fld w 0 4 = 2#4 then .ok (.amax (bit w 31) (fld w 21 3) (bit w 20) (fld w 14 6) (fld w 7 7) (fld w 4 2)) else
  if fld w 0 7 = 3#7 then .ok (.aand (bit w 31) (fld w 21 3) (bit w 20) (fld w 14 6) (fld w 7 7)) else
  if fld w 0 7 = 4#7 then .ok (.aor (bit w 31) (fld w 21 3) (bit w 20) (fld w 14 6) (fld w 7 7)) else
  if fld w 0 7 = 5#7 then .ok (.axor (bit w 31) (fld w 21 3) (bit w 20) (fld w 14 6) (fld w 7 7)) else
  if fld w 0 7 = 6#7 then .ok (.aswap (bit w 31) (fld w 21 3) (bit w 20) (fld w 14 6) (fld w 7 7)) else
  if fld w 0 7 = 7#7 then .ok (.acas (bit w 31) (fld w 21 3) (bit w 20) (fld w 14 6) (fld w 7 7)) else
  if fld w 0 7 = 8#7 then .ok (.ainc (bit w 31) (fld w 21 3) (bit w 20) (fld w 14 6) (fld w 7 7)) else
  .error .noRow

/-- Major 0x63: RADD, RADD_PF, RADD_FLUSH (R43, R46). -/
def decodeMajor63 (w : Word32) : Except Reject Instr :=
  if fld w 20 1 = 0#1 ∧ fld w 3 4 = 0#4 ∧ fld w 0 2 = 0#2 then .ok (.radd (bit w 31) (fld w 21 3) (fld w 14 6) (fld w 7 7) (bit w 2)) else
  if fld w 20 1 = 0#1 ∧ fld w 3 4 = 0#4 ∧ fld w 0 2 = 1#2 then .ok (.raddPf (bit w 31) (fld w 21 3) (fld w 14 6) (fld w 7 7) (bit w 2)) else
  if fld w 14 7 = 0#7 ∧ fld w 0 7 = 2#7 then .ok (.raddFlush (bit w 31) (fld w 21 3) (fld w 7 7)) else
  .error .noRow

/-- Major 0x64: OADD (R43, R46). -/
def decodeMajor64 (w : Word32) : Except Reject Instr :=
  if fld w 20 1 = 0#1 then .ok (.oadd (bit w 31) (fld w 21 3) (fld w 14 6) (fld w 7 7) (fld w 0 7)) else
  .error .noRow

/-- Major 0x65: ORINIT (R43, R46). -/
def decodeMajor65 (w : Word32) : Except Reject Instr :=
  if fld w 19 2 = 0#2 then .ok (.orinit (bit w 31) (fld w 21 3) (fld w 14 5) (fld w 7 7) (fld w 0 7)) else
  .error .noRow

/-- Major 0x68: BR (R43, R46). -/
def decodeMajor68 (w : Word32) : Except Reject Instr :=
  if fld w 31 1 = 0#1 then .ok (.br (fld w 21 3) (fld w 0 21)) else
  .error .noRow

/-- Major 0x69: BRP (R43, R46). -/
def decodeMajor69 (w : Word32) : Except Reject Instr :=
  if fld w 31 1 = 0#1 then .ok (.brp (fld w 21 3) (fld w 0 21)) else
  .error .noRow

/-- Major 0x6A: JMP (R43, R46). -/
def decodeMajor6A (w : Word32) : Except Reject Instr :=
  if fld w 31 1 = 0#1 ∧ fld w 14 7 = 0#7 ∧ fld w 0 7 = 100#7 then .ok (.jmp (fld w 21 3) (fld w 7 7)) else
  .error .noRow

/-- Major 0x6B: CALL (R43, R46). -/
def decodeMajor6B (w : Word32) : Except Reject Instr :=
  if fld w 31 1 = 0#1 then .ok (.call (fld w 21 3) (fld w 0 21)) else
  .error .noRow

/-- Major 0x6C: CALLI (R43, R46). -/
def decodeMajor6C (w : Word32) : Except Reject Instr :=
  if fld w 31 1 = 0#1 ∧ fld w 14 7 = 0#7 ∧ fld w 0 7 = 100#7 then .ok (.calli (fld w 21 3) (fld w 7 7)) else
  .error .noRow

/-- Major 0x6D: RET, EXIT, YIELD (R43, R46). -/
def decodeMajor6D (w : Word32) : Except Reject Instr :=
  if fld w 31 1 = 0#1 ∧ fld w 0 21 = 12800#21 then .ok (.ret (fld w 21 3)) else
  if fld w 31 1 = 0#1 ∧ fld w 0 21 = 12801#21 then .ok (.exit (fld w 21 3)) else
  if fld w 31 1 = 0#1 ∧ fld w 0 21 = 12802#21 then .ok (.yield (fld w 21 3)) else
  .error .noRow

/-- Major 0x6E: FWAIT, FTEST, FCANCEL, FMOV_HH, FMOV_SH, FMOV_HS (R43, R46). -/
def decodeMajor6E (w : Word32) : Except Reject Instr :=
  if fld w 11 10 = 0#10 ∧ fld w 0 7 = 0#7 then .ok (.fwait (bit w 31) (fld w 21 3) (fld w 7 4)) else
  if fld w 17 3 = 0#3 ∧ fld w 11 3 = 0#3 ∧ fld w 0 7 = 1#7 then .ok (.ftest (bit w 31) (fld w 21 3) (bit w 20) (fld w 14 3) (fld w 7 4)) else
  if fld w 11 10 = 0#10 ∧ fld w 0 7 = 2#7 then .ok (.fcancel (bit w 31) (fld w 21 3) (fld w 7 4)) else
  if fld w 18 2 = 0#2 ∧ fld w 11 3 = 0#3 ∧ fld w 0 7 = 3#7 then .ok (.fmovHh (bit w 31) (fld w 21 3) (bit w 20) (fld w 14 4) (fld w 7 4)) else
  if fld w 19 1 = 1#1 ∧ fld w 11 3 = 0#3 ∧ fld w 0 7 = 3#7 then .ok (.fmovSh (bit w 31) (fld w 21 3) (bit w 20) (fld w 14 5) (fld w 7 4)) else
  if fld w 18 2 = 0#2 ∧ fld w 0 7 = 3#7 ∧ 64#7 ≤ fld w 7 7 ∧ fld w 7 7 ≤ 95#7 then .ok (.fmovHs (bit w 31) (fld w 21 3) (bit w 20) (fld w 14 4) (fld w 7 7)) else
  .error .noRow

/-- Major 0x70: CPY (R43, R46). -/
def decodeMajor70 (w : Word32) : Except Reject Instr :=
  if fld w 18 2 = 0#2 then .ok (.cpy (bit w 31) (fld w 21 3) (bit w 20) (fld w 14 4) (fld w 7 7) (fld w 0 7)) else
  .error .noRow

/-- Major 0x71: CPYW (R43, R46). -/
def decodeMajor71 (w : Word32) : Except Reject Instr :=
  if fld w 18 2 = 0#2 then .ok (.cpyw (bit w 31) (fld w 21 3) (bit w 20) (fld w 14 4) (fld w 7 7) (fld w 0 7)) else
  .error .noRow

/-- Major 0x72: OVL (R43, R46). -/
def decodeMajor72 (w : Word32) : Except Reject Instr :=
  if fld w 18 2 = 0#2 then .ok (.ovl (bit w 31) (fld w 21 3) (bit w 20) (fld w 14 4) (fld w 7 7) (fld w 0 7)) else
  .error .noRow

/-- Major 0x73: GTH (R43, R46). -/
def decodeMajor73 (w : Word32) : Except Reject Instr :=
  if fld w 18 2 = 0#2 then .ok (.gth (bit w 31) (fld w 21 3) (bit w 20) (fld w 14 4) (fld w 7 7) (fld w 0 7)) else
  .error .noRow

/-- Major 0x74: COLL (R43, R46). -/
def decodeMajor74 (w : Word32) : Except Reject Instr :=
  if fld w 18 2 = 0#2 ∧ fld w 6 1 = 0#1 then .ok (.coll (bit w 31) (fld w 21 3) (bit w 20) (fld w 14 4) (fld w 7 7) (bit w 5) (fld w 3 2) (fld w 0 3)) else
  .error .noRow

/-- Major 0x75: RLINK, RCLOSE (R43, R46). -/
def decodeMajor75 (w : Word32) : Except Reject Instr :=
  if fld w 16 5 = 0#5 ∧ fld w 0 7 = 0#7 then .ok (.rlink (bit w 31) (fld w 21 3) (fld w 14 2) (fld w 7 7)) else
  if fld w 17 4 = 0#4 ∧ fld w 0 14 = 12801#14 then .ok (.rclose (bit w 31) (fld w 21 3) (bit w 16) (fld w 14 2)) else
  .error .noRow

/-- Major 0x76: SPAWN (R43, R46). -/
def decodeMajor76 (w : Word32) : Except Reject Instr :=
  if fld w 19 1 = 0#1 then .ok (.spawn (bit w 31) (fld w 21 3) (bit w 20) (fld w 14 5) (fld w 7 7) (fld w 0 7)) else
  .error .noRow

/-- Major 0x77: DONE (R43, R46). -/
def decodeMajor77 (w : Word32) : Except Reject Instr :=
  if fld w 19 1 = 0#1 ∧ fld w 0 7 = 100#7 then .ok (.done (bit w 31) (fld w 21 3) (bit w 20) (fld w 14 5) (fld w 7 7)) else
  .error .noRow

/-- Major 0x78: TBFULL, TBEMPTY, TBWAIT (R43, R46). -/
def decodeMajor78 (w : Word32) : Except Reject Instr :=
  if fld w 14 7 = 0#7 ∧ fld w 0 7 = 0#7 then .ok (.tbfull (bit w 31) (fld w 21 3) (fld w 7 7)) else
  if fld w 14 7 = 0#7 ∧ fld w 0 7 = 1#7 then .ok (.tbempty (bit w 31) (fld w 21 3) (fld w 7 7)) else
  if fld w 14 7 = 0#7 ∧ fld w 0 7 = 2#7 then .ok (.tbwait (bit w 31) (fld w 21 3) (fld w 7 7)) else
  .error .noRow

/-- Major 0x79: HEATID (R43, R46). -/
def decodeMajor79 (w : Word32) : Except Reject Instr :=
  if fld w 19 1 = 0#1 ∧ fld w 0 7 = 100#7 then .ok (.heatid (bit w 31) (fld w 21 3) (bit w 20) (fld w 14 5) (fld w 7 7)) else
  .error .noRow

/-- Major 0x7A: BAR (R43, R46). -/
def decodeMajor7A (w : Word32) : Except Reject Instr :=
  if fld w 14 7 = 0#7 ∧ fld w 3 4 = 0#4 then .ok (.bar (bit w 31) (fld w 21 3) (fld w 7 7) (fld w 0 3)) else
  .error .noRow

/-- Major 0x7B: BINIT, BARRIVE, BWAIT, BTEST (R43, R46). -/
def decodeMajor7B (w : Word32) : Except Reject Instr :=
  if fld w 19 2 = 0#2 ∧ fld w 0 7 = 0#7 then .ok (.binit (bit w 31) (fld w 21 3) (fld w 14 5) (fld w 7 7)) else
  if fld w 19 1 = 0#1 ∧ fld w 4 3 = 1#3 then .ok (.barrive (bit w 31) (fld w 21 3) (bit w 20) (fld w 14 5) (fld w 7 7) (fld w 0 4)) else
  if fld w 19 1 = 0#1 ∧ fld w 4 3 = 2#3 then .ok (.bwait (bit w 31) (fld w 21 3) (bit w 20) (fld w 14 5) (fld w 7 7) (fld w 0 4)) else
  if fld w 17 3 = 0#3 ∧ fld w 0 7 = 48#7 then .ok (.btest (bit w 31) (fld w 21 3) (bit w 20) (fld w 14 3) (fld w 7 7)) else
  .error .noRow

/-- Major 0x7C: SYSRD (R43, R46). -/
def decodeMajor7C (w : Word32) : Except Reject Instr :=
  if fld w 19 1 = 0#1 then .ok (.sysrd (bit w 31) (fld w 21 3) (bit w 20) (fld w 14 5) (fld w 0 14)) else
  .error .noRow

/-- Major 0x7D: SYSWR (R43, R46). -/
def decodeMajor7D (w : Word32) : Except Reject Instr :=
  if fld w 19 2 = 0#2 then .ok (.syswr (bit w 31) (fld w 21 3) (fld w 14 5) (fld w 0 14)) else
  .error .noRow

/-- Major 0x7E: CAPRD (R43, R46). -/
def decodeMajor7E (w : Word32) : Except Reject Instr :=
  if fld w 19 1 = 0#1 ∧ fld w 0 7 = 100#7 then .ok (.caprd (bit w 31) (fld w 21 3) (bit w 20) (fld w 14 5) (fld w 7 7)) else
  .error .noRow

/-- Major 0x7F: TFENCE, TRAP, TRET, FLAGRD, FLAGCLR, CTXSAVE, CTXLOAD (R43, R46). -/
def decodeMajor7F (w : Word32) : Except Reject Instr :=
  if fld w 0 21 = 12800#21 then .ok (.tfence (bit w 31) (fld w 21 3)) else
  if fld w 31 1 = 0#1 ∧ fld w 14 7 = 0#7 ∧ fld w 0 7 = 1#7 then .ok (.trap (fld w 21 3) (fld w 7 7)) else
  if fld w 31 1 = 0#1 ∧ fld w 0 21 = 12802#21 then .ok (.tret (fld w 21 3)) else
  if fld w 19 1 = 0#1 ∧ fld w 0 7 = 3#7 then .ok (.flagrd (bit w 31) (fld w 21 3) (bit w 20) (fld w 14 5) (fld w 7 7)) else
  if fld w 14 7 = 0#7 ∧ fld w 0 7 = 4#7 then .ok (.flagclr (bit w 31) (fld w 21 3) (fld w 7 7)) else
  if fld w 14 7 = 0#7 ∧ fld w 0 7 = 5#7 then .ok (.ctxsave (bit w 31) (fld w 21 3) (fld w 7 7)) else
  if fld w 14 7 = 0#7 ∧ fld w 0 7 = 6#7 then .ok (.ctxload (bit w 31) (fld w 21 3) (fld w 7 7)) else
  .error .noRow

/-- The instruction a word stands for, by its major (bits 30:24, R25, R43), or why there is none.
A word that is rejected takes ILLOP when it is issued (R44, R46, R49). -/
def decodeWord (w : Word32) : Except Reject Instr :=
  match (fld w 24 7).toNat with
  | 0x01 => decodeMajor01 w
  | 0x02 => decodeMajor02 w
  | 0x03 => decodeMajor03 w
  | 0x04 => decodeMajor04 w
  | 0x05 => decodeMajor05 w
  | 0x06 => decodeMajor06 w
  | 0x07 => decodeMajor07 w
  | 0x08 => decodeMajor08 w
  | 0x09 => decodeMajor09 w
  | 0x0A => decodeMajor0A w
  | 0x0B => decodeMajor0B w
  | 0x0C => decodeMajor0C w
  | 0x0D => decodeMajor0D w
  | 0x0E => decodeMajor0E w
  | 0x0F => decodeMajor0F w
  | 0x10 => decodeMajor10 w
  | 0x11 => decodeMajor11 w
  | 0x12 => decodeMajor12 w
  | 0x13 => decodeMajor13 w
  | 0x14 => decodeMajor14 w
  | 0x15 => decodeMajor15 w
  | 0x18 => decodeMajor18 w
  | 0x19 => decodeMajor19 w
  | 0x1A => decodeMajor1A w
  | 0x1B => decodeMajor1B w
  | 0x1C => decodeMajor1C w
  | 0x1D => decodeMajor1D w
  | 0x1E => decodeMajor1E w
  | 0x1F => decodeMajor1F w
  | 0x20 => decodeMajor20 w
  | 0x21 => decodeMajor21 w
  | 0x22 => decodeMajor22 w
  | 0x23 => decodeMajor23 w
  | 0x24 => decodeMajor24 w
  | 0x25 => decodeMajor25 w
  | 0x26 => decodeMajor26 w
  | 0x27 => decodeMajor27 w
  | 0x28 => decodeMajor28 w
  | 0x29 => decodeMajor29 w
  | 0x2A => decodeMajor2A w
  | 0x2B => decodeMajor2B w
  | 0x2C => decodeMajor2C w
  | 0x2D => decodeMajor2D w
  | 0x2E => decodeMajor2E w
  | 0x2F => decodeMajor2F w
  | 0x30 => decodeMajor30 w
  | 0x31 => decodeMajor31 w
  | 0x32 => decodeMajor32 w
  | 0x33 => decodeMajor33 w
  | 0x34 => decodeMajor34 w
  | 0x35 => decodeMajor35 w
  | 0x38 => decodeMajor38 w
  | 0x39 => decodeMajor39 w
  | 0x3A => decodeMajor3A w
  | 0x3B => decodeMajor3B w
  | 0x3C => decodeMajor3C w
  | 0x3D => decodeMajor3D w
  | 0x3E => decodeMajor3E w
  | 0x3F => decodeMajor3F w
  | 0x40 => decodeMajor40 w
  | 0x41 => decodeMajor41 w
  | 0x42 => decodeMajor42 w
  | 0x43 => decodeMajor43 w
  | 0x44 => decodeMajor44 w
  | 0x45 => decodeMajor45 w
  | 0x48 => decodeMajor48 w
  | 0x49 => decodeMajor49 w
  | 0x4A => decodeMajor4A w
  | 0x4B => decodeMajor4B w
  | 0x4C => decodeMajor4C w
  | 0x4D => decodeMajor4D w
  | 0x4E => decodeMajor4E w
  | 0x4F => decodeMajor4F w
  | 0x50 => decodeMajor50 w
  | 0x52 => decodeMajor52 w
  | 0x53 => decodeMajor53 w
  | 0x54 => decodeMajor54 w
  | 0x55 => decodeMajor55 w
  | 0x56 => decodeMajor56 w
  | 0x57 => decodeMajor57 w
  | 0x58 => decodeMajor58 w
  | 0x59 => decodeMajor59 w
  | 0x5A => decodeMajor5A w
  | 0x5B => decodeMajor5B w
  | 0x5C => decodeMajor5C w
  | 0x5D => decodeMajor5D w
  | 0x5E => decodeMajor5E w
  | 0x5F => decodeMajor5F w
  | 0x60 => decodeMajor60 w
  | 0x61 => decodeMajor61 w
  | 0x62 => decodeMajor62 w
  | 0x63 => decodeMajor63 w
  | 0x64 => decodeMajor64 w
  | 0x65 => decodeMajor65 w
  | 0x68 => decodeMajor68 w
  | 0x69 => decodeMajor69 w
  | 0x6A => decodeMajor6A w
  | 0x6B => decodeMajor6B w
  | 0x6C => decodeMajor6C w
  | 0x6D => decodeMajor6D w
  | 0x6E => decodeMajor6E w
  | 0x70 => decodeMajor70 w
  | 0x71 => decodeMajor71 w
  | 0x72 => decodeMajor72 w
  | 0x73 => decodeMajor73 w
  | 0x74 => decodeMajor74 w
  | 0x75 => decodeMajor75 w
  | 0x76 => decodeMajor76 w
  | 0x77 => decodeMajor77 w
  | 0x78 => decodeMajor78 w
  | 0x79 => decodeMajor79 w
  | 0x7A => decodeMajor7A w
  | 0x7B => decodeMajor7B w
  | 0x7C => decodeMajor7C w
  | 0x7D => decodeMajor7D w
  | 0x7E => decodeMajor7E w
  | 0x7F => decodeMajor7F w
  | _ => .error .unusedMajor

/-- The first instruction of a list of bytes, and the bytes after it (a literal, where the instruction has one,
is the next word, R39). -/
def decode : List Byte → Except Reject (Instr × List Byte)
  | b0 :: b1 :: b2 :: b3 :: rest =>
    match decodeWord (wordOfBytes b0 b1 b2 b3) with
    | .ok i => .ok (i, rest)
    | .error r => .error r
  | _ => .error .short

/-- The bytes of a word, lowest address first (R4). -/
def bytesOfWord (w : Word32) : List Byte := [fld w 0 8, fld w 8 8, fld w 16 8, fld w 24 8]

/-- What the decoder reads from the bits w of a table row, laid out as the hardware stores them. -/
def decodeTableWord (_nbits w : Nat) : Option Instr :=
  match decode (bytesOfWord (BitVec.ofNat 32 w)) with
  | .ok (i, _) => some i
  | .error _ => none

/-- The word of an encoded instruction, from the encoding tables of its chapter (R25, R26, R46); a step of the
device has none. -/
def encode : Instr → Option Word32
  | .sadd c g w d a b => some (BitVec.ofBool c ++ 1#7 ++ g ++ BitVec.ofBool w ++ 0#1 ++ d ++ a ++ b)
  | .ssub c g w d a b => some (BitVec.ofBool c ++ 2#7 ++ g ++ BitVec.ofBool w ++ 0#1 ++ d ++ a ++ b)
  | .smul c g w d a b => some (BitVec.ofBool c ++ 3#7 ++ g ++ BitVec.ofBool w ++ 0#1 ++ d ++ a ++ b)
  | .smulh c g w d a b => some (BitVec.ofBool c ++ 4#7 ++ g ++ BitVec.ofBool w ++ 0#1 ++ d ++ a ++ b)
  | .sdiv c g w d a b => some (BitVec.ofBool c ++ 5#7 ++ g ++ BitVec.ofBool w ++ 0#1 ++ d ++ a ++ b)
  | .sand c g w d a b => some (BitVec.ofBool c ++ 6#7 ++ g ++ BitVec.ofBool w ++ 0#1 ++ d ++ a ++ b)
  | .sor c g w d a b => some (BitVec.ofBool c ++ 7#7 ++ g ++ BitVec.ofBool w ++ 0#1 ++ d ++ a ++ b)
  | .sxor c g w d a b => some (BitVec.ofBool c ++ 8#7 ++ g ++ BitVec.ofBool w ++ 0#1 ++ d ++ a ++ b)
  | .sshl c g w d a b => some (BitVec.ofBool c ++ 9#7 ++ g ++ BitVec.ofBool w ++ 0#1 ++ d ++ a ++ b)
  | .sshr c g w d a b => some (BitVec.ofBool c ++ 10#7 ++ g ++ BitVec.ofBool w ++ 0#1 ++ d ++ a ++ b)
  | .ssra c g w d a b => some (BitVec.ofBool c ++ 11#7 ++ g ++ BitVec.ofBool w ++ 0#1 ++ d ++ a ++ b)
  | .smin c g w d a b => some (BitVec.ofBool c ++ 12#7 ++ g ++ BitVec.ofBool w ++ 0#1 ++ d ++ a ++ b)
  | .smax c g w d a b => some (BitVec.ofBool c ++ 13#7 ++ g ++ BitVec.ofBool w ++ 0#1 ++ d ++ a ++ b)
  | .ssel c g w d a b => some (BitVec.ofBool c ++ 14#7 ++ g ++ BitVec.ofBool w ++ 0#1 ++ d ++ a ++ b)
  | .scmp c g w k p a b => some (BitVec.ofBool c ++ 15#7 ++ g ++ BitVec.ofBool w ++ k ++ p ++ a ++ b)
  | .smov c g w d a => some (BitVec.ofBool c ++ 16#7 ++ g ++ BitVec.ofBool w ++ 0#1 ++ d ++ a ++ 0#7)
  | .sclz c g w d a => some (BitVec.ofBool c ++ 16#7 ++ g ++ BitVec.ofBool w ++ 0#1 ++ d ++ a ++ 1#7)
  | .spop c g w d a => some (BitVec.ofBool c ++ 16#7 ++ g ++ BitVec.ofBool w ++ 0#1 ++ d ++ a ++ 2#7)
  | .sli c g w d n => some (BitVec.ofBool c ++ 17#7 ++ g ++ BitVec.ofBool w ++ 0#1 ++ d ++ n)
  | .slitLo c g w d a => some (BitVec.ofBool c ++ 18#7 ++ g ++ BitVec.ofBool w ++ 0#1 ++ d ++ a ++ 0#7)
  | .slitHi c g w d a => some (BitVec.ofBool c ++ 18#7 ++ g ++ BitVec.ofBool w ++ 0#1 ++ d ++ a ++ 1#7)
  | .saddr c g w d a b => some (BitVec.ofBool c ++ 19#7 ++ g ++ BitVec.ofBool w ++ 0#1 ++ d ++ a ++ b)
  | .saddImm c g w d a im => some (BitVec.ofBool c ++ 20#7 ++ g ++ BitVec.ofBool w ++ 0#1 ++ d ++ a ++ im)
  | .scmpImm c g w k p a im => some (BitVec.ofBool c ++ 21#7 ++ g ++ BitVec.ofBool w ++ k ++ p ++ a ++ im)
  | .vaddI32 c g w d a b => some (BitVec.ofBool c ++ 24#7 ++ g ++ BitVec.ofBool w ++ d ++ a ++ b)
  | .vaddF32 c g w d a b => some (BitVec.ofBool c ++ 25#7 ++ g ++ BitVec.ofBool w ++ d ++ a ++ b)
  | .vsubI32 c g w d a b => some (BitVec.ofBool c ++ 26#7 ++ g ++ BitVec.ofBool w ++ d ++ a ++ b)
  | .vsubF32 c g w d a b => some (BitVec.ofBool c ++ 27#7 ++ g ++ BitVec.ofBool w ++ d ++ a ++ b)
  | .vmulI32 c g w d a b => some (BitVec.ofBool c ++ 28#7 ++ g ++ BitVec.ofBool w ++ d ++ a ++ b)
  | .vmulF32 c g w d a b => some (BitVec.ofBool c ++ 29#7 ++ g ++ BitVec.ofBool w ++ d ++ a ++ b)
  | .vmulhI32 c g w d a b => some (BitVec.ofBool c ++ 30#7 ++ g ++ BitVec.ofBool w ++ d ++ a ++ b)
  | .vmulhN32 c g w d a b => some (BitVec.ofBool c ++ 31#7 ++ g ++ BitVec.ofBool w ++ d ++ a ++ b)
  | .vminI32 c g w d a b => some (BitVec.ofBool c ++ 32#7 ++ g ++ BitVec.ofBool w ++ d ++ a ++ b)
  | .vminN32 c g w d a b => some (BitVec.ofBool c ++ 33#7 ++ g ++ BitVec.ofBool w ++ d ++ a ++ b)
  | .vminF32 c g w d a b => some (BitVec.ofBool c ++ 34#7 ++ g ++ BitVec.ofBool w ++ d ++ a ++ b)
  | .vmaxI32 c g w d a b => some (BitVec.ofBool c ++ 35#7 ++ g ++ BitVec.ofBool w ++ d ++ a ++ b)
  | .vmaxN32 c g w d a b => some (BitVec.ofBool c ++ 36#7 ++ g ++ BitVec.ofBool w ++ d ++ a ++ b)
  | .vmaxF32 c g w d a b => some (BitVec.ofBool c ++ 37#7 ++ g ++ BitVec.ofBool w ++ d ++ a ++ b)
  | .vfmaF32 c g w d a b => some (BitVec.ofBool c ++ 38#7 ++ g ++ BitVec.ofBool w ++ d ++ a ++ b)
  | .vmadI32 c g w d a b => some (BitVec.ofBool c ++ 39#7 ++ g ++ BitVec.ofBool w ++ d ++ a ++ b)
  | .vand c g w d a b => some (BitVec.ofBool c ++ 40#7 ++ g ++ BitVec.ofBool w ++ d ++ a ++ b)
  | .vor c g w d a b => some (BitVec.ofBool c ++ 41#7 ++ g ++ BitVec.ofBool w ++ d ++ a ++ b)
  | .vxor c g w d a b => some (BitVec.ofBool c ++ 42#7 ++ g ++ BitVec.ofBool w ++ d ++ a ++ b)
  | .vshl c g w d a b => some (BitVec.ofBool c ++ 43#7 ++ g ++ BitVec.ofBool w ++ d ++ a ++ b)
  | .vshr c g w d a b => some (BitVec.ofBool c ++ 44#7 ++ g ++ BitVec.ofBool w ++ d ++ a ++ b)
  | .vsra c g w d a b => some (BitVec.ofBool c ++ 45#7 ++ g ++ BitVec.ofBool w ++ d ++ a ++ b)
  | .vsel c g w d a b => some (BitVec.ofBool c ++ 46#7 ++ g ++ BitVec.ofBool w ++ d ++ a ++ b)
  | .vmov c g w d a => some (BitVec.ofBool c ++ 47#7 ++ g ++ BitVec.ofBool w ++ d ++ a ++ 0#7)
  | .vabsI32 c g w d a => some (BitVec.ofBool c ++ 47#7 ++ g ++ BitVec.ofBool w ++ d ++ a ++ 1#7)
  | .vabsF32 c g w d a => some (BitVec.ofBool c ++ 47#7 ++ g ++ BitVec.ofBool w ++ d ++ a ++ 2#7)
  | .vnegI32 c g w d a => some (BitVec.ofBool c ++ 47#7 ++ g ++ BitVec.ofBool w ++ d ++ a ++ 3#7)
  | .vnegF32 c g w d a => some (BitVec.ofBool c ++ 47#7 ++ g ++ BitVec.ofBool w ++ d ++ a ++ 4#7)
  | .vclz c g w d a => some (BitVec.ofBool c ++ 47#7 ++ g ++ BitVec.ofBool w ++ d ++ a ++ 5#7)
  | .vpop c g w d a => some (BitVec.ofBool c ++ 47#7 ++ g ++ BitVec.ofBool w ++ d ++ a ++ 6#7)
  | .frcp c g w d a => some (BitVec.ofBool c ++ 47#7 ++ g ++ BitVec.ofBool w ++ d ++ a ++ 8#7)
  | .frsq c g w d a => some (BitVec.ofBool c ++ 47#7 ++ g ++ BitVec.ofBool w ++ d ++ a ++ 9#7)
  | .fsqrt c g w d a => some (BitVec.ofBool c ++ 47#7 ++ g ++ BitVec.ofBool w ++ d ++ a ++ 10#7)
  | .fexp2 c g w d a => some (BitVec.ofBool c ++ 47#7 ++ g ++ BitVec.ofBool w ++ d ++ a ++ 11#7)
  | .flog2 c g w d a => some (BitVec.ofBool c ++ 47#7 ++ g ++ BitVec.ofBool w ++ d ++ a ++ 12#7)
  | .fsin c g w d a => some (BitVec.ofBool c ++ 47#7 ++ g ++ BitVec.ofBool w ++ d ++ a ++ 13#7)
  | .fcos c g w d a => some (BitVec.ofBool c ++ 47#7 ++ g ++ BitVec.ofBool w ++ d ++ a ++ 14#7)
  | .ftanh c g w d a => some (BitVec.ofBool c ++ 47#7 ++ g ++ BitVec.ofBool w ++ d ++ a ++ 15#7)
  | .vcmpI32 c g w k p a b => some (BitVec.ofBool c ++ 48#7 ++ g ++ BitVec.ofBool w ++ k ++ p ++ a ++ b)
  | .vcmpN32 c g w k p a b => some (BitVec.ofBool c ++ 49#7 ++ g ++ BitVec.ofBool w ++ k ++ p ++ a ++ b)
  | .vcmpF32 c g w k p a b => some (BitVec.ofBool c ++ 50#7 ++ g ++ BitVec.ofBool w ++ k ++ p ++ a ++ b)
  | .vclampI32 c g w d a b => some (BitVec.ofBool c ++ 51#7 ++ g ++ BitVec.ofBool w ++ d ++ a ++ b)
  | .vclampF32 c g w d a b => some (BitVec.ofBool c ++ 52#7 ++ g ++ BitVec.ofBool w ++ d ++ a ++ b)
  | .rep t x y z n => some (441344#21 ++ t ++ BitVec.ofBool x ++ BitVec.ofBool y ++ BitVec.ofBool z ++ n)
  | .repeatIssue _ _ => none
  | .xshuf c g w d a b => some (BitVec.ofBool c ++ 56#7 ++ g ++ BitVec.ofBool w ++ d ++ a ++ b)
  | .xrot c g w d a b => some (BitVec.ofBool c ++ 57#7 ++ g ++ BitVec.ofBool w ++ d ++ a ++ b)
  | .xbcast c g w d a b => some (BitVec.ofBool c ++ 58#7 ++ g ++ BitVec.ofBool w ++ d ++ a ++ b)
  | .xfirst c g w d a b => some (BitVec.ofBool c ++ 59#7 ++ g ++ BitVec.ofBool w ++ 0#1 ++ d ++ a ++ b)
  | .xvote c g w d a m => some (BitVec.ofBool c ++ 60#7 ++ g ++ BitVec.ofBool w ++ 0#1 ++ d ++ a ++ 0#5 ++ m)
  | .xreduce c g w d a t o => some (BitVec.ofBool c ++ 61#7 ++ g ++ BitVec.ofBool w ++ d ++ a ++ 0#1 ++ t ++ o)
  | .xscan c g w d a x t o => some (BitVec.ofBool c ++ 62#7 ++ g ++ BitVec.ofBool w ++ d ++ a ++ BitVec.ofBool x ++ t ++ o)
  | .xcount c g w d a b => some (BitVec.ofBool c ++ 63#7 ++ g ++ BitVec.ofBool w ++ d ++ a ++ b)
  | .cvtEnc c g w d a r k => some (BitVec.ofBool c ++ 64#7 ++ g ++ BitVec.ofBool w ++ d ++ a ++ r ++ 1#1 ++ k)
  | .cvtDec c g w d a p k => some (BitVec.ofBool c ++ 64#7 ++ g ++ BitVec.ofBool w ++ d ++ a ++ p ++ 0#1 ++ k)
  | .cvtsEnc c g w d a r sc => some (BitVec.ofBool c ++ 65#7 ++ g ++ BitVec.ofBool w ++ d ++ a ++ 0#1 ++ r ++ 1#1 ++ sc)
  | .cvtsDec c g w d a p sc => some (BitVec.ofBool c ++ 65#7 ++ g ++ BitVec.ofBool w ++ d ++ a ++ 0#1 ++ p ++ 0#1 ++ sc)
  | .plpack c g w d a k => some (BitVec.ofBool c ++ 66#7 ++ g ++ BitVec.ofBool w ++ d ++ a ++ 0#4 ++ k)
  | .plunpack c g w d a p j => some (BitVec.ofBool c ++ 67#7 ++ g ++ BitVec.ofBool w ++ d ++ a ++ 0#1 ++ p ++ j)
  | .plane c g w d a m p => some (BitVec.ofBool c ++ 68#7 ++ g ++ BitVec.ofBool w ++ d ++ a ++ 0#2 ++ m ++ p)
  | .fmtq c g w d f sc => some (BitVec.ofBool c ++ 69#7 ++ g ++ BitVec.ofBool w ++ d ++ 400#9 ++ f ++ sc)
  | .mclaim c g w p a m => some (BitVec.ofBool c ++ 72#7 ++ g ++ BitVec.ofBool w ++ 0#3 ++ p ++ a ++ 0#3 ++ m)
  | .mrelease c g a m => some (BitVec.ofBool c ++ 73#7 ++ g ++ 0#7 ++ a ++ 0#3 ++ m)
  | .mload c g d a sc => some (BitVec.ofBool c ++ 74#7 ++ g ++ 0#1 ++ d ++ a ++ 0#4 ++ sc)
  | .mzero c g k b m => some (BitVec.ofBool c ++ 75#7 ++ g ++ 200#15 ++ BitVec.ofBool k ++ BitVec.ofBool b ++ m)
  | .mma c g y x a t z b m => some (BitVec.ofBool c ++ 76#7 ++ g ++ 0#1 ++ y ++ x ++ a ++ BitVec.ofBool t ++ BitVec.ofBool z ++ BitVec.ofBool b ++ m)
  | .mdrain c g r o a l b m => some (BitVec.ofBool c ++ 77#7 ++ g ++ 0#1 ++ r ++ o ++ a ++ 0#1 ++ BitVec.ofBool l ++ BitVec.ofBool b ++ m)
  | .mchk c g w p b m => some (BitVec.ofBool c ++ 78#7 ++ g ++ BitVec.ofBool w ++ 0#3 ++ p ++ 400#9 ++ BitVec.ofBool b ++ m)
  | .mheat c g a m => some (BitVec.ofBool c ++ 79#7 ++ g ++ 0#7 ++ a ++ 1#3 ++ m)
  | .mheatOff c g m => some (BitVec.ofBool c ++ 79#7 ++ g ++ 800#17 ++ m)
  | .mwait c g q m => some (BitVec.ofBool c ++ 80#7 ++ g ++ 200#15 ++ q ++ m)
  | .ld c g w d a b => some (BitVec.ofBool c ++ 82#7 ++ g ++ BitVec.ofBool w ++ d ++ a ++ b)
  | .st c g d a b => some (BitVec.ofBool c ++ 83#7 ++ g ++ 0#1 ++ d ++ a ++ b)
  | .lds c g w d a b => some (BitVec.ofBool c ++ 84#7 ++ g ++ BitVec.ofBool w ++ d ++ a ++ b)
  | .sts c g d a b => some (BitVec.ofBool c ++ 85#7 ++ g ++ 0#1 ++ d ++ a ++ b)
  | .ldx c g w d a b => some (BitVec.ofBool c ++ 86#7 ++ g ++ BitVec.ofBool w ++ d ++ a ++ b)
  | .stx c g d a b => some (BitVec.ofBool c ++ 87#7 ++ g ++ 0#1 ++ d ++ a ++ b)
  | .ldw c g w d a b => some (BitVec.ofBool c ++ 88#7 ++ g ++ BitVec.ofBool w ++ d ++ a ++ b)
  | .stw c g d a b => some (BitVec.ofBool c ++ 89#7 ++ g ++ 0#1 ++ d ++ a ++ b)
  | .pres c g v a => some (BitVec.ofBool c ++ 90#7 ++ g ++ 0#6 ++ BitVec.ofBool v ++ a ++ 0#7)
  | .seal c g n => some (BitVec.ofBool c ++ 90#7 ++ g ++ 0#2 ++ n ++ 12816#14)
  | .unseal c g n => some (BitVec.ofBool c ++ 90#7 ++ g ++ 0#2 ++ n ++ 12832#14)
  | .pref c g n a l => some (BitVec.ofBool c ++ 90#7 ++ g ++ 0#2 ++ n ++ a ++ 24#6 ++ BitVec.ofBool l)
  | .bind c g n a => some (BitVec.ofBool c ++ 91#7 ++ g ++ 0#2 ++ n ++ a ++ 100#7)
  | .unbind c g n a => some (BitVec.ofBool c ++ 92#7 ++ g ++ 0#2 ++ n ++ a ++ 100#7)
  | .acq c g a sc => some (BitVec.ofBool c ++ 93#7 ++ g ++ 0#7 ++ a ++ 0#4 ++ sc)
  | .rel c g a sc => some (BitVec.ofBool c ++ 94#7 ++ g ++ 0#7 ++ a ++ 0#4 ++ sc)
  | .chkpt c g n a => some (BitVec.ofBool c ++ 95#7 ++ g ++ 0#2 ++ n ++ a ++ 0#7)
  | .logq c g w d a => some (BitVec.ofBool c ++ 95#7 ++ g ++ BitVec.ofBool w ++ 0#1 ++ d ++ a ++ 1#7)
  | .fence c g sc => some (BitVec.ofBool c ++ 96#7 ++ g ++ 1600#18 ++ sc)
  | .xfence c g o im sc => some (BitVec.ofBool c ++ 97#7 ++ g ++ 400#16 ++ BitVec.ofBool o ++ BitVec.ofBool im ++ sc)
  | .aadd c g w d a t => some (BitVec.ofBool c ++ 98#7 ++ g ++ BitVec.ofBool w ++ d ++ a ++ 0#1 ++ t ++ 0#4)
  | .amin c g w d a t => some (BitVec.ofBool c ++ 98#7 ++ g ++ BitVec.ofBool w ++ d ++ a ++ 0#1 ++ t ++ 1#4)
  | .amax c g w d a t => some (BitVec.ofBool c ++ 98#7 ++ g ++ BitVec.ofBool w ++ d ++ a ++ 0#1 ++ t ++ 2#4)
  | .aand c g w d a => some (BitVec.ofBool c ++ 98#7 ++ g ++ BitVec.ofBool w ++ d ++ a ++ 3#7)
  | .aor c g w d a => some (BitVec.ofBool c ++ 98#7 ++ g ++ BitVec.ofBool w ++ d ++ a ++ 4#7)
  | .axor c g w d a => some (BitVec.ofBool c ++ 98#7 ++ g ++ BitVec.ofBool w ++ d ++ a ++ 5#7)
  | .aswap c g w d a => some (BitVec.ofBool c ++ 98#7 ++ g ++ BitVec.ofBool w ++ d ++ a ++ 6#7)
  | .acas c g w d a => some (BitVec.ofBool c ++ 98#7 ++ g ++ BitVec.ofBool w ++ d ++ a ++ 7#7)
  | .ainc c g w d a => some (BitVec.ofBool c ++ 98#7 ++ g ++ BitVec.ofBool w ++ d ++ a ++ 8#7)
  | .radd c g d a t => some (BitVec.ofBool c ++ 99#7 ++ g ++ 0#1 ++ d ++ a ++ 0#4 ++ BitVec.ofBool t ++ 0#2)
  | .raddPf c g d a t => some (BitVec.ofBool c ++ 99#7 ++ g ++ 0#1 ++ d ++ a ++ 0#4 ++ BitVec.ofBool t ++ 1#2)
  | .raddFlush c g a => some (BitVec.ofBool c ++ 99#7 ++ g ++ 0#7 ++ a ++ 2#7)
  | .oadd c g d a b => some (BitVec.ofBool c ++ 100#7 ++ g ++ 0#1 ++ d ++ a ++ b)
  | .orinit c g n a b => some (BitVec.ofBool c ++ 101#7 ++ g ++ 0#2 ++ n ++ a ++ b)
  | .br g f => some (104#8 ++ g ++ f)
  | .brp g f => some (105#8 ++ g ++ f)
  | .jmp g a => some (106#8 ++ g ++ 0#7 ++ a ++ 100#7)
  | .call g f => some (107#8 ++ g ++ f)
  | .calli g a => some (108#8 ++ g ++ 0#7 ++ a ++ 100#7)
  | .ret g => some (109#8 ++ g ++ 12800#21)
  | .exit g => some (109#8 ++ g ++ 12801#21)
  | .yield g => some (109#8 ++ g ++ 12802#21)
  | .fwait c g h => some (BitVec.ofBool c ++ 110#7 ++ g ++ 0#10 ++ h ++ 0#7)
  | .ftest c g w p h => some (BitVec.ofBool c ++ 110#7 ++ g ++ BitVec.ofBool w ++ 0#3 ++ p ++ 0#3 ++ h ++ 1#7)
  | .fcancel c g h => some (BitVec.ofBool c ++ 110#7 ++ g ++ 0#10 ++ h ++ 2#7)
  | .fmovHh c g w e h => some (BitVec.ofBool c ++ 110#7 ++ g ++ BitVec.ofBool w ++ 0#2 ++ e ++ 0#3 ++ h ++ 3#7)
  | .fmovSh c g w d h => some (BitVec.ofBool c ++ 110#7 ++ g ++ BitVec.ofBool w ++ 1#1 ++ d ++ 0#3 ++ h ++ 3#7)
  | .fmovHs c g w e a => some (BitVec.ofBool c ++ 110#7 ++ g ++ BitVec.ofBool w ++ 0#2 ++ e ++ a ++ 3#7)
  | .cpy c g w h a b => some (BitVec.ofBool c ++ 112#7 ++ g ++ BitVec.ofBool w ++ 0#2 ++ h ++ a ++ b)
  | .cpyw c g w h a b => some (BitVec.ofBool c ++ 113#7 ++ g ++ BitVec.ofBool w ++ 0#2 ++ h ++ a ++ b)
  | .ovl c g w h a b => some (BitVec.ofBool c ++ 114#7 ++ g ++ BitVec.ofBool w ++ 0#2 ++ h ++ a ++ b)
  | .gth c g w h a b => some (BitVec.ofBool c ++ 115#7 ++ g ++ BitVec.ofBool w ++ 0#2 ++ h ++ a ++ b)
  | .coll c g w h a y q k => some (BitVec.ofBool c ++ 116#7 ++ g ++ BitVec.ofBool w ++ 0#2 ++ h ++ a ++ 0#1 ++ BitVec.ofBool y ++ q ++ k)
  | .rlink c g r a => some (BitVec.ofBool c ++ 117#7 ++ g ++ 0#5 ++ r ++ a ++ 0#7)
  | .rclose c g x r => some (BitVec.ofBool c ++ 117#7 ++ g ++ 0#4 ++ BitVec.ofBool x ++ r ++ 12801#14)
  | .spawn c g w d a b => some (BitVec.ofBool c ++ 118#7 ++ g ++ BitVec.ofBool w ++ 0#1 ++ d ++ a ++ b)
  | .done c g w d a => some (BitVec.ofBool c ++ 119#7 ++ g ++ BitVec.ofBool w ++ 0#1 ++ d ++ a ++ 100#7)
  | .tbfull c g a => some (BitVec.ofBool c ++ 120#7 ++ g ++ 0#7 ++ a ++ 0#7)
  | .tbempty c g a => some (BitVec.ofBool c ++ 120#7 ++ g ++ 0#7 ++ a ++ 1#7)
  | .tbwait c g a => some (BitVec.ofBool c ++ 120#7 ++ g ++ 0#7 ++ a ++ 2#7)
  | .heatid c g w d a => some (BitVec.ofBool c ++ 121#7 ++ g ++ BitVec.ofBool w ++ 0#1 ++ d ++ a ++ 100#7)
  | .bar c g a sc => some (BitVec.ofBool c ++ 122#7 ++ g ++ 0#7 ++ a ++ 0#4 ++ sc)
  | .binit c g n a => some (BitVec.ofBool c ++ 123#7 ++ g ++ 0#2 ++ n ++ a ++ 0#7)
  | .barrive c g w d a k => some (BitVec.ofBool c ++ 123#7 ++ g ++ BitVec.ofBool w ++ 0#1 ++ d ++ a ++ 1#3 ++ k)
  | .bwait c g w d a t => some (BitVec.ofBool c ++ 123#7 ++ g ++ BitVec.ofBool w ++ 0#1 ++ d ++ a ++ 2#3 ++ t)
  | .btest c g w p a => some (BitVec.ofBool c ++ 123#7 ++ g ++ BitVec.ofBool w ++ 0#3 ++ p ++ a ++ 48#7)
  | .sysrd c g w d n => some (BitVec.ofBool c ++ 124#7 ++ g ++ BitVec.ofBool w ++ 0#1 ++ d ++ n)
  | .syswr c g d n => some (BitVec.ofBool c ++ 125#7 ++ g ++ 0#2 ++ d ++ n)
  | .caprd c g w d a => some (BitVec.ofBool c ++ 126#7 ++ g ++ BitVec.ofBool w ++ 0#1 ++ d ++ a ++ 100#7)
  | .tfence c g => some (BitVec.ofBool c ++ 127#7 ++ g ++ 12800#21)
  | .trap g a => some (127#8 ++ g ++ 0#7 ++ a ++ 1#7)
  | .tret g => some (127#8 ++ g ++ 12802#21)
  | .flagrd c g w d a => some (BitVec.ofBool c ++ 127#7 ++ g ++ BitVec.ofBool w ++ 0#1 ++ d ++ a ++ 3#7)
  | .flagclr c g a => some (BitVec.ofBool c ++ 127#7 ++ g ++ 0#7 ++ a ++ 4#7)
  | .ctxsave c g a => some (BitVec.ofBool c ++ 127#7 ++ g ++ 0#7 ++ a ++ 5#7)
  | .ctxload c g a => some (BitVec.ofBool c ++ 127#7 ++ g ++ 0#7 ++ a ++ 6#7)
  | .transmitRegisterWrite _ _ => none
  | .receiveRegisterRead _ _ _ => none
  | .repctlWrite _ => none
  | .parkEnd _ _ => none
  | .multiClkResultWrite _ _ => none
  | .loadReply _ _ => none
  | .sliceRequestArrival _ _ => none
  | .sliceHoldBoundExpiry _ _ => none
  | .hbmHoldBoundExpiry _ _ => none
  | .routerPacket _ _ _ _ => none
  | .bounceNotice _ _ _ => none
  | .replayReissue _ _ => none
  | .walkOutcome _ => none
  | .stage2FaultEntryWrite _ => none
  | .pageRequestMessage _ => none
  | .prgResponse _ _ _ => none
  | .stage2ReplyWrite _ => none
  | .pageReplyAtWalker _ _ => none
  | .pageFailureDelivery _ => none
  | .atsInvalidation _ _ => none
  | .cxlMemWrite _ _ => none
  | .cxlMemRead _ _ => none
  | .heatWindowRequest _ _ => none
  | .absenceNotice _ _ _ => none
  | .wakeNotice _ _ _ => none
  | .stxAcknowledge _ _ => none
  | .logBufferDrain _ => none
  | .logWaitExpiry _ => none
  | .releaseAtSlice _ => none
  | .acquireAtSlice _ => none
  | .releaseReply _ => none
  | .acquireReply _ => none
  | .nodeCommit _ _ => none
  | .compactorApply _ _ => none
  | .nodeRollback _ _ => none
  | .atomicAtSlice _ _ => none
  | .atomicReply _ _ => none
  | .replyAcknowledgeNotice _ _ => none
  | .joinWake _ _ => none
  | .waiterRegistration _ _ => none
  | .spawnEntry _ => none
  | .spawnStatus _ _ => none
  | .batonPlacement _ => none
  | .batonStart _ _ _ => none
  | .starterBegin _ _ => none
  | .heatReservation _ _ => none
  | .placementLevelAging _ _ => none
  | .batonFinish _ _ => none
  | .timeSliceExpiry _ => none
  | .crewVacate _ _ => none
  | .contextSave _ => none
  | .contextSpill _ => none
  | .batonResume _ _ _ => none
  | .engineWordStart _ _ => none
  | .engineLineWrite _ _ => none
  | .gatherElement _ _ => none
  | .engineWordComplete _ => none
  | .collectiveAbort _ _ => none
  | .relayFlitArrival _ => none
  | .relayAcknowledge _ _ => none
  | .relayResend _ => none
  | .barrierEpisodeRelease _ => none
  | .bwaitBoundExpiry _ _ _ => none
  | .macroOperationStart _ => none
  | .tokenRequest _ => none
  | .tokenServe _ => none
  | .tokenGrant _ => none
  | .mmaRowStep _ => none
  | .mmaComplete _ => none
  | .mzeroComplete _ => none
  | .checkComplete _ => none
  | .drainLineWrite _ _ => none
  | .drainComplete _ => none
  | .workgroupKill _ _ => none
  | .slotScrubComplete _ _ => none
  | .pacerCreditTick => none
  | .vfStep _ _ => none
  | .rampSlotStart => none
  | .pinnedReserveBuild _ _ => none
  | .notify _ _ _ => none
  | .destroyDrain _ _ _ => none
  | .destroyKill _ _ _ => none
  | .resume _ _ _ => none
  | .queueMap => none
  | .qcbLoad _ _ => none
  | .packetRead _ => none
  | .nop _ => none
  | .launch _ => none
  | .wait _ => none
  | .inval _ => none
  | .group _ => none
  | .preempt _ => none
  | .partCreate _ => none
  | .partDissolve _ => none
  | .packetComplete _ _ _ => none
  | .watchWake _ => none
  | .waitTimeout _ _ => none
  | .queuePendingAging _ => none
  | .eccError _ _ _ _ _ => none
  | .patrolRead _ _ => none
  | .refreshManagement _ _ _ => none
  | .idleFlit _ => none
  | .linkFailure _ => none
  | .switchFailure _ => none
  | .groupFailure _ => none
  | .namedFailure _ => none
  | .violation _ _ _ _ => none
  | .thaw => none
  | .kill => none
  | .acknowledge => none
  | .bucketFill _ => none
  | .inFieldTestDue _ => none
  | .inFieldTestSkip _ => none
  | .inFieldTestComplete _ _ => none
  | .comparatorMismatch _ _ => none
  | .functionLevelReset _ => none
  | .functionResetComplete _ => none
  | .vectorUnmask _ _ => none
  | .resetN _ => none
  | .pwrok _ => none
  | .vralertN => none
  | .telemetryReport _ _ _ _ => none
  | .boot => none
  | .hubRegisterWrite _ _ _ _ => none
  | .haledFlitArrival _ _ => none
  | .refresh _ _ _ => none
  | .hbmRequestArrival _ _ => none
  | .laneRepair _ _ => none
  | .atsTranslationCompletion _ _ _ _ => none
  | .flashWrite _ _ => none

/-! ### Field classes and selector ranges (R27 to R30, R49) -/

/-- A uniform source: an s register, a constant that is the same in every lane, or a literal (R30, R108). -/
def uniform (a : BitVec 7) : Bool :=
  let n := a.toNat
  (decide (64 ≤ n) && decide (n < 96)) || n = 100 || n = 101 || decide (104 ≤ n)
/-- A selector that names an s register (R28). -/
def isS (a : BitVec 7) : Bool := decide (64 ≤ a.toNat) && decide (a.toNat < 96)
/-- A selector that names an s register with others behind it, none beyond a last one (R269, R298). -/
def sRange (a : BitVec 7) (last : Nat) : Bool := decide (64 ≤ a.toNat) && decide (a.toNat ≤ last)
/-- A selector that names a v register (R28). -/
def isV (a : BitVec 7) : Bool := decide (a.toNat < 64)
/-- The address of an atomic: an s register or an even pair of v registers (R241). -/
def addrOk (a : BitVec 7) : Bool := isS a || (isV a && a.toNat % 2 = 0)
/-- A scope code (R213, R234, R315). -/
def scopeOk (sc : BitVec 3) : Bool := sc != 0 && sc != 6 && sc != 7
/-- An operation and type of a reduction (R112). -/
def reduceOk (o : BitVec 4) (t : BitVec 2) : Bool :=
  decide (o.toNat ≤ 5) && t != 3 && (if o = 0 then t != 1 else if decide (3 ≤ o.toNat) then t = 0 else true)
/-- A CODE of cvt (R135). -/
def codeOk (k : BitVec 4) : Bool := k != 0 && k != 1 && k != 8 && k != 15
/-- Whether PART suits a format's lane field (R135). -/
def partOk (code part : Nat) : Bool :=
  match code with
  | 1 | 13 | 14 => part = 0
  | 2 | 3 | 11 | 12 => decide (part ≤ 1)
  | _ => true
/-- KIND, OP and TYPE of a collective (R278). -/
def collOk (k : BitVec 3) (q : BitVec 2) (y : Bool) : Bool :=
  decide (k.toNat ≤ 4) && q != 3 && (!(k = 2 || k = 3) || (q = 0 && !y))

/-- Whether the fields of a decoded word lie in the classes and ranges of its row (R27, R30, R49); the v registers that it
names, and what the chip or the stream lacks, are looked at by Shape.lean. A step that has no word is not well formed. -/
def Instr.fieldsOk : Instr → Bool
  | .sadd _ _ _ _ a b => uniform a && uniform b && !(a = 127 && b = 127)
  | .ssub _ _ _ _ a b => uniform a && uniform b && !(a = 127 && b = 127)
  | .smul _ _ _ _ a b => uniform a && uniform b && !(a = 127 && b = 127)
  | .smulh _ _ _ _ a b => uniform a && uniform b && !(a = 127 && b = 127)
  | .sdiv _ _ _ _ a b => uniform a && uniform b && !(a = 127 && b = 127)
  | .sand _ _ _ _ a b => uniform a && uniform b && !(a = 127 && b = 127)
  | .sor _ _ _ _ a b => uniform a && uniform b && !(a = 127 && b = 127)
  | .sxor _ _ _ _ a b => uniform a && uniform b && !(a = 127 && b = 127)
  | .sshl _ _ _ _ a b => uniform a && uniform b && !(a = 127 && b = 127)
  | .sshr _ _ _ _ a b => uniform a && uniform b && !(a = 127 && b = 127)
  | .ssra _ _ _ _ a b => uniform a && uniform b && !(a = 127 && b = 127)
  | .smin _ _ _ _ a b => uniform a && uniform b && !(a = 127 && b = 127)
  | .smax _ _ _ _ a b => uniform a && uniform b && !(a = 127 && b = 127)
  | .ssel _ _ _ _ a b => uniform a && uniform b && !(a = 127 && b = 127)
  | .scmp _ _ _ _ p a b => uniform a && uniform b && !(a = 127 && b = 127) && p != 7
  | .smov _ _ _ _ a => uniform a
  | .sclz _ _ _ _ a => uniform a
  | .spop _ _ _ _ a => uniform a
  | .sli _ _ _ _ _ => true
  | .slitLo _ _ _ _ a => uniform a
  | .slitHi _ _ _ _ a => uniform a
  | .saddr _ _ _ _ a b => uniform a && uniform b && !(a = 127 && b = 127)
  | .saddImm _ _ _ _ a _ => uniform a && a != 127
  | .scmpImm _ _ _ _ p a _ => uniform a && a != 127 && p != 7
  | .vaddI32 _ _ _ _ a b => !(a = 127 && b = 127)
  | .vaddF32 _ _ _ _ a b => !(a = 127 && b = 127)
  | .vsubI32 _ _ _ _ a b => !(a = 127 && b = 127)
  | .vsubF32 _ _ _ _ a b => !(a = 127 && b = 127)
  | .vmulI32 _ _ _ _ a b => !(a = 127 && b = 127)
  | .vmulF32 _ _ _ _ a b => !(a = 127 && b = 127)
  | .vmulhI32 _ _ _ _ a b => !(a = 127 && b = 127)
  | .vmulhN32 _ _ _ _ a b => !(a = 127 && b = 127)
  | .vminI32 _ _ _ _ a b => !(a = 127 && b = 127)
  | .vminN32 _ _ _ _ a b => !(a = 127 && b = 127)
  | .vminF32 _ _ _ _ a b => !(a = 127 && b = 127)
  | .vmaxI32 _ _ _ _ a b => !(a = 127 && b = 127)
  | .vmaxN32 _ _ _ _ a b => !(a = 127 && b = 127)
  | .vmaxF32 _ _ _ _ a b => !(a = 127 && b = 127)
  | .vfmaF32 _ _ _ _ a b => !(a = 127 && b = 127)
  | .vmadI32 _ _ _ _ a b => !(a = 127 && b = 127)
  | .vand _ _ _ _ a b => !(a = 127 && b = 127)
  | .vor _ _ _ _ a b => !(a = 127 && b = 127)
  | .vxor _ _ _ _ a b => !(a = 127 && b = 127)
  | .vshl _ _ _ _ a b => !(a = 127 && b = 127)
  | .vshr _ _ _ _ a b => !(a = 127 && b = 127)
  | .vsra _ _ _ _ a b => !(a = 127 && b = 127)
  | .vsel _ g _ _ a b => !(a = 127 && b = 127) && g != 7
  | .vmov _ _ _ _ _ => true
  | .vabsI32 _ _ _ _ _ => true
  | .vabsF32 _ _ _ _ _ => true
  | .vnegI32 _ _ _ _ _ => true
  | .vnegF32 _ _ _ _ _ => true
  | .vclz _ _ _ _ _ => true
  | .vpop _ _ _ _ _ => true
  | .frcp _ _ _ _ _ => true
  | .frsq _ _ _ _ _ => true
  | .fsqrt _ _ _ _ _ => true
  | .fexp2 _ _ _ _ _ => true
  | .flog2 _ _ _ _ _ => true
  | .fsin _ _ _ _ _ => true
  | .fcos _ _ _ _ _ => true
  | .ftanh _ _ _ _ _ => true
  | .vcmpI32 _ _ _ _ p a b => !(a = 127 && b = 127) && p != 7
  | .vcmpN32 _ _ _ _ p a b => !(a = 127 && b = 127) && p != 7
  | .vcmpF32 _ _ _ _ p a b => !(a = 127 && b = 127) && p != 7
  | .vclampI32 _ _ _ _ a b => !(a = 127 && b = 127)
  | .vclampF32 _ _ _ _ a b => !(a = 127 && b = 127)
  | .rep _ _ _ _ _ => true
  | .xshuf _ _ _ _ a _ => isV a
  | .xrot _ _ _ _ a b => isV a && uniform b
  | .xbcast _ _ _ _ a b => isV a && uniform b
  | .xfirst _ _ _ _ a _ => isV a
  | .xvote _ _ _ _ _ _ => true
  | .xreduce _ _ _ _ _ t o => reduceOk o t
  | .xscan _ _ _ _ _ _ t o => reduceOk o t
  | .xcount _ _ _ _ a b => !(a = 127 && b = 127)
  | .cvtEnc _ _ _ _ _ _ k => codeOk k
  | .cvtDec _ _ _ _ _ p k => codeOk k && partOk k.toNat p.toNat
  | .cvtsEnc _ _ _ _ _ _ _ => true
  | .cvtsDec _ _ _ _ _ _ _ => true
  | .plpack _ _ _ _ a _ => isV a && decide (a.toNat + 7 < 64)
  | .plunpack _ _ _ _ a p _ => isV a && p != 0 && decide (a.toNat + p.toNat < 64)
  | .plane _ _ _ _ _ m p => m != 3 && p != 0
  | .fmtq _ _ _ _ _ _ => true
  | .mclaim _ _ _ p a m => m != 0 && p != 7 && uniform a
  | .mrelease _ _ a m => m != 0 && uniform a
  | .mload _ _ _ _ _ => true
  | .mzero _ _ _ _ m => m != 0
  | .mma _ _ _ _ a _ _ _ m => m != 0 && uniform a
  | .mdrain _ _ _ _ a _ _ m => m != 0 && uniform a
  | .mchk _ _ _ p _ m => m != 0 && p != 7
  | .mheat _ _ a m => m != 0 && uniform a
  | .mheatOff _ _ m => m != 0
  | .mwait _ _ q m => m != 0 && q != 3
  | .ld _ _ _ _ a _ => isS a
  | .st _ _ _ a _ => isS a
  | .lds _ _ _ _ a b => !(a = 127 && b = 127)
  | .sts _ _ _ a b => !(a = 127 && b = 127)
  | .ldx _ _ _ _ a b => !(a = 127 && b = 127)
  | .stx _ _ _ a b => !(a = 127 && b = 127)
  | .ldw _ _ _ _ a b => !(a = 127 && b = 127)
  | .stw _ _ _ a b => !(a = 127 && b = 127)
  | .pres _ _ _ _ => true
  | .seal _ _ n => n != 31
  | .unseal _ _ n => n != 31
  | .pref _ _ _ _ _ => true
  | .bind _ _ n a => isS a && n != 31
  | .unbind _ _ n a => isS a && n != 31
  | .acq _ _ a sc => isS a && scopeOk sc
  | .rel _ _ a sc => isS a && scopeOk sc
  | .chkpt _ _ _ a => uniform a
  | .logq _ _ _ _ a => uniform a
  | .fence _ _ sc => scopeOk sc
  | .xfence _ _ _ _ sc => scopeOk sc
  | .aadd _ _ _ _ a t => addrOk a && t != 3
  | .amin _ _ _ _ a t => addrOk a && t != 3
  | .amax _ _ _ _ a t => addrOk a && t != 3
  | .aand _ _ _ _ a => addrOk a
  | .aor _ _ _ _ a => addrOk a
  | .axor _ _ _ _ a => addrOk a
  | .aswap _ _ _ _ a => addrOk a
  | .acas _ _ _ d a => addrOk a && d != 63
  | .ainc _ _ _ _ a => addrOk a
  | .radd _ _ _ a _ => addrOk a
  | .raddPf _ _ _ a _ => addrOk a
  | .raddFlush _ _ a => addrOk a
  | .oadd _ _ _ a _ => isS a
  | .orinit _ _ _ a b => isS a && uniform b
  | .br _ _ => true
  | .brp _ _ => true
  | .jmp _ a => isS a
  | .call _ _ => true
  | .calli _ a => isS a
  | .ret _ => true
  | .exit _ => true
  | .yield _ => true
  | .fwait _ _ _ => true
  | .ftest _ _ _ p _ => p != 7
  | .fcancel _ _ _ => true
  | .fmovHh _ _ _ _ _ => true
  | .fmovSh _ _ _ _ _ => true
  | .fmovHs _ _ _ _ a => isS a
  | .cpy _ _ _ _ a b => sRange a 94 && uniform b
  | .cpyw _ _ _ _ a b => sRange a 94 && uniform b
  | .ovl _ _ _ _ a b => uniform a && uniform b && !(a = 127 && b = 127)
  | .gth _ _ _ _ a b => sRange a 93 && isV b
  | .coll _ _ _ _ a y q k => sRange a 93 && collOk k q y
  | .rlink _ _ _ a => isS a
  | .rclose _ _ _ _ => true
  | .spawn _ _ _ _ a b => sRange a 92 && uniform b
  | .done _ _ _ _ a => isS a
  | .tbfull _ _ a => isS a
  | .tbempty _ _ a => isS a
  | .tbwait _ _ a => isS a
  | .heatid _ _ _ _ a => uniform a
  | .bar _ _ a sc => scopeOk sc && (if sc.toNat ≤ 3 then a = 100 else isS a)
  | .binit _ _ _ a => uniform a
  | .barrive _ _ _ _ a k => uniform a && k != 0
  | .bwait _ _ _ _ a _ => uniform a
  | .btest _ _ _ p a => uniform a && p != 7
  | .sysrd _ _ _ _ _ => true
  | .syswr _ _ _ _ => true
  | .caprd _ _ _ _ a => uniform a
  | .tfence _ _ => true
  | .trap _ a => uniform a
  | .tret _ => true
  | .flagrd _ _ _ _ a => uniform a
  | .flagclr _ _ a => uniform a
  | .ctxsave _ _ a => isS a
  | .ctxload _ _ a => isS a
  | .repeatIssue _ _ => false
  | .transmitRegisterWrite _ _ => false
  | .receiveRegisterRead _ _ _ => false
  | .repctlWrite _ => false
  | .parkEnd _ _ => false
  | .multiClkResultWrite _ _ => false
  | .loadReply _ _ => false
  | .sliceRequestArrival _ _ => false
  | .sliceHoldBoundExpiry _ _ => false
  | .hbmHoldBoundExpiry _ _ => false
  | .routerPacket _ _ _ _ => false
  | .bounceNotice _ _ _ => false
  | .replayReissue _ _ => false
  | .walkOutcome _ => false
  | .stage2FaultEntryWrite _ => false
  | .pageRequestMessage _ => false
  | .prgResponse _ _ _ => false
  | .stage2ReplyWrite _ => false
  | .pageReplyAtWalker _ _ => false
  | .pageFailureDelivery _ => false
  | .atsInvalidation _ _ => false
  | .cxlMemWrite _ _ => false
  | .cxlMemRead _ _ => false
  | .heatWindowRequest _ _ => false
  | .absenceNotice _ _ _ => false
  | .wakeNotice _ _ _ => false
  | .stxAcknowledge _ _ => false
  | .logBufferDrain _ => false
  | .logWaitExpiry _ => false
  | .releaseAtSlice _ => false
  | .acquireAtSlice _ => false
  | .releaseReply _ => false
  | .acquireReply _ => false
  | .nodeCommit _ _ => false
  | .compactorApply _ _ => false
  | .nodeRollback _ _ => false
  | .atomicAtSlice _ _ => false
  | .atomicReply _ _ => false
  | .replyAcknowledgeNotice _ _ => false
  | .joinWake _ _ => false
  | .waiterRegistration _ _ => false
  | .spawnEntry _ => false
  | .spawnStatus _ _ => false
  | .batonPlacement _ => false
  | .batonStart _ _ _ => false
  | .starterBegin _ _ => false
  | .heatReservation _ _ => false
  | .placementLevelAging _ _ => false
  | .batonFinish _ _ => false
  | .timeSliceExpiry _ => false
  | .crewVacate _ _ => false
  | .contextSave _ => false
  | .contextSpill _ => false
  | .batonResume _ _ _ => false
  | .engineWordStart _ _ => false
  | .engineLineWrite _ _ => false
  | .gatherElement _ _ => false
  | .engineWordComplete _ => false
  | .collectiveAbort _ _ => false
  | .relayFlitArrival _ => false
  | .relayAcknowledge _ _ => false
  | .relayResend _ => false
  | .barrierEpisodeRelease _ => false
  | .bwaitBoundExpiry _ _ _ => false
  | .macroOperationStart _ => false
  | .tokenRequest _ => false
  | .tokenServe _ => false
  | .tokenGrant _ => false
  | .mmaRowStep _ => false
  | .mmaComplete _ => false
  | .mzeroComplete _ => false
  | .checkComplete _ => false
  | .drainLineWrite _ _ => false
  | .drainComplete _ => false
  | .workgroupKill _ _ => false
  | .slotScrubComplete _ _ => false
  | .pacerCreditTick => false
  | .vfStep _ _ => false
  | .rampSlotStart => false
  | .pinnedReserveBuild _ _ => false
  | .notify _ _ _ => false
  | .destroyDrain _ _ _ => false
  | .destroyKill _ _ _ => false
  | .resume _ _ _ => false
  | .queueMap => false
  | .qcbLoad _ _ => false
  | .packetRead _ => false
  | .nop _ => false
  | .launch _ => false
  | .wait _ => false
  | .inval _ => false
  | .group _ => false
  | .preempt _ => false
  | .partCreate _ => false
  | .partDissolve _ => false
  | .packetComplete _ _ _ => false
  | .watchWake _ => false
  | .waitTimeout _ _ => false
  | .queuePendingAging _ => false
  | .eccError _ _ _ _ _ => false
  | .patrolRead _ _ => false
  | .refreshManagement _ _ _ => false
  | .idleFlit _ => false
  | .linkFailure _ => false
  | .switchFailure _ => false
  | .groupFailure _ => false
  | .namedFailure _ => false
  | .violation _ _ _ _ => false
  | .thaw => false
  | .kill => false
  | .acknowledge => false
  | .bucketFill _ => false
  | .inFieldTestDue _ => false
  | .inFieldTestSkip _ => false
  | .inFieldTestComplete _ _ => false
  | .comparatorMismatch _ _ => false
  | .functionLevelReset _ => false
  | .functionResetComplete _ => false
  | .vectorUnmask _ _ => false
  | .resetN _ => false
  | .pwrok _ => false
  | .vralertN => false
  | .telemetryReport _ _ _ _ => false
  | .boot => false
  | .hubRegisterWrite _ _ _ _ => false
  | .haledFlitArrival _ _ => false
  | .refresh _ _ _ => false
  | .hbmRequestArrival _ _ => false
  | .laneRepair _ _ => false
  | .atsTranslationCompletion _ _ _ _ => false
  | .flashWrite _ _ => false

end Sys2Proof
end

