-- ==== Sys2Proof/Machine/SpecialFn.lean ====
section
/-! DEFINITION. The special functions (R117 to R120). The square root is computed. The other seven are the free function
Config.specialFn, kept within the bound of R118 by comparing it with the function's value in fixed point of 400 fraction
bits, whose own error lies far below any bound; the exact cases and the special inputs are the spec's (log entry 10). -/

namespace Sys2Proof.Machine

/-- Fraction bits of the fixed-point reference. -/
def fxBits : Nat := 400
/-- One in fixed point. -/
def fxOne : Int := 2 ^ fxBits
/-- A fixed-point product, truncated. -/
def fxMul (a b : Int) : Int := a * b / fxOne
/-- A fixed-point quotient, truncated. -/
def fxDiv (a b : Int) : Int := a * fxOne / b

/-- The integer square root, found bit by bit from 2^(n−1) down. -/
def isqrt (n : Nat) : Nat → Nat → Nat
  | 0, r => r
  | k + 1, r => if (r + 2 ^ k) * (r + 2 ^ k) ≤ n then isqrt n k (r + 2 ^ k) else isqrt n k r

/-- The arctangent of 1 / q by its series, n terms from term k, pw being the current odd power. -/
def fxAtanInv (q : Int) : Nat → Int → Int → Int → Int
  | 0, _, _, acc => acc
  | n + 1, k, pw, acc =>
    let t := pw / (2 * k + 1)
    fxAtanInv q n (k + 1) (pw / (q * q)) (if k % 2 = 0 then acc + t else acc - t)

/-- π by Machin's formula. -/
def fxPi : Int := 4 * (4 * fxAtanInv 5 200 0 (fxOne / 5) 0 - fxAtanInv 239 60 0 (fxOne / 239) 0)

/-- A power series Σ x^k / k!, with every step-th sign and term chosen by the caller through the recurrence. -/
def fxExpTerms (x : Int) : Nat → Int → Int → Int → Int
  | 0, _, _, acc => acc
  | n + 1, k, t, acc => fxExpTerms x n (k + 1) (fxMul t x / (k + 1)) (acc + t)

/-- e^x for |x| at most 1. -/
def fxExp (x : Int) : Int := fxExpTerms x 100 0 fxOne 0

/-- ln 2 = 2 × atanh(1/3), by its series. -/
def fxAtanhInv (q : Int) : Nat → Int → Int → Int → Int
  | 0, _, _, acc => acc
  | n + 1, k, pw, acc => fxAtanhInv q n (k + 1) (pw / (q * q)) (acc + pw / (2 * k + 1))

def fxLn2 : Int := 2 * fxAtanhInv 3 140 0 (fxOne / 3) 0

/-- sin and cos series on |x| at most 4. -/
def fxSinTerms (x2 : Int) : Nat → Int → Int → Int → Int
  | 0, _, _, acc => acc
  | n + 1, k, t, acc => fxSinTerms x2 n (k + 2) (-(fxMul t x2) / ((k + 1) * (k + 2))) (acc + t)

def fxSin (x : Int) : Int := fxSinTerms (fxMul x x) 60 1 x 0
def fxCos (x : Int) : Int := fxSinTerms (fxMul x x) 60 0 fxOne 0

/-- The fraction bits of log₂ of a mantissa in [1, 2), by repeated squaring. -/
def fxLog2Bits : Nat → Int → Int → Int → Int
  | 0, _, _, acc => acc
  | n + 1, m, bit, acc =>
    let q := fxMul m m
    if q ≥ 2 * fxOne then fxLog2Bits n (q / 2) (bit / 2) (acc + bit) else fxLog2Bits n q (bit / 2) acc

/-- A finite value m × 2^e in fixed point. -/
def fxOf (neg : Bool) (m : Nat) (e : Int) : Int :=
  let v : Int := if e + fxBits ≥ 0 then (m * 2 ^ (e + fxBits).toNat : Nat) else (m / 2 ^ (-(e + fxBits)).toNat : Nat)
  if neg then -v else v

/-- The reference value of special function n at a finite input: sign, numerator over 2^400, and a further exponent. -/
def specialRef (n : Nat) (neg : Bool) (m : Nat) (e : Int) : Bool × Nat × Int :=
  let l : Nat := m.log2
  let frac : Int := fxOf false m (-(l : Int))
  match n with
  | 8 => (neg, (fxDiv fxOne frac).toNat, -(l + e) - fxBits)
  | 9 =>
    let odd := (l + e) % 2 ≠ 0
    let f2 := if odd then 2 * frac else frac
    let h := if odd then (l + e - 1) / 2 else (l + e) / 2
    (false, (fxOne * fxOne / (isqrt (f2 * fxOne).toNat 402 0 : Nat)).toNat, -h - fxBits)
  | 11 =>
    let x := fxOf neg m e
    let k := x / fxOne
    (false, (fxExp (fxMul (x - k * fxOne) fxLn2)).toNat, k - fxBits)
  | 12 =>
    let v := (l + e) * fxOne + fxLog2Bits 400 frac (fxOne / 2) 0
    (decide (v < 0), v.natAbs, -fxBits)
  | 13 | 14 =>
    let p := 2 * fxPi
    let x := if e ≥ 0 then ((m * 2 ^ e.toNat : Nat) : Int) * fxOne % p else fxOf false m e % p
    let x := if x > fxPi then x - p else x
    let v := if n = 13 then (if neg then -(fxSin x) else fxSin x) else fxCos x
    (decide (v < 0), v.natAbs, -fxBits)
  | _ =>
    if l + e ≥ 5 then (neg, (fxOne - 1).toNat, -fxBits)
    else
      let y := fxDiv (2 * fxOf false m e) fxLn2
      let k := y / fxOne
      let t := fxExp (fxMul (y - k * fxOne) fxLn2) * 2 ^ k.toNat
      (neg, (fxDiv (t - fxOne) (t + fxOne)).toNat, -fxBits)

/-- Whether m × 2^e is greater than a whole number. -/
def magAbove (m : Nat) (e : Int) (n : Nat) : Bool := if e ≥ 0 then decide (n < m * 2 ^ e.toNat) else decide (n * 2 ^ (-e).toNat < m)

/-- Whether ± m × 2^e is an exact case of a function (R118): of 2^x the integers from −126 up; the
others, integers below included, have the free value within the bound (log entry 10). -/
def specialExact (n : Nat) (neg : Bool) (m : Nat) (e : Int) : Bool :=
  let pow := m = 2 ^ m.log2
  match n with
  | 8 => pow && decide ((m.log2 : Int) + e ≤ 126)
  | 9 => pow && (m.log2 + e) % 2 = 0
  | 11 => (if e ≥ 0 then true else m % 2 ^ (-e).toNat = 0) && !(neg && magAbove m e 126)
  | 12 => pow
  | _ => false

/-- Whether an f32 word lies within the bound of R118 of the reference value r = ± num × 2^e. Absolute bounds: 2^−21 for
sine and cosine, 2^−22 for the logarithm on [0.5, 2]; else 1 ulp for the reciprocal and 2 ulp for the rest. -/
def specialWithin (n : Nat) (y : Word32) (neg : Bool) (num : Nat) (e : Int) (nearOne : Bool) : Bool :=
  match Ieee.f32.val y.toNat with
  | .fin yn ym ye =>
    let q : Int := -700
    let yv : Int := (if yn then -1 else 1) * ((ym * 2 ^ (ye - q).toNat : Nat) : Int)
    let rv : Int := (if neg then -1 else 1) * (if e ≥ q then ((num * 2 ^ (e - q).toNat : Nat) : Int)
      else ((num / 2 ^ (q - e).toNat : Nat) : Int))
    let lead := if num = 0 then -149 else leadExp num 1 e
    let ulpExp : Int := if lead - 23 < -149 then -149 else lead - 23
    let bound : Int := match n with
      | 13 | 14 => 2 ^ (-21 - q).toNat
      | 12 => if nearOne then 2 ^ (-22 - q).toNat else 2 * 2 ^ (ulpExp - q).toNat
      | 8 => 2 ^ (ulpExp - q).toNat
      | _ => 2 * 2 ^ (ulpExp - q).toNat
    decide ((yv - rv).natAbs ≤ bound.natAbs)
  | _ => false

/-- Whether 2^x saturates (R119): to +∞ from 128, to +0 below −150. -/
def exp2Saturates (neg : Bool) (m : Nat) (e : Int) : Bool := if neg then magAbove m e 150 else decide (m.log2 + e ≥ 7)

/-- The value of a special function at a finite input (R118, R119): saturated outside the range, exact in the exact cases,
and elsewhere the device's free choice within the bound. -/
def specialFinite (n : Nat) (x : Word32) (neg : Bool) (m : Nat) (e : Int) : Word32 :=
  if n = 11 ∧ exp2Saturates neg m e then (if neg then 0 else f32Inf false)
  else
    let r := specialRef n neg m e
    let nearest := (f32Round plainMode r.1 r.2.1 1 r.2.2).1
    let y := Config.specialFn n x
    if specialExact n neg m e || nearest.extractLsb' 23 8 = 255#8 then nearest
    else if specialWithin n y r.1 r.2.1 r.2.2 (m.log2 + e = -1 || m.log2 + e = 0 || (m = 2 ^ m.log2 && m.log2 + e = 1))
    then y else nearest

/-- Results of a special input (R119), none for a finite input the table leaves to the function. -/
def specialInput (n : Nat) (v : FVal) : Option (Word32 × BitVec 8) :=
  match v with
  | .nan s => some (canonNan, flagIf s flNV)
  | .inf true => some (match n with
    | 8 => (0x80000000, 0) | 11 => (0, 0) | 15 => (0xBF800000, 0) | _ => (canonNan, flNV))
  | .inf false => some (match n with
    | 8 | 9 => (0, 0) | 10 | 11 | 12 => (f32Inf false, 0) | 15 => (0x3F800000, 0) | _ => (canonNan, flNV))
  | .fin neg 0 _ => some (match n with
    | 8 | 9 => (f32Inf neg, 0)
    | 11 | 14 => (0x3F800000, 0)
    | 12 => (f32Inf true, 0)
    | _ => (if neg then 0x80000000 else 0, 0))
  | .fin true _ _ => if n = 9 || n = 10 || n = 12 then some (canonNan, flNV) else none
  | .fin false _ _ => none

/-- The correctly rounded square root of m × 2^e (R118). -/
def f32Sqrt (md : FpMode) (m : Nat) (e : Int) : Word32 × BitVec 8 :=
  let sh : Nat := if e % 2 = 0 then 80 else 81
  let n := m * 2 ^ sh
  let r := isqrt n 64 0
  f32Round md false (2 * r + (if r * r = n then 0 else 1)) 1 ((e - sh) / 2 - 1)

/-- A special function under a mode: DAZ on the input, FTZ on the result, RM for the square root only (R117). -/
def specialValue (n : Nat) (md : FpMode) (x : Word32) : Word32 × BitVec 8 :=
  let x := dazWord md.daz x
  match specialInput n (Ieee.f32.val x.toNat) with
  | some r => r
  | none =>
    match Ieee.f32.val x.toNat with
    | .fin neg m e =>
      if n = 10 then (let r := f32Sqrt md m e; (r.1, r.2 &&& flNX))
      else (dazWord md.ftz (specialFinite n x neg m e), 0)
    | _ => (canonNan, 0)

/-- frcp (R117). -/
def execFrcp (g : BitVec 3) (w : Bool) (d : BitVec 6) (a : BitVec 7) (s : State) :=
  vecOp1 s g w d a 8 fun md x => specialValue 8 md x
/-- frsq (R117). -/
def execFrsq (g : BitVec 3) (w : Bool) (d : BitVec 6) (a : BitVec 7) (s : State) :=
  vecOp1 s g w d a 8 fun md x => specialValue 9 md x
/-- fsqrt (R117). -/
def execFsqrt (g : BitVec 3) (w : Bool) (d : BitVec 6) (a : BitVec 7) (s : State) :=
  vecOp1 s g w d a 12 fun md x => specialValue 10 md x
/-- fexp2 (R117). -/
def execFexp2 (g : BitVec 3) (w : Bool) (d : BitVec 6) (a : BitVec 7) (s : State) :=
  vecOp1 s g w d a 8 fun md x => specialValue 11 md x
/-- flog2 (R117). -/
def execFlog2 (g : BitVec 3) (w : Bool) (d : BitVec 6) (a : BitVec 7) (s : State) :=
  vecOp1 s g w d a 8 fun md x => specialValue 12 md x
/-- fsin (R117). -/
def execFsin (g : BitVec 3) (w : Bool) (d : BitVec 6) (a : BitVec 7) (s : State) :=
  vecOp1 s g w d a 12 fun md x => specialValue 13 md x
/-- fcos (R117). -/
def execFcos (g : BitVec 3) (w : Bool) (d : BitVec 6) (a : BitVec 7) (s : State) :=
  vecOp1 s g w d a 12 fun md x => specialValue 14 md x
/-- ftanh (R117). -/
def execFtanh (g : BitVec 3) (w : Bool) (d : BitVec 6) (a : BitVec 7) (s : State) :=
  vecOp1 s g w d a 12 fun md x => specialValue 15 md x

end Sys2Proof.Machine
end

