-- ==== Sys2Proof/Machine/Formats.lean ====
section
/-! DEFINITION. Number formats and conversions (R121 to R141): narrow floats, conversions to and from f32, format slots,
and the conversion and plane instructions (majors 0x40 to 0x45). -/

namespace Sys2Proof.Machine

/-- A narrow float layout (R123). -/
structure Narrow where
  eb : Nat
  mb : Nat
  bias : Nat
deriving DecidableEq, Repr

/-- The narrow format of a code 4 to 7 (R121, R123). -/
def narrowOf (code : Nat) : Narrow :=
  match code with
  | 4 => { eb := 4, mb := 3, bias := 8 }
  | 5 => { eb := 5, mb := 2, bias := 16 }
  | 6 => { eb := 3, mb := 2, bias := 4 }
  | _ => { eb := 2, mb := 1, bias := 2 }

/-- The exponent of the smallest subnormal. -/
def Narrow.qmin (f : Narrow) : Int := 1 - (f.bias : Int) - f.mb
/-- The NaN code: sign 1 and nothing else (R123). -/
def Narrow.nan (f : Narrow) : Nat := 2 ^ (f.eb + f.mb)
/-- The code of the largest magnitude. -/
def Narrow.maxCode (f : Narrow) : Nat := 2 ^ (f.eb + f.mb) - 1

/-- The value of a narrow code (R123). -/
def Narrow.val (f : Narrow) (w : Nat) : FVal :=
  let w := w % 2 ^ (f.eb + f.mb + 1)
  if w = f.nan then .nan false
  else
    let neg := w.testBit (f.eb + f.mb)
    let ex := w / 2 ^ f.mb % 2 ^ f.eb
    let fr := w % 2 ^ f.mb
    if ex = 0 then .fin neg fr f.qmin else .fin neg (fr + 2 ^ f.mb) ((ex : Int) - f.bias - f.mb)

/-- A finite value to a narrow code (R130): saturates under every mode, a zero of either sign gives code 0. -/
def Narrow.encode (f : Narrow) (rm : Nat) (neg : Bool) (num den : Nat) (e : Int) : Nat × BitVec 8 :=
  if num = 0 then (0, 0)
  else
    let lead := leadExp num den e
    let q := if lead - f.mb < f.qmin then f.qmin else lead - f.mb
    let r := roundAt rm neg num den e q
    let m := if r.1 = 2 ^ (f.mb + 1) then 2 ^ f.mb else r.1
    let q := if r.1 = 2 ^ (f.mb + 1) then q + 1 else q
    let ex : Int := if m < 2 ^ f.mb then 0 else q + f.bias + f.mb
    let sign := neg.toNat * 2 ^ (f.eb + f.mb)
    if ex > 2 ^ f.eb - 1 then (sign + f.maxCode, flOF ||| flNX)
    else if m = 0 then (0, flNX ||| flUF)
    else
      (sign + (if m < 2 ^ f.mb then m else ex.toNat * 2 ^ f.mb + (m - 2 ^ f.mb)),
        flagIf r.2 flNX ||| flagIf (r.2 && decide (m < 2 ^ f.mb)) flUF)

/-- The range of an integer code (R121), and its bit width. -/
def intRange (code : Nat) : Int × Int × Nat :=
  match code with
  | 8 | 9 => (-128, 127, 8)
  | 10 => (0, 255, 8)
  | 11 => (-32768, 32767, 16)
  | 12 => (0, 65535, 16)
  | 13 => (-2147483648, 2147483647, 32)
  | _ => (0, 4294967295, 32)

/-- A finite value to an integer format (R132). -/
def intEncode (code rm : Nat) (neg : Bool) (num den : Nat) (e : Int) : Nat × BitVec 8 :=
  let r := roundAt rm neg num den e 0
  let v : Int := if neg then -(r.1 : Int) else r.1
  let (lo, hi, w) := intRange code
  let c := if v < lo then lo else if v > hi then hi else v
  ((c % 2 ^ w).toNat, flagIf (c ≠ v) flSAT ||| flagIf r.2 flNX)

/-- Whether a code is an integer format. -/
def isIntCode (code : Nat) : Bool := decide (8 ≤ code)
/-- The IEEE-style layout of a code 1 to 3. -/
def ieeeOf (code : Nat) : Ieee := match code with | 1 => .f32 | 2 => .f16 | _ => .bf16

/-- A finite value converted to the format of a code (R130 to R132, R136); FTZ only acts on f32. -/
def encodeFinite (md : FpMode) (code rm : Nat) (neg : Bool) (num den : Nat) (e : Int) : Nat × BitVec 8 :=
  if isIntCode code then intEncode code rm neg num den e
  else if 4 ≤ code then (narrowOf code).encode rm neg num den e
  else (ieeeOf code).round { rm := rm, ftz := md.ftz && code = 1, daz := false } neg num den e

/-- A NaN or infinity converted to the format of a code (R130 to R132). -/
def encodeSpecial (code : Nat) (v : FVal) : Nat × BitVec 8 :=
  match v with
  | .nan sg =>
    if isIntCode code then (0, flNV)
    else ((if 4 ≤ code then (narrowOf code).nan else (ieeeOf code).qnan), flagIf sg flNV)
  | .inf neg =>
    if isIntCode code then
      let (lo, hi, w) := intRange code
      (((if neg then lo else hi) % 2 ^ w).toNat, flNV)
    else if 4 ≤ code then
      (neg.toNat * 2 ^ ((narrowOf code).eb + (narrowOf code).mb) + (narrowOf code).maxCode, flOF)
    else ((ieeeOf code).infinity neg, 0)
  | .fin .. => (0, 0)

/-- Conversion from f32 with no scale (R130 to R132, R135). -/
def cvtEncode (md : FpMode) (code rm : Nat) (x : Word32) : Word32 × BitVec 8 :=
  let r := match f32Val md x with
    | .fin neg m e => encodeFinite md code rm neg m 1 e
    | v => encodeSpecial code v
  (BitVec.ofNat 32 r.1, r.2)

/-- Lane field PART of a word, as its format's width gives it (R121). -/
def laneField (code part : Nat) (x : Word32) : Nat :=
  match code with
  | 1 | 13 | 14 => x.toNat
  | 2 | 3 | 11 | 12 => x.toNat / 2 ^ (16 * part) % 2 ^ 16
  | _ => x.toNat / 2 ^ (8 * part) % 2 ^ 8

/-- The value of a field of a format (R121 to R123); an integer code gives an integer. -/
def fieldVal (code w : Nat) : FVal :=
  if isIntCode code then
    let (lo, _, bits) := intRange code
    let v : Int := if lo < 0 ∧ w.testBit (bits - 1) then (w : Int) - 2 ^ bits else w
    .fin (decide (v < 0)) v.natAbs 0
  else if 4 ≤ code then (narrowOf code).val w
  else (ieeeOf code).val w

/-- Conversion to f32 with no scale (R133). -/
def toF32 (md : FpMode) (v : FVal) : Word32 × BitVec 8 :=
  match v with
  | .nan sg => (canonNan, flagIf sg flNV)
  | .inf neg => (f32Inf neg, 0)
  | .fin neg m e => f32Round md neg m 1 e

/-! ### Format slots (R126, R127) -/

/-- A format slot's four words. -/
def gridSlot (g : Option Grid) (n : Nat) : List Word32 :=
  match g with | some g => g.fslots.getD n [] | none => []
def slotFctl (f : List Word32) : Word32 := f.getD 0 0
def slotCode (f : List Word32) : Nat := ((slotFctl f).extractLsb' 0 4).toNat
def slotSmode (f : List Word32) : Nat := ((slotFctl f).extractLsb' 12 2).toNat
/-- p of R129: PLANES for code 8, else 8. -/
def slotPlanes (f : List Word32) : Nat := if slotCode f = 8 then ((slotFctl f).extractLsb' 8 4).toNat else 8
def slotScale (f : List Word32) : Word32 := f.getD 2 0
/-- ZERO as an integer: i32, or n32 for code 14 (R126). -/
def slotZero (f : List Word32) : Int := if slotCode f = 14 then ((f.getD 1 0).toNat : Int) else (f.getD 1 0).toInt

/-- Whether cvts accepts a slot: not empty, per tensor (R136). -/
def cvtsSlotOk (f : List Word32) : Bool := slotCode f ≠ 0 && slotSmode f = 0

/-- cvts decode of one word (R136): S × 2^(8−p) × (s − Z) with one rounding; an exact zero of an integer code has the sign of S (log
entry 75). -/
def cvtsDecode (md : FpMode) (f : List Word32) (part : Nat) (x : Word32) : Word32 × BitVec 8 :=
  let code := slotCode f
  let p := slotPlanes f
  match fieldVal code (laneField code part x), Ieee.f32.val (slotScale f).toNat with
  | .fin neg m e, .fin sn sm se =>
    if isIntCode code then
      let v : Int := (if neg then -(m : Int) else m) - slotZero f / 2 ^ (8 - p)
      f32Round md (decide (v < 0) != sn) (v.natAbs * sm) 1 (se + (8 - p))
    else f32Round md (neg != sn) (m * sm) 1 (e + se)
  | v, _ => toF32 md v

/-- cvts encode of one word (R136): x ÷ S + ZERO, exact, then converted; a zero keeps the sign of x (log entry 75). -/
def cvtsEncode (md : FpMode) (f : List Word32) (rm : Nat) (x : Word32) : Word32 × BitVec 8 :=
  let code := slotCode f
  let r := match f32Val md x, Ieee.f32.val (slotScale f).toNat with
    | .fin neg m e, .fin _ sm se =>
      let ex := e - se
      let z : Int := if isIntCode code then slotZero f else 0
      let xs : Int := (if neg then -1 else 1) * ((if ex ≥ 0 then m * 2 ^ ex.toNat else m : Nat) : Int)
      let zs : Int := z * (sm : Int) * (if ex ≥ 0 then 1 else 2 ^ (-ex).toNat)
      let t := xs + zs
      encodeFinite md code rm (if t = 0 then neg else decide (t < 0)) t.natAbs sm (if ex ≥ 0 then 0 else ex)
    | v, _ => encodeSpecial code v
  (BitVec.ofNat 32 r.1, r.2)

/-- The format slot a word of a workgroup names (R126). -/
def wgSlot (s : State) (w : Wg) (n : Nat) : List Word32 := gridSlot (s.grid? w.grid) n

/-- cvt, encode (R135). -/
def execCvtEnc (g : BitVec 3) (w : Bool) (d : BitVec 6) (a : BitVec 7) (r : BitVec 2) (k : BitVec 4) (s : State) :=
  vecOp1 s g w d a 4 fun md x => cvtEncode md k.toNat r.toNat x
/-- cvt, decode (R135). -/
def execCvtDec (g : BitVec 3) (w : Bool) (d : BitVec 6) (a : BitVec 7) (p : BitVec 2) (k : BitVec 4) (s : State) :=
  vecOp1 s g w d a 4 fun md x => toF32 md (fieldVal k.toNat (laneField k.toNat p.toNat x))

/-- A cvts word through its slot; a slot or PART the word does not accept takes ILLOP at issue, whatever the guard
(R136). -/
def cvtsOp (s : State) (g : BitVec 3) (w : Bool) (d : BitVec 6) (a : BitVec 7) (n : Nat) (ok : List Word32 → Bool)
    (f : List Word32 → FpMode → Word32 → Word32 × BitVec 8) : Host.Outcome State Fault Refusal :=
  match s.cur with
  | some is =>
    match s.reading with
    | some wg =>
      let sl := wgSlot s wg n
      if cvtsSlotOk sl && ok sl then vecOp1 s g w d a 4 (f sl)
      else .next (s.trapHere is wg.id is.threads .illop)
    | none => .fault .noIssue
  | none => .fault .noIssue

/-- cvts, encode (R136). -/
def execCvtsEnc (g : BitVec 3) (w : Bool) (d : BitVec 6) (a : BitVec 7) (r : BitVec 2) (sc : BitVec 3) (s : State) :=
  cvtsOp s g w d a sc.toNat (fun _ => true) fun sl md x => cvtsEncode md sl r.toNat x
/-- cvts, decode (R136). -/
def execCvtsDec (g : BitVec 3) (w : Bool) (d : BitVec 6) (a : BitVec 7) (p : BitVec 2) (sc : BitVec 3) (s : State) :=
  cvtsOp s g w d a sc.toNat (fun sl => partOk (slotCode sl) p.toNat) fun sl md x => cvtsDecode md sl p.toNat x

/-- A V-pipe word that reads a group of v registers of its lane (R137, R138). -/
def vecRegs (s : State) (g : BitVec 3) (w : Bool) (d : BitVec 6) (latency : Nat) (f : (Nat → Word32) → Word32) :
    Host.Outcome State Fault Refusal :=
  withGroup s fun is wg =>
    let res := (active is wg g).map fun t => (t, f fun r => laneD wg t r)
    s.finish is wg
      { v := if w then [] else res.map fun r => (r.1, d.toNat, r.2)
        shift := res } latency

/-- plpack: bit i is bit 7 − k of byte i of eight registers (R137). -/
def execPlpack (g : BitVec 3) (w : Bool) (d : BitVec 6) (a : BitVec 7) (k : BitVec 3) (s : State) :=
  vecRegs s g w d 2 fun r =>
    (List.range 32).foldl (fun acc i => setBit acc i ((r (a.toNat + i / 4)).getLsbD (8 * (i % 4) + 7 - k.toNat))) 0#32

/-- plunpack: byte m is v_p of element 4j + m, from planes 0 to p − 1, p being the field plus one (R138). -/
def execPlunpack (g : BitVec 3) (w : Bool) (d : BitVec 6) (a : BitVec 7) (p j : BitVec 3) (s : State) :=
  vecRegs s g w d 2 fun r =>
    let np := p.toNat + 1
    (List.range 4).foldl (fun acc m =>
      (List.range 8).foldl (fun acc b =>
        let plane := if b ≥ np then 0 else np - 1 - b
        setBit acc (8 * m + b) ((r (a.toNat + plane)).getLsbD (4 * j.toNat + m))) acc) 0#32

/-- One byte of plane under a mode, at p planes: 0 shr, 1 trunc, 2 rnd (R139), with SAT. -/
def planeByte (mode p : Nat) (x : BitVec 8) : BitVec 8 × Bool :=
  let h : Int := 2 ^ (8 - p)
  let v := x.toInt
  match mode with
  | 0 => (BitVec.ofInt 8 (v / h), false)
  | 1 => (BitVec.ofInt 8 (v / h * h), false)
  | _ =>
    let q := v / h
    let rem := v % h
    let up := decide (2 * rem > h) || (decide (2 * rem = h) && q % 2 ≠ 0)
    let r := (if up then q + 1 else q) * h
    if r > 128 - h then (BitVec.ofInt 8 (128 - h), true) else (BitVec.ofInt 8 r, false)

/-- plane (R139); p is the field plus one. -/
def execPlane (g : BitVec 3) (w : Bool) (d : BitVec 6) (a : BitVec 7) (m : BitVec 2) (p : BitVec 3) (s : State) :=
  vecOp1 s g w d a 2 fun _ x =>
    let b := fun n => planeByte m.toNat (p.toNat + 1) (x.extractLsb' (8 * n) 8)
    ((b 3).1 ++ (b 2).1 ++ (b 1).1 ++ (b 0).1, flagIf ((b 0).2 || (b 1).2 || (b 2).2 || (b 3).2) flSAT)

/-- fmtq: one word of a format slot in every active lane (R140). -/
def execFmtq (g : BitVec 3) (w : Bool) (d : BitVec 6) (f : BitVec 2) (sc : BitVec 3) (s : State) :=
  withGroup s fun is wg =>
    let x := (wgSlot s wg sc.toNat).getD f.toNat 0
    let res := (active is wg g).map fun t => (t, x)
    s.finish is wg
      { v := if w then [] else res.map fun r => (r.1, d.toNat, r.2)
        shift := res } 1

end Sys2Proof.Machine
end

