-- ==== Sys2Proof/Machine/Home.lean ====
section
/-! DEFINITION. Home memory and what stands in it: object images (R210, R248), writes at a home slice with the watches
they wake (R355), the two-stage walk (R197, R198), TLBs, and physical accesses of engines (R180). -/

namespace Sys2Proof.Machine

/-! ### Object images -/

/-- OCTL of a sync object (R210). -/
def SyncObj.octl (o : SyncObj) : Word32 :=
  BitVec.ofNat 32 (1 + o.tile.toNat * 2 + o.full.toNat * 4 + o.regions.length * 8)

/-- A word of a sync object's image, by its number 0 to 7 (R210). -/
def SyncObj.imageWord (o : SyncObj) (n : Nat) : Word32 :=
  match n with
  | 0 => o.octl
  | 1 => BitVec.ofNat 32 o.pubs.length
  | 2 => BitVec.ofNat 32 o.ver
  | 3 => BitVec.ofNat 32 (o.ver / 2 ^ 32)
  | 4 => BitVec.ofNat 32 o.cver
  | 5 => BitVec.ofNat 32 (o.cver / 2 ^ 32)
  | 6 => BitVec.ofNat 32 o.lastrel
  | _ => 0

/-- A word of an active ordered accumulator's image (R248). -/
def OrdAcc.imageWord (o : OrdAcc) (n : Nat) : Word32 :=
  match n with
  | 0 => BitVec.ofNat 32 ((!o.done).toNat + o.f32.toNat * 2 + o.done.toNat * 4 + o.err.toNat * 8 + o.nv.toNat * 16
      + o.ovf.toNat * 32)
  | 1 => BitVec.ofNat 32 o.n
  | 2 => BitVec.ofNat 32 o.held.length
  | 4 => BitVec.ofNat 32 o.result
  | 5 => BitVec.ofNat 32 (o.result / 2 ^ 32)
  | _ => 0

/-- Whether an address lies in the 32 bytes of a sync object (R210). -/
def State.inObj (s : State) (pa : Nat) : Bool := s.objs.any fun o => o.pa / 32 = pa / 32
/-- Whether an address lies in the 32 bytes of an active ordered accumulator (R248). -/
def State.inAcc (s : State) (pa : Nat) : Bool := s.ordAccs.any fun o => o.pa / 32 = pa / 32 && !o.done

/-- A word as its home slice holds it (R210, R233, R248). -/
def State.homeWord (s : State) (pa : Nat) : Word32 :=
  match s.objs.find? fun o => o.pa / 32 = pa / 32 with
  | some o => o.imageWord (pa % 32 / 4)
  | none =>
    match s.ordAccs.find? fun o => o.pa / 32 = pa / 32 && !o.done with
    | some o => o.imageWord (pa % 32 / 4)
    | none => s.mem.word pa

/-- A 64-bit value as its home slice holds it. -/
def State.homeDbl (s : State) (pa : Nat) : Dbl := s.homeWord (pa + 4) ++ s.homeWord pa

/-- The harts blocked in a WAIT on a line are woken by a write that reaches it (R355): 500 clk is 0.4 µs. -/
def State.wakeWatch (s : State) (pa : Nat) : State :=
  s.harts.foldl (fun s h =>
    match h.blocked, h.qcb with
    | some n, some q =>
      match s.packets.find? fun p => p.qcb = q && p.num = n with
      | some p => if p.watch = some (pa / 128) then s.post 500 (.watchWake h.num) else s
      | none => s
    | _, _ => s) s

/-- A word written in place at its home slice (R233); an uncorrectable error that it held is gone (log entry 60). -/
def State.setHome (s : State) (pa : Nat) (w : Word32) : State :=
  State.wakeWatch { s with mem := s.mem.setWord pa w, badWords := s.badWords.filter fun n => n ≠ pa / 4 } pa

/-- A 64-bit value written in place. -/
def State.setHomeDbl (s : State) (pa : Nat) (d : Dbl) : State :=
  State.wakeWatch { s with mem := s.mem.setDbl pa d, badWords := s.badWords.filter fun n => n ≠ pa / 4 ∧ n ≠ pa / 4 + 1 } pa

/-- Whether a line holds a word with an uncorrectable error that has been found (R371). -/
def State.lineBad (s : State) (pa : Nat) : Bool := s.badWords.any fun n => n / 32 = pa / 128

/-! ### Interrupts (R389) -/

/-- A vector's message is sent, or its pending bit set while it is masked; a function being reset drops it (R392). -/
def State.vector (s : State) (f vec : Nat) : State :=
  if (s.func f).resetting then s
  else if (s.func f).masked.getLsbD vec then s.modFunc f fun x => { x with pendingBits := setBit x.pendingBits vec true }
  else s.send (.msix f vec)

/-- Bits that hardware sets in a clk, beside those it set before in the same clk. -/
def setNow (clk : Nat) (x : Nat × Word32) (bits : Word32) : Nat × Word32 := (clk, (if x.1 = clk then x.2 else 0) ||| bits)

/-- A W1C register after a software write: bits that hardware has set in the same clk stay set (R5). -/
def clearW1c (clk : Nat) (x : Nat × Word32) (old mask : Word32) : Word32 := old &&& ~~~(mask &&& ~~~(if x.1 = clk then x.2 else 0))

/-- A device event of a function: its INTCAUSE bit set and the vector of the same number raised. -/
def State.event (s : State) (f bit : Nat) : State :=
  if (s.func f).resetting then s else
  (s.modFunc f fun x => { x with intcause := setBit x.intcause bit true, causeSet := setNow s.clk x.causeSet (BitVec.ofNat 32 (2 ^ bit)) }).vector f bit

/-! ### Translation -/

/-- Whether a descriptor is valid at a level (R197). -/
def descValid (d level : Nat) : Bool :=
  natBit d 0 && natBits d 11 6 = 0 && natBits d 58 48 = 0 && !natBit d 63
    && !(level = 0 && !natBit d 1) && !(level = 3 && natBit d 1)

/-- The leaf a descriptor gives at a level (R197). -/
def leafOf (d level : Nat) : Leaf :=
  let size := if level = 1 then 2 ^ 30 else if level = 2 then 2 ^ 21 else if natBit d 5 then 2 ^ 16 else 2 ^ 12
  { base := natBits d 47 12 * 4096 / size * size, size := size, r := natBit d 2, w := natBit d 3, x := natBit d 4 }

/-- Whether a leaf allows an access: 0 read, 1 write, 2 fetch (R199). -/
def Leaf.allows (l : Leaf) (perm : Nat) : Bool := match perm with | 0 => l.r | 1 => l.w | _ => l.x

/-- The byte offset of a descriptor in its table at a level (R197). -/
def descIndex (va level : Nat) : Nat := natBits va (47 - 9 * level) (39 - 9 * level) * 8

/-- One stage of a walk from a level: find gives the descriptor at a table address and index, unless it fails, with the reads it
makes and those among them that are of no use; both are gathered. -/
def walkFrom (find : Nat → Option Nat × List DescRead × List DescRead) (va : Nat) :
    Nat → Nat → Nat → List DescRead → List DescRead → Option Leaf × List DescRead × List DescRead
  | 0, _, _, reads, bad => (none, reads, bad)
  | fuel + 1, level, table, reads, bad =>
    let r := find (table + descIndex va level)
    let reads := reads ++ r.2.1
    let bad := bad ++ r.2.2
    match r.1 with
    | none => (none, reads, bad)
    | some d =>
      if !descValid d level then (none, reads, bad ++ reads.drop (reads.length - 1))
      else if natBit d 1 then walkFrom find va fuel (level + 1) (natBits d 47 12 * 4096) reads bad
      else (some (leafOf d level), reads, bad)

/-- Stage 2 of an intermediate address (R197): table addresses are physical. The descriptors are read for a permission. -/
def stage2 (read : Nat → Nat → Nat) (root ipa perm : Nat) : Option Leaf × List DescRead × List DescRead :=
  walkFrom (fun a => (some (read perm a), [⟨a, perm, 2⟩], [])) ipa 4 0 root [] []

/-- Stage 2 of an intermediate address for an access: no leaf when it lacks the permission, and then its descriptor is of no
use (R199). -/
def stage2For (read : Nat → Nat → Nat) (root ipa perm : Nat) : Option Leaf × List DescRead × List DescRead :=
  match stage2 read root ipa perm with
  | (some l, reads, bad) =>
    if l.allows perm then (some l, reads, bad) else (none, reads, bad ++ reads.drop (reads.length - 1))
  | x => x

/-- The outcome of a two-stage walk: the translation, or the stage and page that need service (R199). -/
inductive WalkRes where
  | ok (l : Leaf)
  | service (stage page : Nat)
deriving DecidableEq, Repr

/-- A failing stage-2 page met by a stage-1 table read, if there is one. -/
def tableFault (read : Nat → Nat → Nat) (c : Ctx) (va perm : Nat) : Nat → Nat → Nat → Option Nat
  | 0, _, _ => none
  | fuel + 1, level, table =>
    let ipa := table + descIndex va level
    match (stage2For read c.s2 ipa 0).1 with
    | some l =>
      let d := read perm (l.base + ipa % l.size)
      if descValid d level && natBit d 1 then tableFault read c va perm fuel (level + 1) (natBits d 47 12 * 4096) else none
    | none => some (ipa / 4096)

/-- The two-stage walk of a virtual address (R197, R199), with the descriptors read and those among them that were of no use. -/
def walk2 (read : Nat → Nat → Nat) (c : Ctx) (va perm : Nat) : WalkRes × List DescRead × List DescRead :=
  let find := fun (ipa : Nat) =>
    match stage2For read c.s2 ipa 0 with
    | (some l, reads, bad) => (let pa := l.base + ipa % l.size; (some (read perm pa), reads ++ [⟨pa, perm, 1⟩], bad))
    | (none, reads, bad) => (none, reads, bad)
  let va := va % 2 ^ 48
  match walkFrom find va 4 0 c.s1 [] [] with
  | (none, reads, bad) =>
    match tableFault read c va perm 4 0 c.s1 with
    | some p => (.service 2 p, reads, bad)
    | none => (.service 1 (va / 4096), reads, bad)
  | (some l1, reads, bad) =>
    if !l1.allows perm then (.service 1 (va / 4096), reads, bad ++ reads.drop (reads.length - 1))
    else
      let ipa := l1.base + va % l1.size
      match stage2For read c.s2 ipa perm with
      | (some l2, r2, b2) =>
        let size := min l1.size l2.size
        (.ok { base := (l2.base + ipa % l2.size) / size * size, size := size, r := l1.r && l2.r, w := l1.w && l2.w,
               x := l1.x && l2.x }, reads ++ r2, bad ++ b2)
      | (none, r2, b2) => (.service 2 (ipa / 4096), reads ++ r2, bad ++ b2)

/-- The descriptor that a sector's walk cache holds for an access of a context: a leaf that lacks the permission is read from
memory again (R198). -/
def State.walkCached (s : State) (sector : Nat) (c : Ctx) (perm pa : Nat) : Option WalkEntry :=
  s.walkCache.find? fun e => e.sector = sector && e.ctx = c && e.pa = pa
    && (natBit e.value 1 || natBit e.value (2 + perm))

/-- A descriptor as the walker of a sector reads it: from its walk cache or from memory. A cached descriptor that memory no
longer holds may be used or not (R198). -/
def State.readDesc (s : State) (sector : Nat) (c : Ctx) (perm pa : Nat) : Nat :=
  let m := (s.homeDbl pa).toNat
  match s.walkCached sector c perm pa with
  | some e => if e.value = m || Config.freeChoice s.free then e.value else m
  | none => m

/-- The walk of an address for a unit that walks at once (R198). -/
def State.walkFor (s : State) (core : Nat) (c : Ctx) (va perm : Nat) : WalkRes × List DescRead × List DescRead :=
  walk2 (s.readDesc (coreSector core) c) c va perm

/-- A walk's outcome as far as it has read: a descriptor that it has not read stands as invalid (R197, R401). -/
def Walk.look (w : Walk) : WalkRes × List DescRead × List DescRead :=
  walk2 (fun perm pa => match w.got.find? fun x => x.1.pa = pa && x.1.perm = perm with | some x => x.2.1 | none => 0) w.ctx w.va w.perm

/-- The first descriptor that a walk still has to read; none when its outcome stands. -/
def Walk.lacks (w : Walk) : Option DescRead := w.look.2.1.find? fun r => !(w.got.any fun x => x.1 = r)

/-- The descriptors that its sector's walk cache holds, up to the first it does not (R198); a walk reads at most 24 (R197). -/
def State.consult (s : State) : Nat → Walk → Walk
  | 0, w => w
  | n + 1, w =>
    match w.lacks with
    | none => w
    | some r =>
      match s.walkCached (coreSector w.core) w.ctx r.perm r.pa with
      | none => w
      | some e =>
        let m := (s.homeDbl r.pa).toNat
        let v := if e.value = m || Config.freeChoice (s.free + n) then e.value else m
        s.consult n { w with got := w.got ++ [(r, v, true)] }

/-- A walk cache with the descriptors of a walk kept that were valid and allowed the access, at most 512 a sector (R198,
R410). -/
def State.cacheWalk (s : State) (w : Walk) : State :=
  let sector := coreSector w.core
  let new := (w.got.filter fun x => !x.2.2 && !(x.1 ∈ w.look.2.2)).map fun x =>
    { sector := sector, ctx := w.ctx, pa := x.1.pa, value := x.2.1, stage := x.1.stage : WalkEntry }
  let old := s.walkCache.filter fun e => !(new.any fun x => x.sector = e.sector && x.ctx = e.ctx && x.pa = e.pa)
  let mine := ((old.filter fun e => e.sector = sector) ++ new).reverse.take 512
  { s with walkCache := (old.filter fun e => e.sector ≠ sector) ++ mine.reverse }

/-- The descriptors that a walk of any page of a range reads for any access, as a sector's walk cache holds them and as memory does
(R365). -/
def State.rangeReads (s : State) (sector : Nat) (c : Ctx) (va bytes : Nat) : List DescRead :=
  (List.range (bytes / 4096)).flatMap fun i => [0, 1, 2].flatMap fun perm =>
    (walk2 (s.readDesc sector c) c (va + 4096 * i) perm).2.1
      ++ (walk2 (fun _ a => (s.homeDbl a).toNat) c (va + 4096 * i) perm).2.1

/-- A context's entries of a range and stage leave the TLBs of some cores and the walk caches of some sectors; 0 bytes mean every
address, and stage is 1, 2, or 3 for both (R365). -/
def State.invalidate (s : State) (cores sectors : List Nat) (c : Ctx) (va bytes stage : Nat) : State :=
  let v := va % 2 ^ 48
  let hit := fun (e : TlbEntry) => e.ctx = c && (bytes = 0 || (decide (e.va < v + bytes) && decide (v < e.va + e.size)))
  let gone := fun (e : WalkEntry) => decide (e.sector ∈ sectors) && decide (e.ctx = c) && (stage = 3 || decide (e.stage = stage))
    && (bytes = 0 || (s.rangeReads e.sector c va bytes).any fun r => r.pa = e.pa)
  { s with cores := s.cores.map fun (x : Nat × Core) => (x.1, if x.1 ∈ cores then { x.2 with tlb := x.2.tlb.filter fun e => !hit e } else x.2)
           walkCache := s.walkCache.filter fun e => !gone e }

/-- The page a core's TLB holds for an access, if it allows it (R198). -/
def tlbLeaf (tlb : List TlbEntry) (c : Ctx) (va perm : Nat) : Option Leaf :=
  (tlb.find? fun e => e.ctx = c && e.va ≤ va % 2 ^ 48 && va % 2 ^ 48 < e.va + e.size
      && (match perm with | 0 => e.r | 1 => e.w | _ => e.x)).map fun e =>
    { base := e.pa, size := e.size, r := e.r, w := e.w, x := e.x }

/-- An address in a leaf's page. -/
def Leaf.addr (l : Leaf) (va : Nat) : Nat := l.base + va % 2 ^ 48 % l.size

/-- The translation a core's TLB holds for an access (R198). -/
def tlbFind (tlb : List TlbEntry) (c : Ctx) (va perm : Nat) : Option Nat := (tlbLeaf tlb c va perm).map fun l => l.addr va

/-- A TLB with a translation entered, at most 128 entries (R198). -/
def tlbFill (tlb : List TlbEntry) (c : Ctx) (va : Nat) (l : Leaf) : List TlbEntry :=
  let v := va % 2 ^ 48 / l.size * l.size
  let e : TlbEntry := { ctx := c, va := v, pa := l.base, size := l.size, r := l.r, w := l.w, x := l.x }
  (e :: tlb.filter fun x => !(x.ctx = c && x.va = v && x.size = l.size)).take 128

/-- Whether memory is granted to a function (R378): the sectors of its partitions, and host memory. -/
def State.granted (s : State) (func pa : Nat) : Bool :=
  isHost pa || (isHbm pa && s.parts.any fun p => p.func = func && paSector pa ∈ p.sectors)

/-- Whether the command complex may use memory for a function's queue (R14, R378): what is granted to it, and a sector that nobody owns of
those that the function may name. -/
def State.hubMay (s : State) (func pa : Nat) : Bool :=
  s.granted func pa || (isHbm pa && !(s.parts.any fun p => paSector pa ∈ p.sectors)
    && (func = 0 || natBit (kget 0 s.boot.grants func) (paSector pa)))

/-- The page of an address for a unit that walks at once and waits for no page: from the TLB, else by a walk, or the stage that
needs service and its page; stage 0 stands for a page of host memory, whose translation the host must give first (R386), and stage 3 for
one outside the memory that it may use (R378). -/
def State.pageWith (s : State) (may : Nat → Bool) (core : Nat) (c : Ctx) (va perm : Nat) : Leaf ⊕ (Nat × Nat) :=
  match tlbLeaf (s.core core).tlb c va perm with
  | some l => .inl l
  | none =>
    match (s.walkFor core c va perm).1 with
    | .ok l =>
      if isHost l.base then .inr (0, va % 2 ^ 48 / 4096)
      else if may (l.addr va) then .inl l else .inr (3, va % 2 ^ 48 / 4096)
    | .service st page => .inr (st, page)
def State.pageOf (s : State) (core : Nat) (c : Ctx) (va perm : Nat) : Leaf ⊕ (Nat × Nat) :=
  s.pageWith (s.granted c.func) core c va perm

/-- The translation of an address for such a unit, and for the command complex. -/
def State.translate (s : State) (core : Nat) (c : Ctx) (va perm : Nat) : Nat ⊕ (Nat × Nat) :=
  match s.pageOf core c va perm with
  | .inl l => .inl (l.addr va)
  | .inr e => .inr e
def State.hubAddr (s : State) (core : Nat) (c : Ctx) (va perm : Nat) : Nat ⊕ (Nat × Nat) :=
  match s.pageWith (s.hubMay c.func) core c va perm with
  | .inl l => .inl (l.addr va)
  | .inr e => .inr e

/-! ### Regions and seals (R193, R211, R413) -/

/-- Whether a physical address lies in a region's ranges. -/
def Region.has (r : Region) (pa : Nat) : Bool := r.ranges.any fun x => x.1 ≤ pa && pa < x.1 + x.2
/-- Whether two lists of physical ranges overlap. -/
def rangesMeet (a b : List (Nat × Nat)) : Bool :=
  a.any fun x => b.any fun y => x.1 < y.1 + y.2 && y.1 < x.1 + x.2
/-- The object a region of which holds an address (R211). -/
def State.regionObj (s : State) (pa : Nat) : Option SyncObj := s.objs.find? fun o => o.regions.any fun r => r.has pa
/-- Whether an address is sealed in the partition that owns its sector (R194). -/
def State.isSealed (s : State) (pa : Nat) : Bool := s.parts.any fun p => p.seals.any fun r => r.has pa

/-! ### Physical accesses of engines and of the command complex (R180) -/

/-- The core whose window block holds an address, and the offset in it (R180). -/
def windowOf (pa : Nat) : Option (Nat × Nat) :=
  if 0x10000000000 ≤ pa ∧ pa < 0x10030000000 then some ((pa - 0x10000000000) / 0x100000, pa % 0x100000) else none

/-- The bank element at a byte offset of the accumulators (R180, R275). -/
def bankWord (k : Core) (off : Nat) : Word32 :=
  match k.banks[off / 32768]? with | some b => kget 0 b.acc (off % 32768 / 4) | none => 0

/-- The thread and register at a byte offset of the register file of a core: the workgroups in slot order (R85, R275). -/
def State.regAt (s : State) (core off : Nat) : Option (Nat × Nat × Nat) :=
  ((sortBy (fun w => w.slot) (s.wgs.filter fun w => w.core = core)).foldl
    (fun (acc : Nat × Option (Nat × Nat × Nat)) w =>
      let size := 4 * w.nregs * w.threads.length
      match acc.2 with
      | some r => (acc.1, some r)
      | none =>
        if off < acc.1 + size then
          (acc.1, some (w.id, (off - acc.1) / 4 / w.nregs, (off - acc.1) / 4 % w.nregs))
        else (acc.1 + size, none)) (0, none)).2

/-- Where an engine reads or writes: memory, a core's scratchpad, operand memory, accumulators or register file by byte offset, a
workgroup's registers by word, or nothing. -/
inductive Place where
  | phys (pa : Nat)
  | scratch (core byte : Nat)
  | operand (core off : Nat)
  | bank (core off : Nat)
  | file (core off : Nat)
  | regs (wg word : Nat)
  | nowhere
deriving DecidableEq, Repr

/-- The place at an offset of a core's window block; a reserved offset is none (R180). -/
def blockPlace (core off : Nat) : Place :=
  if off < 0x40000 then .scratch core off
  else if off < 0x60000 then .operand core (off - 0x40000)
  else if off < 0x70000 then .bank core (off - 0x60000)
  else if 0x80000 ≤ off ∧ off < 0xC0000 then .file core (off - 0x80000)
  else .nowhere

/-- A place behind a physical address (R180). -/
def physPlace (pa : Nat) : Place :=
  if isHbm pa || isHost pa then .phys pa
  else match windowOf pa with
    | none => .nowhere
    | some (c, off) => blockPlace c off

/-- A word of a core's register file. One that no resident thread owns is a free value (log entry 78). -/
def State.fileWord (s : State) (core off : Nat) : Word32 :=
  match s.regAt core off with
  | some (w, t, r) => match s.wg? w with
    | some w => match w.thread? t with | some x => x.reg r | none => 0
    | none => 0
  | none => Config.freeWord (s.free + off / 4 % 32)

/-- Words read at a place; none when the read completes with ACCESS (R180, R271). -/
def State.placeRead (s : State) (p : Place) (n : Nat) : Option (List Word32) :=
  match p with
  | .phys pa => some ((List.range n).map fun k => s.homeWord (pa + 4 * k))
  | .scratch c b => some ((List.range n).map fun k => (s.core c).scratch.word (b + 4 * k))
  | .operand c off =>
    let st := ((s.core c).slot (off / 16384)).state
    if st == .free || st == .scrub then none else some ((List.range n).map fun k => (s.core c).opmem.word (off + 4 * k))
  | .bank c off => some ((List.range n).map fun k => bankWord (s.core c) (off + 4 * k))
  | .file c off => some ((List.range n).map fun k => s.fileWord c (off + 4 * k))
  | .regs w i =>
    match s.wg? w with
    | some x => some ((List.range n).map fun k =>
        match x.thread? ((i + k) / x.nregs) with | some t => t.reg ((i + k) % x.nregs) | none => 0)
    | none => none
  | .nowhere => none

/-- Whether an array has a queued or running operation on a bank (R275). -/
def Core.bankBusy (k : Core) (n : Nat) : Bool := k.queue.any fun o => o.kind.bankOf = some n

/-- A word written to a core's register file; one that no resident thread owns goes nowhere (log entry 78). -/
def State.setFileWord (s : State) (core off : Nat) (v : Word32) : State :=
  match s.regAt core off with
  | some (w, t, r) => s.modWg w fun x => x.modThread t fun y => y.setReg r v
  | none => s

/-- Words written at a place, with the STATUS that the write reports (R145, R271, R275). -/
def State.placeWrite (s : State) (p : Place) (l : List Word32) : State × Nat :=
  let nth := (List.range l.length).zip l
  match p with
  | .phys pa =>
    if s.isSealed pa then (s, 3)
    else if (s.objs.any fun o => o.pa / 128 = pa / 128) || s.ordAccs.any (fun o => o.pa / 128 = pa / 128 && !o.done) then (s, 4)
    else (nth.foldl (fun (s : State) x => s.setHome (pa + 4 * x.1) x.2) s, 0)
  | .scratch c b => (s.modCore c fun k => { k with scratch := k.scratch.setWords b l }, 0)
  | .operand c off =>
    if ((s.core c).slot (off / 16384)).state == .claimed then
      let s := s.modCore c fun k =>
        nth.foldl (fun (k : Core) x => k.markWord (off + 4 * x.1)) { k with opmem := k.opmem.setWords off l }
      (s.poke c, 0)
    else (s, 2)
  | .bank c off =>
    if (s.core c).bankBusy (off / 32768) then (s, 4)
    else
      (s.modCore c fun k => k.modBank (off / 32768) fun b =>
        { b with acc := (nth.foldl (fun (a : List (Nat × Word32)) x => kset a (off % 32768 / 4 + x.1) x.2) b.acc).filter
                   fun x => x.2 ≠ 0,
                 exRows := List.range 128, exCols := List.range 64 }, 0)
  | .file c off => (nth.foldl (fun (s : State) x => s.setFileWord c (off + 4 * x.1) x.2) s, 0)
  | .regs w i =>
    (s.modWg w fun x => nth.foldl (fun (x : Wg) y =>
      x.modThread ((i + y.1) / x.nregs) fun t => t.setReg ((i + y.1) % x.nregs) y.2) x, 0)
  | .nowhere => (s, 4)

end Sys2Proof.Machine
end

