-- ==== Sys2Proof/Machine/Freeze.lean ====
section
/-! DEFINITION. Queue states as the device writes them back (R359, R361), and violations, which freeze the smallest master that
caused them (R378, R379). -/

namespace Sys2Proof.Machine

/-! ### Queue control blocks -/

/-- The code of a queue state (R361). -/
def QState.code : QState → Nat
  | .idle => 0 | .pending => 1 | .mapped => 2 | .draining => 3 | .faulted => 4 | .frozen => 5 | .destroyed => 6

/-- The device's fields of a queue's guest half written back (R359). -/
def State.writeGuest (s : State) (q : Qcb) : State :=
  ((((s.setHome (q.pa + 0x0C) (BitVec.ofNat 32 q.st.code)).setHomeDbl (q.pa + 0x10) (BitVec.ofNat 64 q.rdptr)).setHomeDbl
    (q.pa + 0x18) (BitVec.ofNat 64 q.wrptr)).setHome (q.pa + 0x20) (BitVec.ofNat 32 q.laststat)).setHomeDbl (q.pa + 0x28)
    (BitVec.ofNat 64 q.faultpkt)

/-- The guest half of a cached queue written back. -/
def State.syncQueue (s : State) (pa : Nat) : State := match s.qcb? pa with | some q => s.writeGuest q | none => s

/-- A queue enters a state, and its guest half is written back (R359, R361). -/
def State.setQState (s : State) (pa : Nat) (st : QState) : State := (s.modQcb pa fun q => { q with st := st }).syncQueue pa

/-- The hart that serves a queue, freed. -/
def State.dropHart (s : State) (pa : Nat) : State := { s with harts := s.harts.filter fun h => h.qcb ≠ some pa }

/-! ### Violations -/

/-- The number of a crew on its core: crews of workgroups in lower slots come first. -/
def State.crewNumber (s : State) (w : Wg) (crew : Nat) : Nat :=
  (s.wgs.filter fun x => x.core = w.core && decide (x.slot < w.slot)).foldl (fun n x => n + x.crews.length) 0 + crew

/-- The engine channels of a partition (R267): those of its quads, and its sectors' share of their die's island. -/
def State.partChannels (s : State) (part : Nat) : List Nat :=
  match s.part? part with
  | none => []
  | some p =>
    ((dedup ((s.partCores part).map coreQuad)).flatMap fun q => (List.range 8).map fun i => 8 * q + i)
      ++ (p.sectors.flatMap fun k => ((List.range 16).map fun i => 1536 + k * 16 + i) ++ (List.range 8).map fun i => 1792 + k * 8 + i)

/-- A master is frozen (R379). A frozen function's queues enter FROZEN and give up their harts; its crews and starters are
frozen by the function's own mark, and its channels with it. -/
def State.freeze (s : State) (m : Master) : State :=
  match m with
  | .crew wg crew => s.modWg wg fun w => w.modCrew crew fun c => { c with frozen := true }
  | .starter q => s.modStarter q fun k => { k with frozen := true }
  | .channel n => if n ∈ s.frozenChans then s else { s with frozenChans := s.frozenChans ++ [n] }
  | .function f =>
    let s := s.modFunc f fun x => { x with frozen := true }
    let chans := (s.parts.filter fun p => p.func = f).flatMap fun p => s.partChannels p.num
    let s := { s with frozenChans := dedup (s.frozenChans ++ chans) }
    ((s.qcbs.filter fun q => q.qfunc = f).foldl (fun (s : State) q => (s.setQState q.pa .frozen).dropHart q.pa) s).post 0 .queueMap

/-- FRZLOG of a violation (R379). -/
def frzlogOf (kind func unit crew cause : Nat) : Dbl :=
  BitVec.ofNat 64 (kind + func % 64 * 2 ^ 2 + unit % 1024 * 2 ^ 8 + crew % 128 * 2 ^ 18 + cause * 2 ^ 28 + 2 ^ 63)

/-- A violation (R378, R379): its master is frozen; the oldest one not acknowledged stands in FRZLOG, a later one sets MORE;
the physical function is interrupted, and for another master than a function its owner too. -/
def State.violate (s : State) (cause func unit crew : Nat) (m : Master) : State :=
  let kind := match m with | .crew .. => 1 | .starter _ => 1 | .channel _ => 2 | .function _ => 3
  let s := s.freeze m
  let s := if s.frzlog.getLsbD 63 then { s with frzlog := setBit s.frzlog 62 true }
    else { s with frzlog := frzlogOf kind func unit crew cause, frzWho := some m }
  let s := s.event 0 3
  if kind ≠ 3 ∧ func ≠ 0 then s.event func 3 else s

/-- The masters of the askers of a walk whose result lies outside the memory granted to its function: the crews of the lanes
that a line serves, the starter of a quad, or the channel of an engine word. -/
def State.askerMasters (s : State) (a : Asker) (core : Nat) : List (Nat × Nat × Nat × Master) :=
  let ofOp := fun (op : Nat) (line : Option Nat) =>
    match s.op? op with
    | none => []
    | some o => match s.wg? o.wg with
      | none => [(1, core, 127, Master.starter (coreQuad core))]
      | some w =>
        let ts := (o.lanes.filter fun l => line.isNone || line = some (l.ea / 128)).map fun l => l.thread
        (w.crewsOf ts).map fun c => (1, w.core, s.crewNumber w c, Master.crew w.id c)
  match a with
  | .line op line => ofOp op (some line)
  | .range op _ => ofOp op none
  | .element word _ => match s.word? word with
    | some { chan := some c, .. } => [(2, c, 0, Master.channel c)]
    | _ => []
  | .packet _ => []

/-- Whether a translation lies outside the memory granted to its function (R180, R377, R378): another tenant's HBM or cores;
for a core's own request, every core window and register too; for an engine, the hub registers, which no thread reaches (R387; log
entry 84). An engine's access to a range with nothing in it is no violation: it completes with ACCESS (R180). -/
def State.outsideOf (s : State) (func pa : Nat) (engine : Bool) : Bool :=
  if isHost pa then false
  else if isHbm pa then !s.granted func pa
  else if !engine || (decide (0x20000000000 ≤ pa) && decide (pa < 0x20004000000)) then true
  else match windowOf pa with
    | some (core, _) => match s.corePart core with | some p => decide (p.func ≠ func) | none => true
    | none => false

/-- A translation outside the granted memory (R378): the masters freeze. A word that waits on a range issues again once it is
thawed, and an element is read again. A packet's read, which no master freezes for, fails (log entry 20). -/
def State.outside (s : State) (w : Walk) (a : Asker) : State :=
  let s := (s.askerMasters a w.core).foldl (fun (s : State) m => s.violate m.1 w.ctx.func m.2.1 m.2.2.1 m.2.2.2) s
  match a with
  | .range op _ => s.dropOp op
  | .element word lane => s.post 64 (.gatherElement word lane)
  | .line op line => match s.op? op with
    | some { kind := .prefetch _, .. } => s.modOp op fun o => { o with lines := o.lines.filter fun l => l.line ≠ line }
    | _ => s
  | .packet hart =>
    ({ s with harts := mapIf (fun h => h.num = hart) (fun h => { h with denied := true }) s.harts }).post 0 (.packetRead hart)

end Sys2Proof.Machine
end

