-- ==== Sys2Proof/Machine/Errors.lean ====
section
/-! DEFINITION. The reliability registers of a partition and the interrupts that errors raise (R371, R375). -/

namespace Sys2Proof.Machine

/-- ERRSTAT with bits set and SOURCE replaced (R375). -/
def errstatWith (old : Word32) (bits source : Nat) : Word32 :=
  (old &&& 0xFFFFFF0F) ||| BitVec.ofNat 32 (bits + source * 16)

/-- A 32-bit count that stops at its largest value. -/
def capUp (w : Word32) : Word32 := if w = 0xFFFFFFFF then w else w + 1

/-- A correctable error of a partition (R371): counted, and its event raised at most once per 1 ms, 1,250,000 clk. -/
def State.correctable (s : State) (part source : Nat) : State :=
  let r := s.relPart part
  let due := match r.ceSent with | some t => decide (s.clk ≥ t + 1250000) | none => true
  let s := s.modRel part fun r =>
    { r with errstat := errstatWith r.errstat 1 source, errSet := setNow s.clk r.errSet 1, cecount := capUp r.cecount,
             ceSent := if due then some s.clk else r.ceSent }
  match s.part? part with
  | some p => if due then s.event p.func 1 else s
  | none => s

/-- The error interrupt goes to the owning function and to the physical function, 0 (R23, R371). -/
def State.errorInterrupt (s : State) (part : Nat) : State :=
  match s.part? part with
  | some p => if p.func = 0 then s.event 0 0 else (s.event p.func 0).event 0 0
  | none => s.event 0 0

/-- An uncorrectable error of a partition is recorded and interrupts (R371); one that patrol scrub found sets PATROL. -/
def State.recordUncorrectable (s : State) (part source : Nat) (pa : Option Nat) (patrol : Bool) : State :=
  (s.modRel part fun r =>
    { r with errstat := errstatWith r.errstat (if patrol then 4 else 2) source, errSet := setNow s.clk r.errSet (if patrol then 4 else 2), uecount := capUp r.uecount,
             erraddr := match pa with | some a => BitVec.ofNat 64 a | none => r.erraddr }).errorInterrupt part

/-- A word of HBM whose uncorrectable error has been found: memory is left as it is, and a later read of the word is aborted again
(R371). -/
def State.markBad (s : State) (pa : Nat) : State :=
  if isHbm pa && !s.badWords.contains (pa / 4) then
    { s with badWords := s.badWords ++ [pa / 4] }.modSlice (paSlice pa) fun x => { x with lines := x.lines.filter fun l => l ≠ pa / 128 }
  else s

/-- An uncorrectable error of HBM that a source met is recorded for the partition of its sector (R371). -/
def State.recordBad (s : State) (pa source : Nat) (patrol : Bool) : State :=
  let s := s.markBad pa
  match s.sectorPart (paSector pa) with
  | some p => s.recordUncorrectable p.num source (some pa) patrol
  | none => s.event 0 0

/-- What a patrol read finds (R371, R373): an uncorrectable error is recorded for the sector's partition, memory left as it is; whether
any other read met an error that was corrected is open. -/
def State.patrolFound (s : State) (pa : Nat) (bad : Bool) : State :=
  if bad then s.recordBad pa 0 true
  else match s.sectorPart (paSector pa) with
    | some p => if Config.freeChoice s.free then s.takeFree.correctable p.num 0 else s.takeFree
    | none => s.takeFree

/-- The error interrupt with a SOURCE and no error counted (R376, R383). -/
def State.sourceInterrupt (s : State) (part source : Nat) : State :=
  (s.modRel part fun r => { r with errstat := errstatWith r.errstat 0 source }).errorInterrupt part

end Sys2Proof.Machine
end

