-- ==== Sys2Proof/Machine/Pipe.lean ====
section
/-! DEFINITION. The path of memory operations from a core: address checks, line requests, translation, the replay store
and its orders (R20, R185, R186, R198 to R202, R232, R401), and the faults an operation can end in. -/

namespace Sys2Proof.Machine

/-- Whether a line request is not yet complete. -/
def LineReq.isOpen (l : LineReq) : Bool := l.st != .done

/-- A line request of an operation. -/
def State.line? (s : State) (op line : Nat) : Option (MemOp × LineReq) :=
  match s.op? op with
  | none => none
  | some o => (o.lines.find? fun l => l.line = line).map fun l => (o, l)

/-- A line request changed. -/
def State.modLine (s : State) (op line : Nat) (f : LineReq → LineReq) : State :=
  s.modOp op fun o => { o with lines := mapIf (fun l => l.line = line) f o.lines }

/-- Whether a workgroup's partition runs in paired mode (R246, R384). -/
def State.isPaired (s : State) (wg : Nat) : Bool :=
  match s.wg? wg with | some w => (s.relPart w.part).paired | none => false

/-- C of a crew in paired mode (R246): its node, its baton and its number among the baton's crews, above every core index. -/
def State.pairedC (s : State) (w : Wg) (crew : Nat) : Nat :=
  let name := match s.baton? w.baton with | some b => b.name | none => []
  1024 + name.foldl (fun n x => n * 2 ^ 64 + x + 1) (w.node * 65536 + w.hcore * w.crews.length + crew)

/-- The keys of an update's line requests in paired mode, for each crew that they serve, and the crews' counts after it (R246). -/
def Wg.giveKeys (w : Wg) (c : Nat → Nat) (l : LineReq) : Wg × LineReq :=
  (w.crewsOf l.threads).foldl (fun (acc : Wg × LineReq) n =>
    let k := match acc.1.crew? n with | some x => x.seq | none => 0
    (acc.1.modCrew n fun x => { x with seq := x.seq + 1 }, { acc.2 with keys := acc.2.keys ++ [{ c := c n, s := k, crew := some n }] })) (w, l)

/-- An update that is about to send its requests has their keys (R246): in paired mode now, else as each of them leaves. -/
def State.takeKeys (s : State) (o : MemOp) : State :=
  match s.wg? o.wg with
  | some w =>
    if s.isPaired o.wg then
      let r := o.lines.foldl (fun (acc : Wg × List LineReq) l =>
        let x := acc.1.giveKeys (s.pairedC w) l
        (x.1, acc.2 ++ [x.2])) (w, [])
      (s.modWg o.wg fun _ => r.1).modOp o.id fun x => { x with lines := r.2 }
    else s
  | none => s

/-- The key (C, S) of a core's next update request, and the count after it (R246). -/
def State.nextKey (s : State) (core : Nat) : ReqKey := { c := core, s := (s.core core).seq, crew := none }
def State.takeSeq (s : State) (core : Nat) : State := s.modCore core fun k => { k with seq := (k.seq + 1) % 2 ^ 32 }

/-- The router a packet asks to forward it drops it (R18), unless routers have dropped it four times (R19, R381); the free choice
is taken. -/
def State.sendRouter (s : State) (delay op line : Nat) (reply : Bool) : State :=
  let tired := match s.line? op line with
    | some (_, l) => decide (4 ≤ l.bRouter)
    | none => false
  (s.post delay (.routerPacket op line reply (Config.routerBlocks s.free && !tired))).takeFree

/-- Whether an operation is a prefetch, which no order binds and which takes no replay entry (R196). -/
def OpKind.isPref : OpKind → Bool
  | .prefetch _ => true
  | _ => false

/-- Whether an operation is an engine's: its requests stand in its channel's own store (R267). -/
def OpKind.isEngine : OpKind → Bool
  | .fetch | .put => true
  | _ => false

/-- Whether an operation's requests read home memory as it stands: an engine's (R233), a walk's (R198), a compactor's (R219). -/
def OpKind.isRaw : OpKind → Bool
  | .fetch | .walkRead | .compact => true
  | _ => false

/-- Whether an operation's requests only bring words to the slice's cache, which takes them without its line from HBM: an engine's
write, and records to the ring (R207, R280). -/
def OpKind.isPut : OpKind → Bool
  | .put | .ring => true
  | _ => false

/-- Whether an operation goes to another core's share of a heat window (R191). -/
def OpKind.isWindow : OpKind → Bool
  | .ldx | .stx => true
  | _ => false

/-- Whether an operation is a release or an acquire of an object, or the emptying of a buffer (R214, R215, R301). -/
def OpKind.isObject : OpKind → Bool
  | .rel _ | .acq _ | .empty => true
  | _ => false

/-- The replay-store entries of a core in use (R20). -/
def State.replayUsed (s : State) (core : Nat) : Nat :=
  (s.ops.map fun o => if o.core = core then (o.lines.filter fun l => l.entry && l.isOpen).length else 0).foldl (· + ·) 0

/-- Whether a replay entry is free for a line request of an operation, or none is needed (R20, R196, R267). -/
def State.entryFree (s : State) (o : MemOp) (l : LineReq) : Bool :=
  o.kind.isPref || o.kind.isEngine || l.entry || decide (s.replayUsed o.core < 128)

/-- The replay entry of a line request taken, if it needs one. -/
def State.takeEntry (s : State) (o : MemOp) (line : Nat) : State :=
  if o.kind.isPref || o.kind.isEngine then s else s.modLine o.id line fun l => { l with entry := true }

/-- The permission an operation needs: 0 read, 1 write (R199). -/
def OpKind.perm : OpKind → Nat
  | .store | .atomic .. | .radd .. | .oadd | .orinit | .done | .image true | .put => 1
  | _ => 0

/-- Whether an operation takes effect at slices through line requests (R243). -/
def OpKind.isUpdate : OpKind → Bool
  | .atomic .. | .radd .. | .oadd | .done => true
  | _ => false

/-- Whether a line request has an older one to the same line before it, merged ones included (R202, R232): one of its threads', open, or of
an atomic word that is not yet complete (R243); to a heat window also a store of any thread of the core (R228; log entry 80). -/
def State.behindOlder (s : State) (o : MemOp) (l : LineReq) : Bool :=
  !o.kind.isPref && s.ops.any fun x => decide (x.id < o.id) && x.core = o.core && !x.kind.isPref && x.kind.isWindow == o.kind.isWindow
    && x.lines.any fun m => m.line = l.line && (m.isOpen || x.kind.isUpdate)
      && (x.kind == .stx || (x.wg = o.wg && m.threads.any fun t => t ∈ l.threads))

/-- Whether the view cache of a core holds a line. -/
def viewFind (k : Core) (pa : Nat) : Option ViewLine := k.view.find? fun v => v.line = pa / 128

/-- A line of the view cache put in, at most 512 lines, the least recently used going first (R24, R186). -/
def viewFill (view : List ViewLine) (v : ViewLine) : List ViewLine := (v :: view.filter fun x => x.line ≠ v.line).take 512

/-- Lines that satisfy a condition leave a core's view cache, and requests under way do not fill it with them (R186, R215, R243). -/
def State.dropLines (s : State) (core : Nat) (p : Nat → Bool) : State :=
  let stale := fun (l : LineReq) => if p (l.pa.getD 0 / 128) then { l with fill := false } else l
  { (s.modCore core fun k => { k with view := k.view.filter fun v => !p v.line }) with
    ops := mapIf (fun o => o.core = core) (fun o => { o with lines := o.lines.map stale }) s.ops }

/-! ### The rate limiter (R382) -/

/-- QRATE and QBURST of the function that owns a core's partition. -/
def State.rateOf (s : State) (core : Nat) : Nat × Nat :=
  match s.corePart core with
  | some p => ((s.func p.func).qrate.toNat % 65536, (s.func p.func).qburst.toNat % 65536)
  | none => (0, 0)

/-- The level of a core's bucket now, in 1,250ths of a unit: QRATE units per µs is QRATE 1,250ths a clk. -/
def State.bucketNow (s : State) (core : Nat) : Int :=
  let k := s.core core
  let r := s.rateOf core
  min (1250 * (r.2 : Int)) (k.bucket + (r.1 * (s.clk - k.bucketAt) : Nat))

/-- A core's bucket filled up to now, less some units, never below −65,536. -/
def State.payBucket (s : State) (core n : Nat) : State :=
  let b := s.bucketNow core
  s.modCore core fun k => { k with bucket := max (-81920000) (b - 1250 * n), bucketAt := s.clk }

/-- Units that write-backs, ring writes, compaction writes and walk reads take at once (R382). -/
def State.charge (s : State) (core n : Nat) : State := if (s.rateOf core).1 = 0 then s else s.payBucket core n

/-- The clk a new request of a core has to wait for its unit; none when it may go. -/
def State.unitWait (s : State) (core : Nat) : Option Nat :=
  let r := (s.rateOf core).1
  let b := s.bucketNow core
  if r = 0 ∨ 1250 ≤ b then none else some (((1250 - b).toNat + (r - 1)) / r)

/-- The clk that requests of a core have waited so far are counted in QDENY of its function. -/
def State.countDeny (s : State) (core : Nat) (more : Bool) : State :=
  match (s.core core).denySince, s.corePart core with
  | some t, some p =>
    (s.modFunc p.func fun f => { f with qdeny := f.qdeny + BitVec.ofNat 64 (s.clk - t) }).modCore core fun k =>
      { k with denySince := if more then some s.clk else none }
  | _, _ => if more then s.modCore core fun k => { k with denySince := some s.clk } else s

/-- The unit of a new request taken. -/
def State.takeUnit (s : State) (core : Nat) : State :=
  if (s.rateOf core).1 = 0 then s else (s.countDeny core false).payBucket core 1

/-- A line request before it goes out, of threads, with the translation it has. -/
def lineReq (line addr : Nat) (pa : Option Nat) (threads : List Nat) : LineReq :=
  { line := line, addr := addr, pa := pa, st := .walking, merged := none, entry := false, threads := threads, bRouter := 0, bSlice := 0,
    bHbm := 0, veteran := false, promoted := 0, keys := [], arrived := 0, extra := 0, flags := [], data := [], fill := false }

/-- An operation of no workgroup's word: an engine's request, a drain's scale load, a walk's read, a log's; a and b say for what. -/
def bareOp (s : State) (kind : OpKind) (core part node : Nat) (c : Ctx) (a b : Nat) (lines : List LineReq) : MemOp :=
  let z : Pc := { frame := false, word := 0 }
  { id := s.ids, kind := kind, core := core, wg := 0, node := node, part := part, ctx := c, addr := z, first := z, next := z, threads := [],
    lanes := [], latch := [], vdst := none, sdst := none, wb := false, lines := lines, a := a, b := b, c := 0, n := 0, m := 0,
    ranges := [], rep := none, phase := 0, fail := none, since := s.clk }

/-- An operation enters the machine. -/
def State.addOp (s : State) (o : MemOp) : State := { s with ops := s.ops ++ [o] }.takeId

/-- The partition that a core belongs to, by number. -/
def State.partOf (s : State) (core : Nat) : Nat := match s.corePart core with | some p => p.num | none => 0

/-- The requests of an operation that no rate limiter holds leave at once, each with its unit (R382). -/
def State.sendBack (s : State) (o : MemOp) : State :=
  o.lines.foldl (fun (s : State) l =>
    (s.modLine o.id l.line fun l => { l with st := .travelling }).sendRouter 0 o.id l.line false) ((s.addOp o).charge o.core o.lines.length)

/-- The slice's cache takes a line, at most 32,768 (4 MiB, R24), the oldest going first. -/
def State.sliceFill (s : State) (pa : Nat) : State :=
  s.modSlice (paSlice pa) fun x => { x with lines := (pa / 128 :: x.lines.filter fun l => l ≠ pa / 128).take 32768 }

/-- One of the four requests that a slice starts in a clk (R404); none when four have started. -/
def State.takeStart (s : State) (h : Nat) : Option State :=
  let n := if (s.slice h).startedAt = s.clk then (s.slice h).startedN else 0
  if n ≥ 4 then none else some (s.modSlice h fun x => { x with startedAt := s.clk, startedN := n + 1 })

/-! ### Walks (R198, R401) -/

/-- The walks that a sector's walker runs. -/
def State.walksOn (s : State) (sector : Nat) : Nat :=
  (s.walks.filter fun w => w.st == .running && coreSector w.core = sector).length

/-- A walk changed. -/
def State.modWalk (s : State) (id : Nat) (f : Walk → Walk) : State := { s with walks := mapIf (fun x => x.id = id) f s.walks }

/-- The walk that has waited longest for a sector's walker is taken up while fewer than 16 run (R198); it is 30 clk in the walk cache
(R401). -/
def State.nextWalk (s : State) (sector : Nat) : State :=
  match s.walks.find? fun w => w.st == .queued && coreSector w.core = sector with
  | none => s
  | some w => if s.walksOn sector ≥ 16 then s else (s.modWalk w.id fun x => { x with st := .running }).post 30 (.walkOutcome w.id)

/-- A walk takes what its walk cache holds and reads the next descriptor from its home slice (R401), or has them all. -/
def State.walkRead (s : State) (w : Walk) : State × Option DescRead :=
  let w := s.consult 32 w
  let s := { (s.modWalk w.id fun _ => w) with free := s.free + 32 }
  match w.lacks with
  | none => (s, none)
  | some r =>
    (s.sendBack (bareOp s .walkRead w.core (s.partOf w.core) 0 w.ctx w.id 0 [lineReq (r.pa / 128) r.pa (some r.pa) []]), some r)

/-- A descriptor that a walk read has come: the next one is read, or the outcome reaches the requester 20 clk later (R401). -/
def State.walkGot (s : State) (o : MemOp) (l : LineReq) : State :=
  let s := s.dropOp o.id
  match s.walks.find? fun w => w.id = o.a with
  | none => s
  | some w =>
    match w.lacks with
    | none => s
    | some r =>
      let i := l.addr % 128 / 4
      let v := (l.data.getD (i + 1) 0 ++ l.data.getD i 0).toNat
      let x := s.walkRead { w with got := w.got ++ [(r, v, false)] }
      match x.2 with
      | some _ => x.1
      | none => x.1.post 20 (.walkOutcome w.id)

/-- The channel of an engine's asker. -/
def State.askerChan (s : State) : Asker → Option Nat
  | .element word _ => match s.word? word with | some e => e.chan | none => none
  | _ => none

/-- A walk for an address is asked for (R198). An engine's element joins the walk that its channel has in flight for the 4 KiB page, or the
page request that is outstanding for it (R409). -/
def State.startWalk (s : State) (core : Nat) (c : Ctx) (va perm : Nat) (who : Asker) : State :=
  let chan := s.askerChan who
  let same := fun (w : Walk) => w.core = core && w.ctx = c && w.perm = perm && w.va / 4096 = va / 4096
  let join := fun (w : Walk) => { w with who := w.who ++ [who] }
  match s.walks.find? fun w => chan.isSome && same w && w.who.any fun a => s.askerChan a = chan with
  | some w => s.modWalk w.id join
  | none =>
    match s.pageReqs.find? fun r => chan.isSome && !r.settled && r.walks.any same with
    | some r => { s with pageReqs := mapIf (fun x => x.id = r.id) (fun x => { x with walks := mapIf same join x.walks }) s.pageReqs }
    | none =>
      let w : Walk := { id := s.ids, core := core, ctx := c, va := va, perm := perm, who := [who], st := .queued, got := [] }
      (State.takeId { s with walks := s.walks ++ [w] }).nextWalk (coreSector core)

/-- The end of the threads' wait for an operation. -/
def State.unblock (s : State) (wg op : Nat) : State :=
  s.modWg wg fun w => { w with threads := w.threads.map fun t =>
    if (t.wait == .blocked op) = true then { t with wait := .ready, notBefore := max t.notBefore (s.clk + 1) } else t }

/-- A repeated word that will not complete is the repeat that its crew goes on with (R103). -/
def State.takeBackRepeat (s : State) (o : MemOp) : State :=
  match o.rep with
  | some (c, ctl) => s.modWg o.wg fun w => w.modCrew c fun x => { x with repctl := ctl, repThreads := o.threads.map w.laneOf }
  | none => s

/-- The crews of an operation's active threads take a trap at its word, with a report when a cause is given (R200, R326);
the operation is gone. -/
def State.opTrap (s : State) (o : MemOp) (t : Trap) (report : Option (Nat × Bool × List (Nat × Nat))) : State :=
  match s.wg? o.wg with
  | none => s.dropOp o.id
  | some w =>
    let crews := w.crewsOf (o.lanes.map fun l => l.thread)
    let ts := o.threads.filter fun x => w.crewOf x ∈ crews
    let s := ((s.takeBackRepeat o).dropOp o.id).unblock o.wg o.id
    let s := match report with
      | some (cause, write, bad) => s.modWg o.wg fun w => w.faultReport ts cause write bad
      | none => s
    s.groupTrap o.wg ts t o.addr o.addr

/-- An operation ends in MEMFAULT, naming the lanes whose address fails. -/
def State.opFault (s : State) (o : MemOp) (cause : Nat) (bad : LaneAcc → Bool) : State :=
  s.opTrap o .memfault (some (cause, o.kind.perm = 1, (o.lanes.filter bad).map fun l => (l.thread, l.ea)))

/-- Whether a line may be held by a view cache: the images of objects never are (R248, R405). -/
def State.cacheable (s : State) (line : Nat) : Bool :=
  !(s.objs.any fun o => o.pa / 128 = line) && !(s.ordAccs.any fun a => a.pa / 128 = line && !a.done)

/-- The view-cache line that serves a load line, if the core still holds it (R186); whether it was evicted is a free choice
(R216). -/
def State.viewHit (s : State) (o : MemOp) (l : LineReq) : Option ViewLine :=
  match o.kind, l.pa with
  | .load, some pa | .scale, some pa =>
    if s.cacheable (pa / 128) && !Config.freeChoice s.free then viewFind (s.core o.core) pa else none
  | _, _ => none

/-- Whether an operation's requests may leave its core: a release once its records have drained, in a clk before this one, and no ring
write of them has to come again, an acquire once its wait is over (R214, R232). -/
def State.mayGo (s : State) (o : MemOp) : Bool :=
  match o.kind with
  | .rel _ => o.phase = 1 && decide (o.n ≤ (s.core o.core).log.drained)
      && !(s.ops.any fun x => x.kind == .ring && x.core = o.core && decide (x.b < o.n) &&
          (x.since = s.clk || x.lines.any fun l => l.st == .bounced))
  | .acq _ | .empty => o.phase = 1
  | _ => true

/-- A line request leaves the core, with its key, when its core's bucket has a unit for it, through the
comparator in paired mode (R246, R382, R384). -/
def State.launchLine (s : State) (o : MemOp) (line : Nat) : State :=
  match s.unitWait o.core with
  | some d =>
    let s := (s.modLine o.id line fun l => { l with st := .held }).countDeny o.core true
    if s.agenda.any fun e => e.2 == .replayReissue o.id line then s else s.post d (.replayReissue o.id line)
  | none =>
    let s := s.takeUnit o.core
    let s := if o.kind == .load || o.kind == .scale then s.takeFree else s
    let s := s.modLine o.id line fun l => { l with fill := o.kind == .load || o.kind == .scale || o.kind == .prefetch true }
    let cmp := s.comparator o.part
    if o.kind.isUpdate && o.lines.any fun l => l.line = line && l.keys.isEmpty then
      ((s.modLine o.id line fun l => { l with st := .travelling, keys := [s.nextKey o.core] }).takeSeq o.core).sendRouter cmp o.id line false
    else (s.modLine o.id line fun l => { l with st := .travelling }).sendRouter cmp o.id line false

/-- A line request goes on: the view cache serves it, or it takes a replay entry and then is walked, waits behind an older one or
for its operation, or leaves the core (R20, R186, R199, R202; log entry 77). A frozen master's goes nowhere (R379). -/
def State.sendLine (s : State) (op line : Nat) : State :=
  match s.line? op line with
  | none => s
  | some (o, l) =>
    let older := s.behindOlder o l
    if s.frozenWg o.wg o.threads then s.modLine op line fun l => { l with st := .held }
    else match (if older then none else s.viewHit o l) with
    | some v =>
      ((s.modLine op line fun l => { l with st := .serving, data := v.words, fill := false }).modCore o.core fun k =>
        { k with view := viewFill k.view v }).takeFree.post 11 (.loadReply op line)
    | none =>
      if !s.entryFree o l then s.modLine op line fun l => { l with st := .held }
      else
        let s := s.takeEntry o line
        match l.pa with
        | none => (s.modLine op line fun l => { l with st := .walking }).startWalk o.core o.ctx l.addr o.kind.perm (.line op line)
        | some _ =>
          if older || !s.mayGo o then s.modLine op line fun l => { l with st := .held } else s.launchLine o line

/-- Requests of a core that were held are looked at again (R20, R202); stores with a translation go by themselves. -/
def State.releaseHeld (s : State) (core : Nat) : State :=
  s.ops.foldl (fun s o =>
    if o.core = core then
      o.lines.foldl (fun s l =>
        if l.st == .held && l.merged.isNone && (o.kind != .store || l.pa.isNone) then s.sendLine o.id l.line else s) s
    else s) s

/-- The causes found at issue for generic addresses (R185, R200): misaligned, then not canonical. -/
def addrCause (lanes : List LaneAcc) : Option (Nat × List (Nat × Nat)) :=
  let pick := fun (p : LaneAcc → Bool) => (lanes.filter p).map fun l => (l.thread, l.ea)
  let al := pick fun l => l.ea % 4 ≠ 0
  let ca := pick fun l => !canonical l.ea
  if al ≠ [] then some (1, al) else if ca ≠ [] then some (2, ca) else none

/-- The causes of a write found once it is translated, in the order host-memory write 7, sealed 8, object 14 (R194, R200,
R205, R243); an active accumulator may be the target of an oadd. A lane's address holds its translation. -/
def State.writeCauseOf (s : State) (oadd : Bool) (lanes : List LaneAcc) : Option (Trap × Nat × List (Nat × Nat)) :=
  let pick := fun (p : Nat → Bool) => (lanes.filter fun l => match l.pa with | some a => p a | none => false).map
    fun l => (l.thread, l.ea)
  let ho := pick fun a => !isHbm a
  let se := pick fun a => s.isSealed a
  let ob := pick fun a => s.inObj a || (s.inAcc a && !oadd)
  if ho ≠ [] then some (.memfault, 7, ho)
  else if se ≠ [] then some (.sealedFault, 8, se)
  else if ob ≠ [] then some (.memfault, 14, ob)
  else none
/-- The same for a store, an atomic or a reduction. -/
def State.writeCause (s : State) (lanes : List LaneAcc) : Option (Trap × Nat × List (Nat × Nat)) := s.writeCauseOf false lanes

/-- The line requests of a word, one for each distinct line its active lanes name (R186), each translated by the TLB where
that holds it (R199); an engine's translation of a core's block or a register is none for a thread (R180). -/
def linesOf (tlb : List TlbEntry) (c : Ctx) (perm : Nat) (lanes : List LaneAcc) : List LineReq :=
  (dedup (lanes.map fun l => l.ea / 128)).map fun n =>
    lineReq n (n * 128) ((tlbFind tlb c (n * 128) perm).filter fun pa => isHbm pa || isHost pa) ((lanes.filter fun l => l.ea / 128 = n).map fun l => l.thread)

/-- The lanes of an operation with the translations its lines have. -/
def MemOp.translated (o : MemOp) : MemOp :=
  { o with lanes := o.lanes.map fun a =>
      match o.lines.find? fun l => l.line = a.ea / 128 with
      | some l => { a with pa := l.pa.map fun p => p + a.ea % 128 }
      | none => a }

/-- Whether every line of an operation has its translation. -/
def MemOp.allTranslated (o : MemOp) : Bool := o.lines.all fun l => l.pa.isSome

/-- An operation of a word that is being issued. -/
def newOp (s : State) (is : Issue) (w : Wg) (kind : OpKind) (lanes : List LaneAcc) (vdst sdst : Option Nat) (wb : Bool) :
    MemOp :=
  let lines := linesOf (s.core w.core).tlb w.ctx kind.perm lanes
  ({ id := s.ids, kind := kind, core := w.core, wg := w.id, node := w.node, part := w.part, ctx := w.ctx, addr := is.addr,
     first := is.first, next := is.next, threads := is.threads, lanes := lanes, latch := [], vdst := vdst, sdst := sdst, wb := wb,
     lines := lines, a := 0, b := 0, c := 0, n := 0, m := 0, ranges := [], rep := none, phase := 0, fail := none,
     since := s.clk : MemOp }).translated

/-- The untranslated lines of an operation are walked, each once it has a replay entry. -/
def State.walkLines (s : State) (o : MemOp) : State :=
  o.lines.foldl (fun s l => if l.pa.isNone then s.sendLine o.id l.line else s) s

/-- Values from the crew's registers for the lanes of a word: thread, address, first and second operand. -/
def laneAcc (t ea : Nat) (x y : Word32) : LaneAcc := { thread := t, ea := ea, pa := none, x := x, y := y, ret := 0 }

/-- The threads in which per-lane sources of a memory word are lost latches (R38). -/
def lostLatches (s : State) (is : Issue) (w : Wg) (act : List Nat) (srcs : List (BitVec 7)) : List Nat :=
  act.filter fun t => srcs.any fun a => (laneSrc s is w t a.toNat).2

/-- The flag LATCH raised in threads of a workgroup (R38). -/
def State.raiseLatch (s : State) (wg : Nat) (ts : List Nat) : State :=
  if ts = [] then s else s.modWg wg fun x => ts.foldl (fun (x : Wg) t => x.raise t flLATCH) x

/-- The same for a word whose checks are passed at issue. -/
def State.lostLatches (s : State) (is : Issue) (w : Wg) (act : List Nat) (srcs : List (BitVec 7)) : State :=
  s.raiseLatch w.id (Sys2Proof.Machine.lostLatches s is w act srcs)

/-- An operation has passed its checks: its flags are raised, and its threads go on (R38, R199, R200). -/
def State.opPassed (s : State) (o : MemOp) : State :=
  ((s.raiseLatch o.wg o.latch).modOp o.id fun x => { x with latch := [], rep := none }).unblock o.wg o.id

/-- An operation's result is written and the operation ends (R187, R243): v register d in the active lanes. -/
def State.opWriteV (s : State) (o : MemOp) (vals : List (Nat × Word32)) (flags : List (Nat × BitVec 8)) : State :=
  let v := match o.vdst with | some d => if o.wb then vals.map fun v => (v.1, d, v.2) else [] | none => []
  (s.dropOp o.id).modWg o.wg fun w =>
    let p : PendWr := { id := o.id, v := v, s := [], p := [], flags := [], crews := [], valid := [], latch := [], mem := [] }
    { (w.write v [] [] flags).wroteIn (w.crewsOf o.threads) s.clk with written := p.asRead w :: w.written }

/-- An operation's s result is written in every crew that had an active thread, and the operation ends. -/
def State.opWriteS (s : State) (o : MemOp) (v : Dbl) : State :=
  (s.dropOp o.id).modWg o.wg fun w =>
    let l := match o.sdst with
      | some d => if o.wb then (w.crewsOf (o.lanes.map fun l => l.thread)).map fun c => (c, d, v) else []
      | none => []
    { (w.write [] l [] []).wroteIn (w.crewsOf o.threads) s.clk with
      written := { id := o.id, v := [], s := l, p := [], flags := [], crews := [], valid := [], latch := [], mem := [] } :: w.written }

end Sys2Proof.Machine
end

