-- ==== Sys2Proof/Machine/Log.lean ====
section
/-! DEFINITION. Store logs (R205 to R209), what a load of generic memory returns (R208, R216, R217), sync objects with their
publication lists (R210 to R215), compaction (R219), and the words bind, unbind, seal, unseal, rel, acq, chkpt and logq. -/

namespace Sys2Proof.Machine

/-! ### Records -/

/-- Whether a record is neither DONE nor VOID. -/
def Record.live (r : Record) : Bool := !r.done && !r.void
/-- The word a record writes at an address, if it writes it (R206). -/
def Record.wordAt (r : Record) (pa : Nat) : Option Word32 :=
  if r.gran = pa / 32 && r.wm.getLsbD (pa % 32 / 4) then some (r.words.getD (pa % 32 / 4) 0) else none
/-- The physical line of a record. -/
def Record.line (r : Record) : Nat := r.gran / 4

/-- The value of the core's newest live record that writes a word (R208). -/
def ownWord (recs : List Record) (pa : Nat) : Option Word32 :=
  recs.foldl (fun acc r => if r.live then (match r.wordAt pa with | some w => some w | none => acc) else acc) none

/-- The log of a core. -/
def State.log (s : State) (core : Nat) : Log := (s.core core).log
/-- A log changed. -/
def State.modLog (s : State) (core : Nat) (f : Log → Log) : State := s.modCore core fun k => { k with log := f k.log }

/-- HEAD moved past every record that is DONE or VOID, and node slots without live records freed (R207); a record is kept until it
has drained. -/
def Log.trim (l : Log) : Log :=
  let recs := l.recs.dropWhile fun r => !r.live && decide (r.num < l.drained)
  { l with
    recs := recs
    head := match recs.find? fun r => r.live with | some r => r.num | none => l.tail
    nodes := l.nodes.filter fun x => recs.any fun r => r.live && r.nslot = x.1 }

/-! ### The ring in partition memory -/

/-- A record's header (R206). -/
def Record.header (r : Record) : Dbl :=
  BitVec.ofNat 64 (r.wm.toNat + r.gran % 2 ^ 34 * 2 ^ 8 + r.void.toNat * 2 ^ 42 + r.done.toNat * 2 ^ 43 + r.nslot % 256 * 2 ^ 44)

/-- The address of a record's position in the ring of a core's log: the rings of a partition's cores lie one behind the other from
its log base, 4 MiB each (R207; log entry 79). -/
def State.ringPlace (s : State) (core num : Nat) : Option Nat :=
  (s.corePart core).map fun p =>
    p.logbase + ((s.partCores p.num).findIdx fun c => c = core) * 0x400000 + num % 104857 * 40

/-- The words of a record's image with their addresses; words of the granule not written are zero (R206, R207). -/
def State.ringWords (s : State) (core : Nat) (r : Record) : List LaneAcc :=
  match s.ringPlace core r.num with
  | none => []
  | some a =>
    let word := fun (k : Nat) => if k = 0 then r.header.truncate 32 else if k = 1 then (r.header >>> 32).truncate 32
      else if r.wm.getLsbD (k - 2) then r.words.getD (k - 2) 0 else 0
    (List.range 10).map fun k => { laneAcc 0 (a + 4 * k) (word k) 0 with pa := some (a + 4 * k) }

/-- Records leave the log buffer for the ring: write-backs, one request for each line (R207, R382). -/
def State.ringSend (s : State) (core : Nat) (rs : List Record) : State :=
  let lanes := rs.flatMap (s.ringWords core)
  match rs with
  | [] => s
  | r :: _ =>
    let lines := (dedup (lanes.map fun l => l.ea / 128)).map fun n => lineReq n (128 * n) (some (128 * n)) []
    s.sendBack { bareOp s .ring core (s.partOf core) r.node { func := 0, s1 := 0, s2 := 0 } core r.num lines with lanes := lanes }

/-- The header of a record that has left for the ring written again (R206). -/
def State.ringHeader (s : State) (core : Nat) (r : Record) : State :=
  if r.num < (s.log core).drained then
    match s.ringPlace core r.num with
    | some a =>
      let new := s.ringWords core r
      let mark := fun (l : LaneAcc) => if l.ea < a + 8 then (match new.find? fun x => x.ea = l.ea with | some x => x | none => l) else l
      { s.setHomeDbl a r.header with
        ops := mapIf (fun o => o.kind == .ring && o.a = core) (fun o => { o with lanes := o.lanes.map mark }) s.ops }
    | none => s
  else s

/-- Records that fall under a condition become VOID (R220). -/
def Log.void (l : Log) (p : Record → Bool) : Log :=
  ({ l with recs := l.recs.map fun r => if p r then { r with void := true } else r }).trim

/-- The same in a core's log and in its ring (R206). -/
def State.voidRecs (s : State) (core : Nat) (p : Record → Bool) : State :=
  (((s.log core).recs.filter p).foldl (fun (s : State) r => s.ringHeader core { r with void := true }) s).modLog core fun l => l.void p

/-- The lowest free node slot of a log. -/
def Log.freeSlot (l : Log) : Option Nat := (List.range 256).find? fun n => !(l.nodes.any fun x => x.1 = n)
/-- The slot of a node in a log. -/
def Log.slotOf (l : Log) (node : Nat) : Option Nat := (l.nodes.find? fun x => x.2 = node).map fun x => x.1

/-- The records of a store, one for each granule, granules ascending, a higher lane overwriting a lower one (R205). -/
def storeRecords (lanes : List LaneAcc) : List (Nat × BitVec 8 × List Word32) :=
  let at_ := fun (l : LaneAcc) => l.pa.getD 0
  let grans := sortBy (fun g => g) (dedup (lanes.map fun l => at_ l / 32))
  grans.map fun g =>
    (lanes.filter fun l => at_ l / 32 = g).foldl (fun (acc : Nat × BitVec 8 × List Word32) l =>
      let w := at_ l % 32 / 4
      (g, setBit acc.2.1 w true, acc.2.2.set w l.x)) (g, 0, List.replicate 8 0)

/-- What stores that wait for an older access have reserved of a core's log (R209, R228): their records and nodes. -/
def State.reserved (s : State) (core but : Nat) : List (Nat × List (Nat × BitVec 8 × List Word32)) :=
  (s.ops.filter fun o => o.core = core && o.kind == .store && o.phase = 2 && o.id ≠ but).map fun o =>
    (o.node, storeRecords o.lanes)

/-- Whether a log has room for a store of a node (R209) beside what is reserved; dir are the lines its directory holds. -/
def Log.room (l : Log) (dir : List Nat) (held : List (Nat × List (Nat × BitVec 8 × List Word32)))
    (recs : List (Nat × BitVec 8 × List Word32)) (node : Nat) : Bool :=
  let more := held.flatMap fun h => h.2
  let new := dedup ((held.map fun h => h.1).filter fun n => n ≠ node && (l.slotOf n).isNone)
  decide (l.tail - l.head + more.length + recs.length ≤ 104857)
    && decide ((dedup (dir ++ (more ++ recs).map fun r => r.1 / 4)).length ≤ 8192)
    && ((l.slotOf node).isSome || decide (l.nodes.length + new.length < 256))

/-- Whether the log buffer has room for records (R207). -/
def Log.bufferRoom (l : Log) (n : Nat) : Bool := decide (l.tail - l.drained + n ≤ 819)

/-- The records a core's forwarding directory names, each with its log (R208, R225): those that resumed crews left in other logs,
then its own. -/
def State.ownRecsAt (s : State) (core : Nat) : List (Nat × Record) :=
  ((s.log core).foreign.flatMap fun f =>
    ((s.log f.1).recs.filter fun r => r.node = f.2.1 && decide (r.num < f.2.2)).map fun r => (f.1, r))
    ++ (s.log core).recs.map fun r => (core, r)
def State.ownRecs (s : State) (core : Nat) : List Record := (s.ownRecsAt core).map fun x => x.2

/-- The lines that a core's forwarding directory holds (R208, R225). -/
def State.dirLines (s : State) (core : Nat) : List Nat :=
  dedup (((s.ownRecs core).filter fun r => r.live).map fun r => r.line)

/-- Whether a core's log has room for a store of a node (R209, R225), which has reserved nothing itself. -/
def State.logRoom (s : State) (core but : Nat) (recs : List (Nat × BitVec 8 × List Word32)) (node : Nat) : Bool :=
  (s.log core).room (s.dirLines core) (s.reserved core but) recs node

/-- Records of a workgroup appended with consecutive numbers from TAIL (R205, R207). -/
def Log.append (l : Log) (recs : List (Nat × BitVec 8 × List Word32)) (node wg clk : Nat) : Log :=
  let sl := match l.slotOf node with | some n => n | none => (l.freeSlot).getD 0
  let l := if (l.slotOf node).isSome then l else { l with nodes := l.nodes ++ [(sl, node)] }
  recs.foldl (fun (l : Log) r =>
    { l with
      recs := l.recs ++ [{ num := l.tail, wg := wg, wm := r.2.1, gran := r.1, words := r.2.2, nslot := sl, node := node,
                           committed := false, void := false, done := false, since := clk }]
      tail := l.tail + 1 }) l

/-- A view-cache line with the core's own live records merged in (R208). -/
def mergeOwn (recs : List Record) (line : Nat) (words : List Word32) : List Word32 :=
  (List.range 32).map fun k => (ownWord recs (line * 128 + 4 * k)).getD (words.getD k 0)

/-- A store's records are appended; own view-cache lines take the data, and the ring's occupancy is looked at (R205, R208,
R209, R216). They have their numbers at once, and the append queue passes two of them in a clk (R224). -/
def State.appendStore (s : State) (o : MemOp) : State :=
  let recs := storeRecords o.lanes
  let l := (s.log o.core).append recs o.node o.wg s.clk
  let lines := dedup (recs.map fun r => r.1 / 4)
  let empty := (s.log o.core).drained = (s.log o.core).tail
  let s := s.modCore o.core fun k =>
    { k with
        log := l, busy := k.busy.set 4 (max (k.busy.getD 4 0) (2 * s.clk) + recs.length)
        view := k.view.map fun v => if v.line ∈ lines then { v with words := mergeOwn l.recs v.line v.words } else v }
  let s := if empty && recs ≠ [] then s.post (1 + s.comparator o.part) (.logBufferDrain o.core) else s
  if l.tail - l.head ≥ 78643 ∧ !l.occ then
    let s := s.modLog o.core fun l => { l with occ := true }
    match s.corePart o.core with
    | some p => s.event p.func 2
    | none => s
  else s

/-! ### What a load returns -/

/-- The records of an object's publication list with VER up to a version, each with its log, in replay order (R217): entries in
ascending VER, then ascending number. -/
def State.replayAt (s : State) (o : SyncObj) (av : Nat) : List (Nat × Record) :=
  (sortBy (fun e => e.ver) (o.pubs.filter fun e => e.ver ≤ av)).flatMap fun e =>
    ((s.log e.log).recs.filter fun r => e.from_ ≤ r.num && r.num < e.upto).map fun r => (e.log, r)
def State.replayRecords (s : State) (o : SyncObj) (av : Nat) : List Record := (s.replayAt o av).map fun x => x.2

/-- A word with records applied over it in order. -/
def replayWord (home : Word32) (recs : List Record) (pa : Nat) : Word32 := (ownWord recs pa).getD home

/-- Every record of every log. -/
def State.allRecords (s : State) : List (Nat × Record) := s.cores.flatMap fun (x : Nat × Core) => x.2.log.recs.map fun r => (x.1, r)

/-- A word of generic memory as a load of a core reads it (R208, R216). Where the rule allows several values, a free value
chooses among them (log entry 12). -/
def State.loadWord (s : State) (core pa : Nat) : Word32 :=
  match ownWord (s.ownRecs core) pa with
  | some w => w
  | none =>
    let home := s.homeWord pa
    match s.regionObj pa with
    | some o =>
      match (s.core core).acq.find? fun a => a.obj = o.pa with
      | some a => replayWord home (s.replayRecords o a.av) pa
      | none =>
        let done := replayWord home ((s.replayRecords o o.ver).filter fun r => r.committed) pa
        if done = home || Config.freeChoice s.free then done else home
    | none =>
      let others := s.allRecords.filterMap fun r => if r.2.committed && r.2.live then r.2.wordAt pa else none
      (home :: others).getD ((Config.freeWord s.free).toNat % (others.length + 1)) home

/-- A line as a load of a core reads it. -/
def State.loadLine (s : State) (core pa : Nat) : List Word32 :=
  (List.range 32).map fun k => s.loadWord core (pa / 128 * 128 + 4 * k)

/-- The ranges of an object's regions. -/
def SyncObj.ranges (o : SyncObj) : List (Nat × Nat) := o.regions.flatMap fun r => r.ranges

/-- Whether a record still stands for an object: live, and in one of its regions. -/
def SyncObj.wants (o : SyncObj) (r : Record) : Bool := r.live && o.ranges.any fun x => x.1 ≤ r.gran * 32 && r.gran * 32 < x.1 + x.2

/-- The records that a load of a line reads from logs beside home: own ones, and those that its acquires name for the regions that the line
meets (R208, R211, R406). -/
def State.lineRecords (s : State) (core pa : Nat) : Nat :=
  let here := fun (x : Nat × Record) => x.2.live && decide (x.2.line = pa / 128)
  let own := (s.ownRecsAt core).filter here
  let other := (s.objs.filter fun o => o.regions.any fun r => rangesMeet r.ranges [(pa / 128 * 128, 128)]).flatMap fun o =>
    match (s.core core).acq.find? fun (a : AcqEntry) => a.obj = o.pa with
    | some a => (s.replayAt o a.av).filter fun x => here x && o.wants x.2
    | none => []
  let same := fun (x y : Nat × Record) => decide (x.1 = y.1 ∧ x.2.num = y.2.num)
  own.length + (dedup ((other.filter fun x => !(own.any (same x))).map fun x => x.1 * 2 ^ 64 + x.2.num)).length

/-- View-cache lines of a core that hold an address of given ranges dropped; and how many there were. -/
def State.dropView (s : State) (core : Nat) (ranges : List (Nat × Nat)) : State :=
  s.dropLines core fun n => rangesMeet [(n * 128, 128)] ranges
def Core.viewCount (k : Core) (ranges : List (Nat × Nat)) : Nat :=
  (k.view.filter fun v => rangesMeet [(v.line * 128, 128)] ranges).length

/-! ### Publication lists -/

/-- The records of an entry that its object still wants. -/
def State.pubLive (s : State) (o : SyncObj) (e : PubEntry) : List Record :=
  (s.log e.log).recs.filter fun r => e.from_ ≤ r.num && r.num < e.upto && o.wants r

/-- The version below which every record of an entry is DONE or VOID (R210): the one before the release that published its oldest
record that is neither. -/
def State.settledBelow (s : State) (o : SyncObj) (e : PubEntry) : Nat :=
  match s.pubLive o e with
  | r :: _ => (match e.steps.find? fun x => r.num < x.1 with | some x => x.2 | none => e.ver) - 1
  | [] => e.ver

/-- Entries whose records are all DONE or VOID are removed, and CVER follows: the highest VER with every record up to it
DONE or VOID (R210, R214, R219). -/
def State.settlePubs (s : State) : State :=
  { s with objs := s.objs.map fun o =>
      let pubs := o.pubs.filter fun e => s.pubLive o e ≠ []
      let cver := pubs.foldl (fun n e => min n (s.settledBelow o e)) o.ver
      { o with pubs := pubs, cver := max o.cver cver } }

/-- Every log and publication list brought up to date after records have become DONE or VOID. -/
def State.settleLogs (s : State) : State :=
  ({ s with cores := s.cores.map fun (x : Nat × Core) => (x.1, { x.2 with log := x.2.log.trim }) }).settlePubs

/-! ### Ranges named by bind and seal (R193, R211, R413) -/

/-- Ranges with adjacent ones merged. -/
def mergeRanges (l : List (Nat × Nat)) : List (Nat × Nat) :=
  (l.foldl (fun (acc : List (Nat × Nat)) (r : Nat × Nat) =>
    match acc with
    | (a, n) :: t => if a + n = r.1 then (a, n + r.2) :: t else r :: (a, n) :: t
    | [] => [r]) []).reverse

/-- The pages of a range that a core's TLB holds, from an address on: what they give of the range, and the first address that has
to be walked, if there is one (R413). -/
def rangeSteps (tlb : List TlbEntry) (c : Ctx) : Nat → Nat → Nat → List (Nat × Nat) → List (Nat × Nat) × Option (Nat × Nat)
  | 0, _, _, acc => (acc, none)
  | fuel + 1, va, len, acc =>
    if len = 0 then (acc, none)
    else match tlbLeaf tlb c va 0 with
      | none => (acc, some (va, len))
      | some l =>
        let inside := va % 2 ^ 48 % l.size
        let n := min len (l.size - inside)
        rangeSteps tlb c fuel (va + n) (len - n) (acc ++ [(l.base + inside, n)])

/-- The number of steps that is always enough for a range. -/
def rangeFuel (len : Nat) : Nat := len / 4096 + 2

/-! ### The words -/

/-- Whether a store has to wait for an older access of one of its threads: to one of its lines, or a store not yet appended (R202,
R228). -/
def State.storeBehind (s : State) (o : MemOp) : Bool :=
  (o.lines.any fun l => s.behindOlder o l) || s.ops.any fun x =>
    decide (x.id < o.id) && x.kind == .store && x.wg = o.wg && x.threads.any fun t => t ∈ o.threads

/-- A store stays in the replay store with its entries, in a phase (R209): 1 it waits for room in the log and its threads with it,
2 it has its room and waits for an older access. -/
def State.storeHold (s : State) (o : MemOp) (phase : Nat) : State :=
  s.modOp o.id fun x =>
    { x with phase := phase, since := if x.phase = phase then x.since else s.clk,
             lines := x.lines.map fun l => { l with st := .held, entry := true } }

/-- The threads of an operation wait for it. -/
def State.blockThreads (s : State) (o : MemOp) : State :=
  s.modWg o.wg fun w => w.modThreads o.threads fun t => { t with wait := .blocked o.id }

/-- A checked store appends its records, or waits: for room in the log, for at most 256 clk and its threads with it (R209); with its
room reserved, for an older access or a place in the buffer (R202, R228); or first for replay entries (R20), in phase 3. -/
def State.storeGo (s : State) (o : MemOp) : State :=
  let recs := storeRecords o.lanes
  let room := o.phase = 2 || s.logRoom o.core o.id recs o.node
  let free := !s.storeBehind o && (s.log o.core).bufferRoom recs.length
  if room && free then ((((s.opPassed o).appendStore o).dropOp o.id).releaseHeld o.core)
  else if s.replayUsed o.core + (o.lines.filter fun l => !l.entry).length > 128 then
    (s.modOp o.id fun x => { x with phase := 3, lines := x.lines.map fun l => { l with st := .held } }).blockThreads o
  else if !room then
    let s := (s.storeHold o 1).blockThreads o
    if o.phase = 1 then s else s.post 256 (.logWaitExpiry o.id)
  else (s.storeHold o 2).opPassed o

/-- A store that is translated in every active lane (R205): it is checked before anything is appended. The lanes carry the data. -/
def State.storeReady (s : State) (o : MemOp) : State :=
  match s.writeCause o.lanes with
  | some (t, cause, bad) => s.opTrap o t (some (cause, true, bad))
  | none => s.storeGo o

/-- Stores that wait in the replay store of a core are looked at again, oldest first (R202, R209); one whose threads have not gone on
is checked again (R194), and one of a frozen master stays (R379). -/
def State.retryStores (s : State) (core : Nat) : State :=
  s.ops.foldl (fun s o =>
    if o.core = core && o.kind == .store && !s.frozenWg o.wg o.threads then
      match s.op? o.id with
      | some o => if o.phase = 0 then s else if o.phase = 2 then s.storeGo o else s.storeReady o
      | none => s
    else s) s

/-- The same on every core, after records have become DONE or VOID (R209). -/
def State.retryAllStores (s : State) : State :=
  (dedup ((s.ops.filter fun o => o.kind == .store && o.phase ≠ 0).map fun o => o.core)).foldl (fun (s : State) c => s.retryStores c) s

/-- The lanes of a word that addresses s_A of the lane's crew plus a per-lane offset (R67, R185). -/
def genericLanes (s : State) (is : Issue) (w : Wg) (act : List Nat) (a b : BitVec 7) (d : Nat) : List LaneAcc :=
  act.map fun t =>
    laneAcc t ((uniSrcAt s is w t a.toNat + (laneSrc s is w t b.toNat).1.signExtend 64).toNat)
      (match w.thread? t with | some x => x.reg d | none => 0) 0

/-- st (R205). -/
def execSt (g : BitVec 3) (d : BitVec 6) (a b : BitVec 7) (s : State) : Host.Outcome State Fault Refusal :=
  withGroup s fun is w =>
    let act := active is w g
    if act = [] then s.retire is w.id
    else
      let lanes := genericLanes s is w act a b d.toNat
      match addrCause lanes with
      | some (c, bad) => s.memFault is w g .memfault c true bad
      | none =>
        let o := { newOp s is w .store lanes none none false with latch := lostLatches s is w act [b] }
        if o.allTranslated then
          match s.writeCause o.lanes with
          | some (t, c, bad) => s.memFault is w g t c true bad
          | none => ((s.addOp o).retire is w.id).storeGo o
        else ((s.addOp o).block is w.id o.id).walkLines o

/-- logWaitExpiry: a store that has waited 256 clk for log room, and still finds none, takes LOGFULL (R209). -/
def execLogWaitExpiry (op : Nat) (s : State) : Host.Outcome State Fault Refusal :=
  match s.op? op with
  | some o =>
    if o.kind == .store && o.phase = 1 && decide (o.since + 256 ≤ s.clk) then
      .next (if s.logRoom o.core o.id (storeRecords o.lanes) o.node then s.storeReady o else s.opTrap o .logfull (some (15, true, [])))
    else .next s
  | none => .next s

/-- Records of a log not yet committed (R223). -/
def Log.uncommitted (l : Log) : Nat := (l.recs.filter fun r => r.live && !r.committed).length

/-- The value of a log query (R223); a directory that a resumed crew's records would overfill has its 8,192 entries in use (log entry
89). -/
def State.logQuery (s : State) (w : Wg) (a : Nat) : Nat :=
  let l := s.log w.core
  match a with
  | 0 => l.tail
  | 1 => l.head
  | 2 => l.tail - l.drained
  | 3 => l.uncommitted
  | 4 => min 8192 (s.dirLines w.core).length
  | 5 => l.nodes.length
  | 6 => match s.node? w.part w.node with | some n => n.taints.length | none => 0
  | _ => (decide (l.tail - l.head ≥ 78643)).toNat
      + (s.ops.any fun o => o.core = w.core && o.kind == .store && o.phase = 1).toNat * 2

/-- logq (R223): a query of 8 or more takes ILLOP at issue. -/
def execLogq (g : BitVec 3) (w : Bool) (d : BitVec 5) (a : BitVec 7) (s : State) : Host.Outcome State Fault Refusal :=
  withGroup s fun is wg =>
    let act := active is wg g
    if act = [] then s.retire is wg.id
    else
      let q := (uniSrc s is wg a.toNat).toNat
      if q ≥ 8 then s.trapHere is wg.id (trapping is wg g) .illop
      else
        s.finish is wg
          { s := if w then [] else (activeCrews is wg g).map fun c => (c, d.toNat, BitVec.ofNat 64 (s.logQuery wg q)) } 1

/-! ### rel and acq -/

/-- Operations of given threads still under way, older than one (R214, R232, R235): pref is in no class. -/
def State.olderOps (s : State) (wg : Nat) (threads : List Nat) (before : Nat) (p : OpKind → Bool) : List Nat :=
  (s.ops.filter fun o => o.wg = wg && decide (o.id < before) && p o.kind && o.threads.any fun t => t ∈ threads).map
    fun o => o.id

/-- The kinds that rel waits for: loads, atomics, reductions, and stores not yet appended (R214). -/
def OpKind.relWaits : OpKind → Bool
  | .load | .ldx | .atomic .. | .radd .. | .oadd | .done | .store | .stx => true
  | _ => false

/-- The kinds that acq waits for: older loads, atomics and window accesses, and releases (R232). -/
def OpKind.acqWaits : OpKind → Bool
  | .load | .ldx | .atomic .. | .radd .. | .oadd | .done | .rel _ | .empty => true
  | _ => false

/-- An operation on an object that acts once: its active threads as lanes, all at the object's address. -/
def onceOp (s : State) (is : Issue) (w : Wg) (g : BitVec 3) (kind : OpKind) (ea : Nat) : MemOp :=
  newOp s is w kind ((active is w g).map fun t => laneAcc t ea 0 0) none none false

/-- The causes an object address has at issue (R212): misaligned, not canonical. -/
def objAddrBad (ea : Nat) : Bool := ea % 32 ≠ 0 || !canonical ea

/-- The physical address of an operation's object. -/
def MemOp.objPa (o : MemOp) : Nat := match o.lanes with | l :: _ => l.pa.getD 0 | [] => 0

/-- Whether a load in place of the given threads is still to be written (R204, R232). -/
def State.localPending (s : State) (wg : Nat) (threads : List Nat) : Bool :=
  match s.wg? wg with
  | some w => w.pend.any fun p => p.mem.any fun t => t ∈ threads
  | none => false

/-- The releases of a core that wait for nothing but the drain look again in the next clk: the records of this clk's drain have left by
then (R207, R214). -/
def State.relsNext (s : State) (core : Nat) : State :=
  s.ops.foldl (fun s o =>
    match o.kind with
    | .rel _ =>
      if o.core = core && o.phase = 1 && decide (o.n ≤ (s.log core).drained) then
        o.lines.foldl (fun (s : State) l =>
          if l.st == .held || l.st == .walking then s.post 1 (.replayReissue o.id l.line) else s) s
      else s
    | _ => s) s

/-- The first wait of an object operation ends (R214, R232): rel takes T; acq waits for loads in place too, and looks again in each clk.
The request leaves once it has its translation and, of a release, in a clk after the buffer has drained up to T. -/
def State.objectGo (s : State) (o : MemOp) : State :=
  let acq := match o.kind with | .acq _ => true | _ => false
  let waits := if acq then OpKind.acqWaits else OpKind.relWaits
  if o.phase ≠ 0 || s.frozenWg o.wg o.threads || s.olderOps o.wg o.threads o.id waits ≠ [] then s
  else if acq && s.localPending o.wg o.threads then
    o.lines.foldl (fun (s : State) l => s.post 1 (.replayReissue o.id l.line)) s
  else
    let s := s.modOp o.id fun x => { x with phase := 1, n := (s.log o.core).tail, since := s.clk }
    (o.lines.foldl (fun (s : State) l =>
      match s.line? o.id l.line with
      | some (_, m) => if m.st == .held then s.sendLine o.id l.line else s
      | none => s) s).relsNext o.core

/-- Object operations of a core that wait for older accesses are looked at again. -/
def State.retryObjects (s : State) (core : Nat) : State :=
  s.ops.foldl (fun s o =>
    if o.core = core && o.kind.isObject then
      match s.op? o.id with
      | some o => if o.phase = 0 then s.objectGo o else s
      | none => s
    else s) s

/-- The workgroups that checkpoint together: the workgroup, or its heat (R222). -/
def State.together (s : State) (w : Wg) : List Wg :=
  match w.heat with
  | some h => s.wgs.filter fun x => x.heat = some h
  | none => s.wgs.filter fun x => x.id = w.id

/-- Whether every crew of the workgroups that run with one has exited, and no engine word and no memory word of theirs that has a
reply is outstanding (R303; log entry 27). -/
def State.batonOver (s : State) (w : Wg) : Bool :=
  let ws := s.together w
  ws.all fun x => x.threads.all (fun t => t.exited)
    && !(s.words.any fun e => e.wg = x.id)
    && !(s.ops.any fun o => o.wg = x.id && !o.kind.isPref)

/-- A baton whose last crew has exited and whose words have completed finishes (R303). -/
def State.finishDue (s : State) (wg : Nat) : State :=
  match s.wg? wg with
  | none => s
  | some w => if s.batonOver w then s.post 0 (.batonFinish w.part w.baton) else s

/-- Everything that may wait for an operation of a core and workgroup to end is looked at again. -/
def State.opEnded (s : State) (core wg : Nat) : State := (((s.releaseHeld core).retryStores core).retryObjects core).finishDue wg

/-- rel, tbfull and tbempty, acq: the word is sent on its way and the threads wait (R214, R215, R301). -/
def State.objectSend (s : State) (is : Issue) (w : Wg) (g : BitVec 3) (a : BitVec 7) (kind : OpKind) : State :=
  if active is w g = [] then s.retire is w.id
  else
    let ea := (uniSrc s is w a.toNat).toNat
    if objAddrBad ea then s.memFaultOnce is w g .memfault 14 false ea
    else
      let o := onceOp s is w g kind ea
      (o.lines.foldl (fun (s : State) l => s.sendLine o.id l.line) ((s.addOp o).block is w.id o.id)).objectGo o
def objectWord (s : State) (g : BitVec 3) (a : BitVec 7) (kind : OpKind) : Host.Outcome State Fault Refusal :=
  withGroup s fun is w => s.objectSend is w g a kind

/-- rel (R214). -/
def execRel (g : BitVec 3) (a : BitVec 7) (_sc : BitVec 3) (s : State) := objectWord s g a (.rel false)
/-- acq (R215). -/
def execAcq (g : BitVec 3) (a : BitVec 7) (_sc : BitVec 3) (s : State) := objectWord s g a (.acq false)

/-- The reply of a slice to an object operation, 40 clk after its request starts there and 220 more after a miss (R204, R224, R251);
a refusal carries its cause. -/
def State.objectReply (s : State) (o : MemOp) (fail : Option Nat) : State :=
  let s := s.modOp o.id fun x => { x with fail := fail, lines := x.lines.map fun l => { l with st := .returning } }
  o.lines.foldl (fun (s : State) l => s.sendRouter (40 + l.extra) o.id l.line true) s

/-- An object operation that its slice has refused traps at its word: MEMFAULT cause 14 or LOGFULL (R212, R214, R215). -/
def State.objectRefused (s : State) (o : MemOp) (cause : Nat) : State :=
  s.opTrap o (if cause = 15 then .logfull else .memfault) (some (cause, false, o.lanes.map fun l => (l.thread, l.ea)))

/-- What a release does at an object (R214): the range published and LASTREL written, or none when it has to bounce. -/
def publish (o : SyncObj) (core head upto : Nat) : Option SyncObj :=
  let mine := o.pubs.filter fun e => e.log = core
  let f := match mine.getLast? with | some e => e.upto | none => head
  let v := o.ver + 1
  let new : PubEntry := { log := core, from_ := f, upto := upto, ver := v, steps := [(upto, v)] }
  if f ≥ upto then some { o with ver := v, lastrel := core }
  else match o.pubs.getLast? with
    | some e =>
      if e.log = core then
        some { o with ver := v, lastrel := core, pubs := o.pubs.dropLast ++ [{ e with upto := upto, ver := v, steps := e.steps ++ [(upto, v)] }] }
      else if o.pubs.length < 64 then some { o with ver := v, lastrel := core, pubs := o.pubs ++ [new] }
      else none
    | none => some { o with ver := v, lastrel := core, pubs := [new] }

/-- A request is bounced: its owner's entry keeps it until the notice (R201). -/
def State.bounce (s : State) (op line delay cause : Nat) : State :=
  (s.modLine op line fun l => { l with st := .bounced }).post delay (.bounceNotice op line cause)

/-- An object operation bounces at its slice (R201, R214, R215). -/
def State.objectBounce (s : State) (o : MemOp) : State :=
  o.lines.foldl (fun (s : State) l => s.bounce o.id l.line (travel o.core (paSlice o.objPa)) 1) s

/-- Whether a release that bounces now has bounced at its slice for the fourth time while every entry of its object holds a record
of an uncommitted node (R214). -/
def State.releaseStuck (s : State) (o : MemOp) (b : SyncObj) : Bool :=
  (o.lines.any fun l => decide (l.bSlice ≥ 3)) && b.pubs.all fun e => (s.pubLive b e).any fun r => !r.committed

/-- The dispatcher looks for eligible batons and for room (R312). -/
def State.placeSoon (s : State) (part : Nat) : State :=
  if s.agenda.any fun e => e.1 = s.clk && e.2 == .batonPlacement part then s else s.post 0 (.batonPlacement part)

/-- FULL of a buffer set or cleared (R301): threads parked for it look again by their own condition, and the dispatcher does. -/
def State.setFull (s : State) (pa : Nat) (v : Bool) : State :=
  match s.obj? pa with
  | some o => (s.modObj pa fun o => { o with full := v }).placeSoon o.part
  | none => s

/-- releaseAtSlice: a release publishes at the object's home slice and replies, or bounces (R214); tbfull then sets FULL and
tbempty clears it (R301). One that has done so already, whose reply was dropped, only replies (R232). -/
def execReleaseAtSlice (op : Nat) (s : State) : Host.Outcome State Fault Refusal :=
  match s.op? op with
  | none => .next s
  | some o =>
    let did := fun (s : State) => (s.modOp op fun x => { x with b := 1 }).objectReply o none
    if o.b = 1 then .next (s.objectReply o o.fail)
    else match s.obj? o.objPa with
    | none => .next (s.objectReply o (some 14))
    | some b =>
      match o.kind with
      | .empty => if b.tile then .next (did (s.setFull b.pa false)) else .next (s.objectReply o (some 14))
      | .rel fill =>
        if fill && !b.tile then .next (s.objectReply o (some 14))
        else match publish b o.core (s.log o.core).head o.n with
          | none => if s.releaseStuck o b then .next (s.objectReply o (some 15)) else .next (s.objectBounce o)
          | some b' =>
            let s := (s.modObj b.pa fun _ => b').settlePubs
            .next (did (if fill then s.setFull b.pa true else s))
      | _ => .next s

/-- Every view cache of a partition drops its lines in ranges (R193, R211); the largest number that one core drops. -/
def State.dropViews (s : State) (part : Nat) (ranges : List (Nat × Nat)) : State :=
  (s.partCores part).foldl (fun s c => s.dropView c ranges) s
def State.mostViews (s : State) (part : Nat) (ranges : List (Nat × Nat)) : Nat :=
  (s.partCores part).foldl (fun n c => max n ((s.core c).viewCount ranges)) 0

/-- releaseReply: the threads go on, or take the trap of a refusal (R214). The completion of a word that parks is kept for its
reissue; a bind's is followed by the drop of view-cache lines, ⌈n ÷ 8⌉ clk (R211, R224, R249). -/
def execReleaseReply (op : Nat) (s : State) : Host.Outcome State Fault Refusal :=
  match s.op? op with
  | none => .next s
  | some o =>
    if o.phase = 2 && o.kind == .bind then
      let n := s.mostViews o.part o.ranges
      let s := s.dropViews o.part o.ranges
      .next (if n = 0 then s.modOp op fun x => { x with phase := 3 }
        else (s.modOp op fun x => { x with phase := 6 }).post ((n + 7) / 8) (.releaseReply op))
    else if o.phase = 2 ∨ o.phase = 6 then .next (s.modOp op fun x => { x with phase := 3 })
    else match o.fail with
      | some cause => .next ((s.objectRefused o cause).opEnded o.core o.wg)
      | none => .next (((s.dropOp op).unblock o.wg op).opEnded o.core o.wg)

/-- logBufferDrain: up to four records of the buffer, appended before this clk and in paired mode compared, leave for the ring in record
order (R207, R384); releases and stores that waited for the buffer go on. -/
def execLogBufferDrain (core : Nat) (s : State) : Host.Outcome State Fault Refusal :=
  let l := s.log core
  let wait := 1 + s.comparator (s.partOf core)
  let out := ((l.recs.filter fun r => decide (l.drained ≤ r.num)).take 4).takeWhile fun r => decide (r.since + wait ≤ s.clk)
  let d := l.drained + out.length
  let s := if out = [] then s else
    let s := (s.ringSend core out).modLog core fun l => { l with drained := d }.trim
    (s.releaseHeld core).retryStores core |>.retryObjects core |>.relsNext core
  .next (if d < (s.log core).tail then s.post 1 (.logBufferDrain core) else s)

/-- The producers an acquire is tainted by: nodes of entries that hold records neither committed nor VOID (R215). -/
def State.producers (s : State) (b : SyncObj) (self : Nat) : List Nat :=
  dedup ((b.pubs.flatMap fun e => (s.pubLive b e).filter fun r => !r.committed && r.node ≠ self).map fun r => r.node)

/-- acquireAtSlice: VER and the producers are taken, or the acquire bounces on taint overflow (R215). -/
def execAcquireAtSlice (op : Nat) (s : State) : Host.Outcome State Fault Refusal :=
  match s.op? op with
  | none => .next s
  | some o =>
    match s.obj? o.objPa, s.wg? o.wg with
    | some b, some w =>
      if (match o.kind with | .acq tile => tile && !b.tile | _ => false) then .next (s.objectReply o (some 14))
      else
        let all := match s.node? w.part w.node with
          | some n => dedup (n.taints ++ s.producers b w.node)
          | none => s.producers b w.node
        if all.length > 4 then .next (s.objectBounce o)
        else
          let s := s.modNode w.part w.node fun n => { n with taints := all }
          .next ((s.modOp op fun x => { x with n := b.ver }).objectReply o none)
    | _, _ => .next (s.objectReply o (some 14))

/-- An acquire table with an object's AV put in (R215): none when a 65th object finds no entry to evict. -/
def State.acqFill (s : State) (tbl : List AcqEntry) (obj av wg : Nat) : Option (List AcqEntry × Option Nat) :=
  let rest := tbl.filter fun a => a.obj ≠ obj
  let old := match tbl.find? fun a => a.obj = obj with | some a => a.wgs | none => []
  let e : AcqEntry := { obj := obj, av := av, used := s.clk, wgs := dedup (wg :: old) }
  if rest.length < 64 then some (rest ++ [e], none)
  else
    match (sortBy (fun a => a.used) rest).find? fun a =>
        match s.obj? a.obj with
        | some o => o.pubs.all fun p => p.ver > a.av || (s.pubLive o p).all fun r => r.committed
        | none => true with
    | some v => some ((rest.filter fun a => a.obj ≠ v.obj) ++ [e], some v.obj)
    | none => none

/-- acquireReply: a refusal traps; else the core drops its lines of the object's regions, in ⌈n ÷ 8⌉ clk, and the acquire table takes
AV (R215, R224). -/
def execAcquireReply (op : Nat) (s : State) : Host.Outcome State Fault Refusal :=
  match s.op? op with
  | none => .next s
  | some o =>
    match o.fail with
    | some cause => .next ((s.objectRefused o cause).opEnded o.core o.wg)
    | none =>
      let ranges := match s.obj? o.objPa with | some b => b.ranges | none => []
      let n := (s.core o.core).viewCount ranges
      if o.phase ≠ 2 ∧ n ≠ 0 then .next ((s.modOp op fun x => { x with phase := 2 }).post ((n + 7) / 8) (.acquireReply op))
      else match s.acqFill (s.core o.core).acq o.objPa o.n o.wg with
        | none => .next ((s.modOp op fun x => { x with phase := 2 }).post 1 (.acquireReply op))
        | some (tbl, gone) =>
          let ranges := ranges ++ (match gone with | some g => (match s.obj? g with | some b => b.ranges | none => []) | none => [])
          let s := (s.dropView o.core ranges).modCore o.core fun k => { k with acq := tbl }
          .next (((s.dropOp op).unblock o.wg op).opEnded o.core o.wg)

/-! ### bind, unbind, seal, unseal -/

/-- The records that stores of a partition which wait for an older access will append (R194, R209). -/
def State.heldRecords (s : State) (part : Nat) : List Record :=
  (s.ops.filter fun o => o.part = part && o.kind == .store && o.phase = 2).flatMap fun o =>
    (storeRecords o.lanes).map fun r =>
      { num := 0, wg := o.wg, wm := r.2.1, gran := r.1, words := r.2.2, nslot := 0, node := o.node, committed := false, void := false,
        done := false, since := o.since }

/-- Whether a live record of any log of a partition lies in ranges, or will. -/
def State.recordIn (s : State) (part : Nat) (ranges : List (Nat × Nat)) (p : Record → Bool) : Bool :=
  let hit := fun (r : Record) => r.live && p r && ranges.any fun x => x.1 ≤ r.gran * 32 && r.gran * 32 < x.1 + x.2
  ((s.partCores part).any fun c => (s.log c).recs.any hit) || (s.heldRecords part).any hit

/-- What a region word meets at its issue: a page of its object to walk, a fault, a range whose pages are to be translated for an
object, or nothing to wait for (R212, R413). -/
inductive RegionStep where
  | walk (va perm : Nat)
  | fault (t : Trap) (cause : Nat) (write : Bool) (addr : Nat)
  | pages (obj base len : Nat)
  | ok (obj : Nat) (ranges : List (Nat × Nat))
deriving DecidableEq, Repr

/-- The object address of a region word, translated by the TLB or to be walked (R211, R212). -/
def State.objectStep (s : State) (w : Wg) (obj : Nat) : RegionStep :=
  if objAddrBad obj then .fault .memfault 14 false obj
  else match tlbFind (s.core w.core).tlb w.ctx obj 0 with
    | none => .walk obj 0
    | some pa => if isHbm pa then .ok pa [] else .fault .memfault 14 false obj

/-- Whether a range has a canonical base and a canonical last byte (R181, R212). R193 asks it of the base; that a seal range whose last
byte is not canonical fails the same way is the model's choice (log entry 96). -/
def rangeCanonical (base len : Nat) : Bool := canonical base && canonical (base + len - 1) && decide (base + len ≤ 2 ^ 64)

/-- The checks of bind before its range is translated (R211, R212). -/
def State.bindStep (s : State) (w : Wg) (base len obj : Nat) : RegionStep :=
  if base % 32 ≠ 0 ∨ len % 32 ≠ 0 ∨ len < 32 ∨ len > 2 ^ 40 ∨ !rangeCanonical base len then .fault .memfault 14 false base
  else match s.objectStep w obj with
    | .ok opa _ => .pages opa base len
    | x => x

/-- The checks of bind on the physical ranges (R212, R413): the address that MFADDR names, or none. -/
def State.bindBad (s : State) (w : Wg) (opa base obj : Nat) (ranges : List (Nat × Nat)) : Option Nat :=
  let regions := (s.objs.filter fun o => o.part = w.part).flatMap fun o => o.regions
  let old := match s.obj? opa with | some o => o.regions.length | none => 0
  if ranges.any fun x => !isHbm (x.1 + x.2 - 1) then some base
  else if regions.any fun r => rangesMeet r.ranges ranges then some base
  else if old ≥ 16 ∨ regions.length ≥ 4096 then some obj
  else none

/-- The check of seal before its range is translated (R193, R195). -/
def sealStep (base len : Nat) : RegionStep :=
  if base % 65536 ≠ 0 ∨ len % 65536 ≠ 0 ∨ len < 65536 ∨ len > 2 ^ 40 ∨ !rangeCanonical base len then .fault .sealedFault 9 false base
  else .pages 0 base len

/-- The checks of seal before its first step (R195), in the order of the causes. -/
def State.sealBad (s : State) (w : Wg) (ranges : List (Nat × Nat)) : Option Nat :=
  let seals := match s.part? w.part with | some p => p.seals | none => []
  if ranges.any fun x => !isHbm (x.1 + x.2 - 1) then some 9
  else if seals.any fun r => rangesMeet r.ranges ranges then some 10
  else if seals.length ≥ 64 then some 11
  else if s.recordIn w.part ranges fun r => !r.committed && r.node = w.node then some 12
  else none

/-- A sync object in its first state (R210, R211). -/
def SyncObj.fresh (pa part : Nat) (tile : Bool) : SyncObj :=
  { pa := pa, part := part, tile := tile, full := false, claimed := none, regions := [], pubs := [], ver := 0, cver := 0,
    lastrel := 0xFFFFFFFF }

/-- The operation that a parked word keeps, by the number its threads hold (R412). -/
def State.markedOp (s : State) (is : Issue) (w : Wg) : Option MemOp :=
  match issueMark is w with | some m => s.op? m | none => none

/-- A region word parks while the page of its object is walked; it issues again when the TLB holds it. -/
def State.regionWalk (s : State) (is : Issue) (w : Wg) (g : BitVec 3) (kind : OpKind) (va perm : Nat) : State :=
  let o := { onceOp s is w g kind va with lines := [], a := va }
  (((s.addOp o).startWalk w.core w.ctx va perm (.range o.id (va / 4096))).parkMark is w.id (.opEnd o.id) o.id)

/-- A region word parks while the pages of its range are translated one after the other, in phase 5 (R413): those it has, and the
address and length that are left. -/
def State.regionPages (s : State) (is : Issue) (w : Wg) (g : BitVec 3) (kind : OpKind) (obj : Nat) (had : List (Nat × Nat))
    (va left : Nat) : State :=
  let o := { onceOp s is w g kind va with lines := [], a := va, n := left, c := obj, ranges := had, phase := 5 }
  (((s.addOp o).startWalk w.core w.ctx va 0 (.range o.id (va / 4096))).parkMark is w.id (.opEnd o.id) o.id)

/-- A walked page lets the translation of a range go on; when it is whole the word issues again, in phase 4 (R413). -/
def State.rangeGo (s : State) (o : MemOp) : State :=
  let r := rangeSteps (s.core o.core).tlb o.ctx (rangeFuel o.n) o.a o.n o.ranges
  match r.2 with
  | none => s.modOp o.id fun x => { x with phase := 4, ranges := mergeRanges r.1, n := 0 }
  | some (va, left) =>
    (s.modOp o.id fun x => { x with a := va, n := left, ranges := r.1 }).startWalk o.core o.ctx va 0 (.range o.id (va / 4096))

/-- A region word parks with what it has translated, in a phase. -/
def State.regionPark (s : State) (is : Issue) (w : Wg) (g : BitVec 3) (kind : OpKind) (m : Option MemOp) (phase obj : Nat)
    (ranges : List (Nat × Nat)) (c : PCond) : State :=
  match m with
  | some o => (s.modOp o.id fun x => { x with phase := phase }).park is w.id c
  | none =>
    let o := { onceOp s is w g kind 0 with lines := [], c := obj, ranges := ranges, phase := phase }
    (s.addOp o).parkMark is w.id c o.id

/-- A region word whose effect is made parks for the time of its completion; its threads issue the word again in the last clk
of that time, and their next group behind it (R99, R224). -/
def State.settleIn (s : State) (is : Issue) (w : Wg) (g : BitVec 3) (kind : OpKind) (m : Option MemOp) (ranges : List (Nat × Nat))
    (delay : Nat) : State :=
  let s := match m with | some o => s.dropOp o.id | none => s
  let o := { onceOp s is w g kind 0 with lines := [], phase := 2, ranges := ranges }
  (((s.addOp o).post (delay - 1) (.releaseReply o.id)).parkMark is w.id (.opEnd o.id) o.id)

/-- A region word ends in a fault of its own checks; what it has kept goes. -/
def State.regionFault (s : State) (is : Issue) (w : Wg) (g : BitVec 3) (m : Option MemOp) (t : Trap) (cause addr : Nat) : State :=
  (match m with | some o => s.dropOp o.id | none => s).memFaultOnce is w g t cause false addr

/-- The frame every region word shares (R211, R412, R413): it acts once; a page whose walk failed ends it with DENIED; a
completion that has come lets it go on; a page to walk parks it; otherwise it acts. -/
def regionWord (s : State) (g : BitVec 3) (kind : OpKind) (check : Wg → Issue → RegionStep)
    (act : Issue → Wg → Option MemOp → Nat → List (Nat × Nat) → State) : Host.Outcome State Fault Refusal :=
  withGroup s fun is w =>
    if active is w g = [] then s.retire is w.id
    else
      match s.markedOp is w with
      | some o =>
        match o.fail with
        | some cause => (s.dropOp o.id).memFaultOnce is w g .memfault cause (kind.perm = 1 && cause ≠ 14) o.a
        | none =>
          if o.phase = 3 then (s.dropOp o.id).retire is w.id
          else if o.phase = 2 ∨ o.phase = 5 ∨ o.phase = 6 then s.park is w.id (.opEnd o.id)
          else act is w (some o) o.c o.ranges
      | none =>
        match check w is with
        | .walk va perm => s.regionWalk is w g kind va perm
        | .fault t cause write addr => s.memFaultOnce is w g t cause write addr
        | .pages obj base len =>
          let r := rangeSteps (s.core w.core).tlb w.ctx (rangeFuel len) base len []
          match r.2 with
          | none => act is w none obj (mergeRanges r.1)
          | some (va, left) => s.regionPages is w g kind obj r.1 va left
        | .ok opa ranges => act is w none opa ranges

/-- bind (R211): it waits until no live record lies in the range and enters the region; when every copy holds it, every view cache
drops its lines of the range. -/
def execBind (g : BitVec 3) (n : BitVec 5) (a : BitVec 7) (s : State) : Host.Outcome State Fault Refusal :=
  regionWord s g .bind
    (fun w is => s.bindStep w (uniS is w n.toNat).toNat (uniS is w (n.toNat + 1)).toNat (uniSrc s is w a.toNat).toNat)
    (fun is w m opa ranges =>
      match s.bindBad w opa (uniS is w n.toNat).toNat (uniSrc s is w a.toNat).toNat ranges with
      | some addr => s.regionFault is w g m .memfault 14 addr
      | none =>
        if s.recordIn w.part ranges fun _ => true then s.regionPark is w g .bind m 4 opa ranges (.clear w.part ranges)
        else
          let r : Region := { base := (uniS is w n.toNat).toNat, len := (uniS is w (n.toNat + 1)).toNat, ctx := w.ctx,
                              ranges := ranges }
          let s := match s.obj? opa with
            | some _ => s
            | none => { s with objs := s.objs ++ [SyncObj.fresh opa w.part false] }
          (s.modObj opa fun o => { o with regions := o.regions ++ [r] }).settleIn is w g .bind m ranges 200)

/-- A region leaves its object; an object with no region and no entry ceases to be one, its image memory holding zero
(R211). -/
def State.unbindRegion (s : State) (opa : Nat) (r : Region) : State :=
  let s := s.modObj opa fun o => { o with regions := o.regions.filter fun x => x ≠ r }
  match s.obj? opa with
  | some o =>
    if o.regions = [] ∧ o.pubs = [] then
      { s with objs := s.objs.filter fun x => x.pa ≠ opa, mem := s.mem.setWords opa (List.replicate 8 0) }
    else s
  | none => s

/-- unbind (R211): it translates no range, and finds its entry by what bind recorded (R224, R413); its object's own address is translated
as bind's is, its threads parked while a page is walked for (log entry 90). -/
def execUnbind (g : BitVec 3) (n : BitVec 5) (a : BitVec 7) (s : State) : Host.Outcome State Fault Refusal :=
  let same := fun (is : Issue) (w : Wg) (r : Region) =>
    r.base = (uniS is w n.toNat).toNat && r.len = (uniS is w (n.toNat + 1)).toNat && r.ctx = w.ctx
  regionWord s g .unbind
    (fun w is =>
      let obj := (uniSrc s is w a.toNat).toNat
      match s.objectStep w obj with
      | .ok opa _ =>
        match (match s.obj? opa with | some o => o.regions.find? (same is w) | none => none) with
        | some r => .ok opa r.ranges
        | none => .fault .memfault 14 false (uniS is w n.toNat).toNat
      | x => x)
    (fun is w m opa ranges =>
      match s.obj? opa with
      | none => s.retire is w.id
      | some o =>
        if o.pubs.any fun e => (s.pubLive o e).any fun r => ranges.any fun x => x.1 ≤ r.gran * 32 && r.gran * 32 < x.1 + x.2
        then s.park is w.id (.unpublished opa ranges)
        else match o.regions.find? (same is w) with
          | some r => (s.unbindRegion opa r).settleIn is w g .unbind m [] 200
          | none => s.retire is w.id)

/-- seal (R193): step 1 enters the region and is kept, in phase 1, while the word waits; the view caches drop the region last. -/
def execSeal (g : BitVec 3) (n : BitVec 5) (s : State) : Host.Outcome State Fault Refusal :=
  regionWord s g .sealOp
    (fun w is => sealStep (uniS is w n.toNat).toNat (uniS is w (n.toNat + 1)).toNat)
    (fun is w m _ ranges =>
      let base := (uniS is w n.toNat).toNat
      let done := fun (s : State) =>
        (((match m with | some o => s.dropOp o.id | none => s).dropViews w.part ranges).retire is w.id)
      if (match m with | some o => decide (o.phase = 1) | none => false) then
        if s.recordIn w.part ranges fun _ => true then s.park is w.id (.clear w.part ranges) else done s
      else match s.sealBad w ranges with
        | some cause => s.regionFault is w g m .sealedFault cause base
        | none =>
          let r : Region := { base := base, len := (uniS is w (n.toNat + 1)).toNat, ctx := w.ctx, ranges := ranges }
          let s := s.modPart w.part fun p => { p with seals := p.seals ++ [r] }
          if s.recordIn w.part ranges fun _ => true then s.regionPark is w g .sealOp m 1 0 ranges (.clear w.part ranges)
          else done s)

/-- unseal (R194). -/
def execUnseal (g : BitVec 3) (n : BitVec 5) (s : State) : Host.Outcome State Fault Refusal :=
  withGroup s fun is w =>
    if active is w g = [] then s.retire is w.id
    else
      let base := (uniS is w n.toNat).toNat
      let hit := fun (r : Region) => r.base = base && r.len = (uniS is w (n.toNat + 1)).toNat && r.ctx = w.ctx
      let seals := match s.part? w.part with | some p => p.seals | none => []
      if seals.any hit then
        (s.modPart w.part fun p => { p with seals := p.seals.filter fun r => !hit r }).retire is w.id
      else s.memFaultOnce is w g .sealedFault 13 false base

/-! ### chkpt -/

/-- Whether every live crew of the workgroups is parked for a checkpoint or a park of the whole crew, but for the threads
given. -/
def crewsParked (ws : List Wg) (c : PCond) (but : Nat → Nat → Bool) : Bool :=
  ws.all fun x => (List.range x.crews.length).all fun k => (x.live k).all fun t =>
    but x.id t || (match x.thread? t with | some y => y.wait == .parked c | none => true)

/-- Records of a node in the logs of cores become committed (R222). -/
def State.commitRecords (s : State) (cores : List Nat) (part node : Nat) : State :=
  cores.foldl (fun s c => s.modLog c fun l =>
    { l with recs := l.recs.map fun r => if r.node = node ∧ s.corePart c = s.part? part then { r with committed := true } else r }) s

end Sys2Proof.Machine
end

