-- ==== Sys2Proof/Machine/Commit.lean ====
section
/-! DEFINITION. The commit of nodes and the slice compactors (R218, R219). -/

namespace Sys2Proof.Machine

/-- The read of a committed record from its ring by the compactor of its slice, which begins four of them in a clk (R219). -/
def State.readRecord (s : State) (core : Nat) (r : Record) : State :=
  let h := paSlice (r.gran * 32)
  match s.ringPlace core r.num with
  | none => s.post 80 (.compactorApply core r.num)
  | some a =>
    let n := max (s.slice h).reads (4 * s.clk)
    let o := { bareOp s .compact core (s.partOf core) r.node { func := 0, s1 := 0, s2 := 0 } core r.num [lineReq (a / 128) a (some a) []]
      with c := h, lines := [{ lineReq (a / 128) a (some a) [] with st := .bounced }] }
    (((s.addOp o).charge core 1).modSlice h fun x => { x with reads := n + 1 }).post (n / 4 - s.clk) (.replayReissue o.id (a / 128))

/-- The compactors begin to read the records of a node that lie committed in the logs of cores (R219). -/
def State.startCompaction (s : State) (cores : List Nat) (node : Nat) : State :=
  cores.foldl (fun s c =>
    ((s.log c).recs.filter fun r => r.live && r.committed && r.node = node).foldl (fun (s : State) r => s.readRecord c r) s) s

/-- A node that has no live baton and no taint is due to commit 40 clk later (R218). -/
def State.commitDue (s : State) (part node : Nat) : State :=
  match s.node? part node with
  | some n => if n.live = 0 ∧ n.taints = [] then s.post 40 (.nodeCommit part node) else s
  | none => s

/-- Whether a grid is over: every initial baton formed and no baton left (R365). -/
def State.gridOver (s : State) (g : Grid) : Bool := decide (g.nextWg ≥ g.count) && !(s.batons.any fun b => b.grid = g.id)

/-- The LAUNCH packets of grids of a partition that are over complete (R365). -/
def State.gridsOver (s : State) (part : Nat) : State :=
  (s.grids.filter fun g => g.part = part && s.gridOver g).foldl (fun (s : State) g => s.post 0 (.packetComplete g.qcb g.packet 0)) s

/-- nodeCommit (R218): the node's records become compactable, its number is free, and nodes it tainted may commit. -/
def execNodeCommit (part node : Nat) (s : State) : Host.Outcome State Fault Refusal :=
  match s.node? part node with
  | none => .next s
  | some n =>
    if n.live ≠ 0 ∨ n.taints ≠ [] then .next s
    else
      let cores := (s.partCores part).filter fun c => (s.log c).recs.any fun r => r.node = node
      let s := (s.commitRecords cores part node).startCompaction cores node
      let freed := (s.nodes.filter fun x => x.part = part && node ∈ x.taints).map fun x => x.num
      let s := { s with
        batons := s.batons.filter fun (b : Baton) => !(b.part = part && b.node = node)
        nodes := (s.nodes.filter fun (x : Node) => !(x.part = part && x.num = node)).map fun (x : Node) =>
          if x.part = part then { x with taints := x.taints.filter fun t => t ≠ node } else x
        results := s.results.filter fun r => !(r.part = part && r.node = node && decide (r.req.1 ≥ 1024))
        joins := s.joins.filter fun j => !(j.node = node && s.sectorPart (paSector j.pa) = s.part? part) }
      .next (((freed.foldl (fun s m => s.commitDue part m) s).gridsOver part).placeSoon part)

/-- Whether a committed record has to wait for another one to the same granule (R219): an older one of its log, or one that
comes before it in replay order under its object. -/
def State.mustWait (s : State) (core : Nat) (r : Record) : Bool :=
  ((s.log core).recs.any fun x => x.live && decide (x.num < r.num) && x.gran = r.gran)
    || match s.regionObj (r.gran * 32) with
      | none => false
      | some o =>
        match o.pubs.find? fun e => e.log = core && e.from_ ≤ r.num && r.num < e.upto with
        | none => false
        | some e => o.pubs.any fun p => decide (p.ver < e.ver) && (s.pubLive o p).any fun x => x.gran = r.gran

/-- compactorApply (R219, R404): the record's words go to the home line and the record is DONE, one record of a slice per clk and behind
what else the slice takes in it. A record that has to wait, and one whose order against another log's the rule leaves open (R217), is
looked at again in the next clk. -/
def execCompactorApply (core seq : Nat) (s : State) : Host.Outcome State Fault Refusal :=
  match (s.log core).recs.find? fun r => r.num = seq with
  | none => .next s
  | some r =>
    let h := paSlice (r.gran * 32)
    if !r.live || !r.committed then .next s
    else if s.mustWait core r || decide ((s.slice h).compact > s.clk) then .next (s.post 1 (.compactorApply core seq))
    else match s.takeStart h with
    | none => .next (s.post 1 (.compactorApply core seq))
    | some s1 =>
      let rival := s.allRecords.any fun x => x.1 ≠ core && x.2.live && x.2.committed && x.2.gran = r.gran
      let later := rival && Config.freeChoice s.free
      if later then .next (s.takeFree.post 1 (.compactorApply core seq))
      else
        let s := if rival then s1.takeFree else s1
        let s := (List.range 8).foldl (fun (s : State) w =>
          if r.wm.getLsbD w then s.setHome (r.gran * 32 + 4 * w) (r.words.getD w 0) else s) s
        let s := (s.charge core 1).modSlice h fun x => { x with compact := s.clk + 1 }
        let s := ((s.sliceFill (r.gran * 32)).ringHeader core { r with done := true }).modLog core fun l =>
          { l with recs := l.recs.map fun x => if x.num = seq then { x with done := true } else x }
        .next (s.settleLogs.retryAllStores.retryObjects core)

end Sys2Proof.Machine
end

