-- ==== Sys2Proof/Machine/Atomic.lean ====
section
/-! DEFINITION. Atomics, slice reductions and ordered accumulators (majors 0x62 to 0x65, R240 to R251): the words, and
what a slice does with a line request, exactly once (R246). -/

namespace Sys2Proof.Machine

/-- The f32 addition of a slice (R244). -/
def sliceAdd (f32 : Bool) (x y : Word32) : Word32 × BitVec 8 := if f32 then f32Add plainMode x y else (x + y, 0)

/-- The new value of an atomic (R243): operation code of R46, type 0 i32, 1 n32, 2 f32. -/
def atomicOp (op : Nat) (ty : Nat) (old x y : Word32) : Word32 × BitVec 8 :=
  match op with
  | 0 => sliceAdd (ty = 2) old x
  | 1 => if ty = 2 then ((f32MinMax false false old x).1, (f32MinMax false false old x).2 &&& flNV)
         else (if (if ty = 1 then x.ult old else x.slt old) then x else old, 0)
  | 2 => if ty = 2 then ((f32MinMax true false old x).1, (f32MinMax true false old x).2 &&& flNV)
         else (if (if ty = 1 then old.ult x else old.slt x) then x else old, 0)
  | 3 => (old &&& x, 0)
  | 4 => (old ||| x, 0)
  | 5 => (old ^^^ x, 0)
  | 6 => (x, 0)
  | 7 => (if old = x then y else old, 0)
  | _ => (if x.ule old then 0 else old + 1, 0)

/-- The lanes of an operation that a line request serves, in ascending order (R414). -/
def MemOp.lineLanes (o : MemOp) (line : Nat) : List LaneAcc :=
  sortBy (fun l => l.thread) (o.lanes.filter fun l => l.ea / 128 = line)

/-- A crew's flags from a slice. -/
abbrev LaneOut := List (Nat × Word32) × List (Nat × BitVec 8)

/-- Contributions pending on a word, in ascending key; those with equal keys, of two workgroups of a core, in the order in which they
came (R247; log entry 92). -/
def State.pendingOn (s : State) (pa : Nat) : List Contribution :=
  sortBy (fun c => ((c.req.1 * 256 + c.crew) * 64 + c.lane) * 2 ^ 40 + c.order) (s.contribs.filter fun c => c.pa = pa)

/-- A flush of one word (R247): its pending contributions are added in key order and freed. -/
def State.flushWord (s : State) (pa : Nat) : State × BitVec 8 :=
  let cs := s.pendingOn pa
  let r := cs.foldl (fun (acc : Word32 × BitVec 8) c =>
    let x := sliceAdd c.f32 acc.1 c.val
    (x.1, acc.2 ||| x.2)) (s.homeWord pa, 0)
  ({ s.setHome pa r.1 with contribs := s.contribs.filter fun c => c.pa ≠ pa }, r.2)

/-- An ordered accumulator that has all its contributions writes its sum in key order; then its bytes hold the image, DONE, with its
TYPE as it was (R250; log entry 95). -/
def State.sumAcc (s : State) (a : OrdAcc) : State :=
  let r := (sortBy (fun (x : Held) => x.key) a.held).foldl (fun (acc : Word32 × BitVec 8) x =>
    let y := sliceAdd a.f32 acc.1 x.val
    (y.1, acc.2 ||| y.2)) (0, 0)
  let b := { a with done := true, nv := a.nv || r.2.getLsbD 0, ovf := a.ovf || r.2.getLsbD 1 }
  let s := { s.setHome a.resultPa r.1 with ordAccs := s.ordAccs.filter fun x => x.pa ≠ a.pa }
  (List.range 8).foldl (fun (s : State) k => s.setHome (a.pa + 4 * k) (b.imageWord k)) s

/-- One lane's contribution to the ordered accumulator in whose bytes its address lies (R250; log entry 95); REDERR when it is
discarded. -/
def State.contribute (s : State) (pa : Nat) (h : Held) : State × BitVec 8 :=
  match s.ordAccs.find? fun a => a.pa / 32 = pa / 32 && !a.done with
  | none => (s, flREDERR)
  | some a =>
    if a.held.any fun x => x.key = h.key then
      ({ s with ordAccs := mapIf (fun x => x.pa = a.pa) (fun x => { x with err := true }) s.ordAccs }, flREDERR)
    else
      let b := { a with held := a.held ++ [h] }
      let s := { s with ordAccs := mapIf (fun x => x.pa = a.pa) (fun _ => b) s.ordAccs }
      (if b.held.length = b.n then s.sumAcc b else s, 0)

/-- A join counter's decrement (R300): never below 0; the slice keeps a join record for the node. -/
def State.decrement (s : State) (pa node : Nat) (req : Nat × Nat) (thread : Nat) : State × Word32 :=
  let old := s.homeWord pa
  let s := if old = 0 then s else (s.setHome pa (old - 1))
  (if old = 0 then s else { s with joins := s.joins ++ [{ pa := pa, node := node, req := req, thread := thread }] }, old)

/-- The nodes with join records on a counter taint the node of a waiter that the counter wakes, a baton or an unexpanded grid (R300). -/
def State.joinTaints (s : State) (w : Waiter) : State :=
  let own := match s.baton? w.baton with
    | some b => some b.node
    | none => (s.grid? w.baton).map fun (g : Grid) => g.node
  match own with
  | none => s
  | some n =>
    let from_ := dedup ((s.joins.filter fun j => j.pa = w.pa && decide (j.node ≠ n)).map fun j => j.node)
    s.modNode w.part n fun x => { x with taints := dedup (x.taints ++ from_) }

/-- The waiters that are registered on a join counter that has reached 0 are woken: the nodes that counted it down taint theirs, and the
dispatcher is told in a number of clk (R300, R312). -/
def State.wakeJoin (s : State) (part pa delay : Nat) : State :=
  let told := fun (x : Waiter) => if x.pa = pa ∧ x.due = none then { x with due := some (s.clk + delay) } else x
  let s := (s.waiters.filter fun x => x.pa = pa && x.due.isNone).foldl (fun (s : State) x => s.joinTaints x) s
  { s with waiters := s.waiters.map told }.post delay (.joinWake part pa)

/-- The key of a line request that stands for a thread of it (R246). -/
def LineReq.keyOf (l : LineReq) (n thread : Nat) : Nat × Nat :=
  match l.keys.find? fun k => k.crew = none || k.crew = some (thread / n) with | some k => (k.c, k.s) | none => (0, 0)

/-- What a line request does at its slice, lane by lane (R243, R247, R250, R300). Flags are named by thread; a word that several lanes
flush is flushed for the lowest (log entry 93). -/
def State.applyLine (s : State) (o : MemOp) (req : LineReq) (lanes : List LaneAcc) : State × LaneOut :=
  match o.kind with
  | .atomic op ty =>
    lanes.foldl (fun (acc : State × LaneOut) (l : LaneAcc) =>
      let pa := l.pa.getD 0
      let old := acc.1.homeWord pa
      let r := atomicOp op.toNat ty.toNat old l.x l.y
      (acc.1.setHome pa r.1, acc.2.1 ++ [(l.thread, old)], acc.2.2 ++ [(l.thread, r.2)])) (s, [], [])
  | .radd 0 f32 =>
    lanes.foldl (fun (acc : State × LaneOut) (l : LaneAcc) =>
      let pa := l.pa.getD 0
      let r := sliceAdd f32 (acc.1.homeWord pa) l.x
      (acc.1.setHome pa r.1, acc.2.1, acc.2.2 ++ [(l.thread, r.2)])) (s, [], [])
  | .radd 1 f32 =>
    lanes.foldl (fun (acc : State × LaneOut) (l : LaneAcc) =>
      let pa := l.pa.getD 0
      if acc.1.contribs.any fun c => c.pa = pa && c.f32 != f32 then (acc.1, acc.2.1, acc.2.2 ++ [(l.thread, flREDERR)])
      else
        let mine := acc.1.contribs.filter fun c => c.pa = pa && c.wg = o.wg && c.crew = l.thread / o.n && c.lane = l.thread % o.n
        let c : Contribution :=
          { pa := pa, req := req.keyOf o.n l.thread, thread := l.thread, wg := o.wg, crew := l.thread / o.n, lane := l.thread % o.n, order := mine.length, f32 := f32,
            node := o.node, val := l.x }
        ({ acc.1 with contribs := acc.1.contribs ++ [c] }, acc.2)) (s, [], [])
  | .radd _ _ =>
    lanes.foldl (fun (acc : State × LaneOut) (l : LaneAcc) =>
      let r := acc.1.flushWord (l.pa.getD 0)
      (r.1, acc.2.1, acc.2.2 ++ [(l.thread, r.2)])) (s, [], [])
  | .oadd =>
    lanes.foldl (fun (acc : State × LaneOut) (l : LaneAcc) =>
      let r := acc.1.contribute (l.pa.getD 0) { key := l.y.toNat % 0x4000000 * 64 + l.thread % o.n, node := o.node, val := l.x,
                                                req := req.keyOf o.n l.thread, thread := l.thread }
      (r.1, acc.2.1, acc.2.2 ++ [(l.thread, r.2)])) (s, [], [])
  | .done =>
    match lanes with
    | l :: _ => let r := s.decrement (l.pa.getD 0) o.node (req.keyOf o.n l.thread) l.thread; (r.1, [(l.thread, r.2)], [])
    | [] => (s, [], [])
  | _ => (s, [], [])

/-- The time a line request takes at its slice (R251); full is the number of contributions that an oadd has completed. -/
def State.serviceTime (s : State) (o : MemOp) (lanes : List LaneAcc) (full : Nat) : Nat :=
  match o.kind with
  | .radd 2 _ => 40 + ((dedup (lanes.map fun l => l.pa.getD 0)).map fun a => (s.pendingOn a).length).foldl (· + ·) 0
  | .done => 40
  | _ => 40 + (lanes.length - (dedup (lanes.map fun l => l.pa.getD 0)).length) + full

/-- The contributions that an oadd sums, in the objects that its line request completes (R250). -/
def State.completes (s t : State) (o : MemOp) (lanes : List LaneAcc) : Nat :=
  match o.kind with
  | .oadd =>
    let whole := s.ordAccs.filter fun a => !a.done && (lanes.any fun l => l.pa.getD 0 / 32 = a.pa / 32)
      && !(t.ordAccs.any fun b => b.pa = a.pa && !b.done)
    (whole.map fun a => a.n).foldl (· + ·) 0
  | _ => 0

/-- The clk that an update of a line still has to wait for earlier ones: a request updates its line in the last clk of its
service, one and one more for each lane that R251 adds (R404; DEDUCED, log entry 31). -/
def State.updateWait (s : State) (l : LineReq) : Nat :=
  let pa := l.pa.getD 0
  match (s.slice (paSlice pa)).updating.find? fun u => u.1 = pa / 128 with
  | some u => u.2 - (38 + l.extra) - s.clk
  | none => 0

/-- Whether that wait reaches the hold bound (R201). -/
def State.updateHeld (s : State) (l : LineReq) : Bool :=
  decide (l.bSlice < 4 ∧ l.arrived + 256 ≤ s.clk + s.updateWait l)

/-- The image of a fresh ordered accumulator (R249). -/
def OrdAcc.fresh (pa part n result resultPa : Nat) (f32 : Bool) : OrdAcc :=
  { pa := pa, part := part, f32 := f32, n := n, result := result, resultPa := resultPa, done := false, err := false,
    nv := false, ovf := false, held := [] }

/-- The image that an orinit writes at its slice (R249): n holds b, m the physical address of RESULT and c its virtual one. -/
def State.orinitApply (s : State) (o : MemOp) : State :=
  let acc := OrdAcc.fresh o.objPa o.part (o.n % 4096 + 1) o.c o.m (o.n / 4096 % 2 = 1)
  { s with ordAccs := (s.ordAccs.filter fun (x : OrdAcc) => x.pa ≠ o.objPa) ++ [acc] }

/-- The result-table entry of a key (R246). -/
def State.result? (s : State) (h : Nat) (k : ReqKey) : Option Result := s.results.find? fun r => r.slice = h && r.req = (k.c, k.s)

/-- The lanes of a request that its slice has still to apply (R246, R385): those of keys that have no entry, and those that a rollback
has undone. -/
def State.lanesDue (s : State) (h : Nat) (o : MemOp) (l : LineReq) : List LaneAcc :=
  (o.lineLanes l.line).filter fun a => l.keys.any fun k =>
    (k.crew.isNone || k.crew = some (a.thread / o.n))
      && match s.result? h k with | some r => decide (a.thread ∈ r.redo) | none => true

/-- The table after a request has been applied (R246): an entry for each key that had none, and nothing left to make again. -/
def State.keepResults (s : State) (h : Nat) (o : MemOp) (l : LineReq) (rets : List (Nat × Word32)) (flags : List (Nat × BitVec 8)) : State :=
  l.keys.foldl (fun (s : State) k =>
    let mine := fun (t : Nat) => k.crew.isNone || decide (k.crew = some (t / o.n))
    let rs := rets.filter fun r => mine r.1
    let fs := flags.filter fun r => mine r.1
    match s.result? h k with
    | none => { s with results := s.results ++ [{ slice := h, req := (k.c, k.s), rets := rs, flags := fs, part := o.part, node := o.node,
                                                  redo := [] }] }
    | some _ => { s with results := mapIf (fun r => r.slice = h && r.req = (k.c, k.s)) (fun r =>
        { r with rets := r.rets.filter (fun x => !(rs.any fun y => y.1 = x.1)) ++ rs,
                           flags := r.flags.filter (fun x => !(fs.any fun y => y.1 = x.1)) ++ fs, redo := [] }) s.results }) s

/-- The values and flags that the table keeps for a request (R246). -/
def State.resultOf (s : State) (h : Nat) (l : LineReq) : LaneOut :=
  let rs := l.keys.filterMap (s.result? h)
  (rs.flatMap fun r => r.rets, rs.flatMap fun r => r.flags)

/-- A slice's answer to an update: the values of its lanes and their flags, with the reply's way back (R243, R246). -/
def State.updateReply (s : State) (op line h time : Nat) : State :=
  match s.line? op line with
  | none => s
  | some (_, l) =>
    let r := s.resultOf h l
    (s.modOp op fun x =>
      { x with
        lanes := x.lanes.map fun a => match r.1.find? fun r => r.1 = a.thread && a.ea / 128 = line with
          | some r => { a with ret := r.2 }
          | none => a
        lines := mapIf (fun m => m.line = line) (fun m => { m with st := .returning, flags := r.2 }) x.lines }).sendRouter time op line true

/-- Whether a slice lacks the table entries, accumulators or join records that a request needs (R246, R247, R300). -/
def State.sliceLacks (s : State) (h : Nat) (o : MemOp) (l : LineReq) (lanes : List LaneAcc) : Bool :=
  let held := (s.contribs.filter fun c => paSlice c.pa = h).length
    + ((s.ordAccs.filter fun a => paSlice a.pa = h).map fun a => a.held.length).foldl (· + ·) 0
  let new := (l.keys.filter fun k => (s.result? h k).isNone).length
  decide ((s.results.filter fun r => r.slice = h).length + new > 4096)
    || (match o.kind with
      | .radd 1 _ | .oadd => decide (held + lanes.length > 8192)
      | .done => decide ((s.joins.filter fun j => paSlice j.pa = h).length ≥ 2048)
      | _ => false)

/-- atomicAtSlice (R243, R246): a request whose keys are in the result table gets the stored reply; a new one bounces when all
4,096 entries are in use (or, of a photo-finish contribution, all 8,192 accumulators), and else is applied and its reply
kept. An orinit writes its object's image here (R249). -/
def execAtomicAtSlice (op line : Nat) (s : State) : Host.Outcome State Fault Refusal :=
  match s.line? op line with
  | none => .next s
  | some (o, l) =>
    let h := paSlice (l.pa.getD 0)
    if o.kind == .orinit then
      if o.b = 1 then .next (s.objectReply o o.fail)
      else if s.inObj o.objPa || s.inAcc o.objPa then .next (s.objectReply o (some 14))
      else .next (((s.orinitApply o).modOp op fun x => { x with b := 1 }).objectReply o none)
    else
      let lanes := s.lanesDue h o l
      if lanes = [] then .next (s.updateReply op line h 40)
      else if s.sliceLacks h o l lanes then
        .next ((s.modLine op line fun l => { l with st := .bounced }).post (travel o.core h) (.bounceNotice op line 1))
      else if s.updateHeld l then
        let s := s.modSlice h fun x => { x with queue := (x.queue.filter fun q => q ≠ (op, line)) ++ [(op, line)] }
        .next ((s.modLine op line fun l => { l with st := .queued }).post (l.arrived + 256 - s.clk) (.sliceHoldBoundExpiry op line))
      else
        let r := s.applyLine o l lanes
        let time := s.updateWait l + l.extra + s.serviceTime o lanes (s.completes r.1 o lanes)
        let s := r.1.modSlice h fun x =>
          { x with updating := (x.updating.filter fun u => u.1 ≠ (l.pa.getD 0) / 128 ∧ s.clk < u.2) ++ [((l.pa.getD 0) / 128, s.clk + time - 1)] }
        let s := if o.kind == .done && (r.2.1.any fun x => x.2 = 1) then s.wakeJoin o.part ((o.lanes.map fun l => l.pa.getD 0).headD 0) (time + 39) else s
        .next ((s.keepResults h o l r.2.1 r.2.2).updateReply op line h time)

/-- An update word's last reply writes D, or s_D of done, raises the flags, and drops the core's lines (R243, R244). -/
def State.updateDone (s : State) (o : MemOp) : State :=
  let flags := o.lines.flatMap fun l => l.flags
  let pas := o.lines.filterMap fun l => l.pa
  let s := s.dropLines o.core fun n => pas.any fun p => p / 128 = n
  let s := match o.kind with
    | .done => (s.opWriteS o (((o.lanes.map fun (l : LaneAcc) => l.ret).headD 0).zeroExtend 64))
    | _ => s.opWriteV o (o.lanes.map fun (l : LaneAcc) => (l.thread, l.ret)) (flags.filter fun f => f.2 ≠ 0)
  s.opEnded o.core o.wg

/-- atomicReply (R243): the reply of a line request reaches its core, which acknowledges it. -/
def execAtomicReply (op line : Nat) (s : State) : Host.Outcome State Fault Refusal :=
  match s.line? op line with
  | none => .next s
  | some (o, l) =>
    let h := paSlice (l.pa.getD 0)
    let s := s.modLine op line fun l => { l with st := .done }
    let s := (l.keys.filter fun k => decide (k.c < 1024)).foldl (fun (s : State) k =>
      s.post (travel o.core h) (.replyAcknowledgeNotice k.s (k.c * 64 + h))) s
    match s.op? op with
    | some o => .next (if o.lines.all fun l => l.st == .done then s.updateDone o else s.releaseHeld o.core)
    | none => .next s

/-- replyAcknowledgeNotice: the requester's acknowledgement frees the result-table entry; the notice names the request's
sequence number, and its core and slice. In paired mode entries stay until the node commits (R246). -/
def execReplyAcknowledgeNotice (op line : Nat) (s : State) : Host.Outcome State Fault Refusal :=
  .next { s with results := s.results.filter fun r => !(r.slice = line % 64 && r.req = (line / 64, op)) }

/-- An update word that is fully translated (R243): its checks, then its line requests. -/
def State.updateReady (s : State) (o : MemOp) : State :=
  match s.writeCauseOf (o.kind == .oadd) o.lanes with
  | some (t, cause, lanes) => s.opTrap o t (some (cause, true, lanes))
  | none => o.lines.foldl (fun s l => s.sendLine o.id l.line) ((s.opPassed o).takeKeys o)

/-- An update word issues (R243): causes of its addresses, translation, checks, requests. -/
def updateWord (s : State) (is : Issue) (w : Wg) (g : BitVec 3) (kind : OpKind) (lanes : List LaneAcc)
    (vdst sdst : Option Nat) (wb : Bool) (srcs : List (BitVec 7)) : State :=
  match addrCause lanes with
  | some (c, bad) => s.memFault is w g .memfault c true bad
  | none =>
    let o := { newOp s is w kind lanes vdst sdst wb with n := w.width, latch := lostLatches s is w (active is w g) srcs }
    if o.allTranslated then
      match s.writeCauseOf (kind == .oadd) o.lanes with
      | some (t, c, bad) => s.memFault is w g t c true bad
      | none => ((s.addOp o).retire is w.id).updateReady o
    else ((s.addOp o).block is w.id o.id).walkLines o

/-- The address of an atomic or radd in a lane (R241): s_A of the lane's crew, or the pair v(A+1), v(A). -/
def pairAddr (s : State) (is : Issue) (w : Wg) (a : BitVec 7) (t : Nat) : Nat :=
  if 64 ≤ a.toNat then (uniSrcAt s is w t a.toNat).toNat
  else match w.thread? t with
    | some x => (x.reg (a.toNat + 1) ++ x.reg a.toNat).toNat
    | none => 0

/-- The lanes of an atomic or radd: operands v_d and v_(d+1). -/
def pairLanes (s : State) (is : Issue) (w : Wg) (g : BitVec 3) (a : BitVec 7) (d : Nat) : List LaneAcc :=
  (active is w g).map fun t =>
    match w.thread? t with
    | some x => laneAcc t (pairAddr s is w a t) (x.reg d) (x.reg (d + 1))
    | none => laneAcc t 0 0 0

/-- An atomic (R243). -/
def atomicWord (s : State) (g : BitVec 3) (w : Bool) (d : BitVec 6) (a : BitVec 7) (op : BitVec 4) (ty : BitVec 2) :
    Host.Outcome State Fault Refusal :=
  withGroup s fun is wg =>
    if active is wg g = [] then s.retire is wg.id
    else updateWord s is wg g (.atomic op ty) (pairLanes s is wg g a d.toNat) (some d.toNat) none (!w) []

/-- aadd (R243, R244). -/
def execAadd (g : BitVec 3) (w : Bool) (d : BitVec 6) (a : BitVec 7) (t : BitVec 2) (s : State) :=
  atomicWord s g w d a 0 t
/-- amin (R243). -/
def execAmin (g : BitVec 3) (w : Bool) (d : BitVec 6) (a : BitVec 7) (t : BitVec 2) (s : State) :=
  atomicWord s g w d a 1 t
/-- amax (R243). -/
def execAmax (g : BitVec 3) (w : Bool) (d : BitVec 6) (a : BitVec 7) (t : BitVec 2) (s : State) :=
  atomicWord s g w d a 2 t
/-- aand (R243). -/
def execAand (g : BitVec 3) (w : Bool) (d : BitVec 6) (a : BitVec 7) (s : State) := atomicWord s g w d a 3 0
/-- aor (R243). -/
def execAor (g : BitVec 3) (w : Bool) (d : BitVec 6) (a : BitVec 7) (s : State) := atomicWord s g w d a 4 0
/-- axor (R243). -/
def execAxor (g : BitVec 3) (w : Bool) (d : BitVec 6) (a : BitVec 7) (s : State) := atomicWord s g w d a 5 0
/-- aswap (R243). -/
def execAswap (g : BitVec 3) (w : Bool) (d : BitVec 6) (a : BitVec 7) (s : State) := atomicWord s g w d a 6 0
/-- acas: compared in v_d, new value in v_(d+1) (R243). -/
def execAcas (g : BitVec 3) (w : Bool) (d : BitVec 6) (a : BitVec 7) (s : State) := atomicWord s g w d a 7 0
/-- ainc (R243). -/
def execAinc (g : BitVec 3) (w : Bool) (d : BitVec 6) (a : BitVec 7) (s : State) := atomicWord s g w d a 8 0

/-- A slice reduction (R247). -/
def raddWord (s : State) (g : BitVec 3) (d : BitVec 6) (a : BitVec 7) (mode : Nat) (f32 : Bool) :
    Host.Outcome State Fault Refusal :=
  withGroup s fun is wg =>
    if active is wg g = [] then s.retire is wg.id
    else updateWord s is wg g (.radd mode f32) (pairLanes s is wg g a d.toNat) none none false []

/-- radd (R247). -/
def execRadd (g : BitVec 3) (d : BitVec 6) (a : BitVec 7) (t : Bool) (s : State) := raddWord s g d a 0 t
/-- radd.pf (R247). -/
def execRaddPf (g : BitVec 3) (d : BitVec 6) (a : BitVec 7) (t : Bool) (s : State) := raddWord s g d a 1 t
/-- radd.flush (R247). -/
def execRaddFlush (g : BitVec 3) (a : BitVec 7) (s : State) := raddWord s g 0 a 2 false

/-- oadd (R250): each active lane contributes v_d with its key. -/
def execOadd (g : BitVec 3) (d : BitVec 6) (a b : BitVec 7) (s : State) : Host.Outcome State Fault Refusal :=
  withGroup s fun is wg =>
    let act := active is wg g
    if act = [] then s.retire is wg.id
    else
      updateWord s is wg g .oadd (act.map fun t =>
        laneAcc t (uniSrcAt s is wg t a.toNat).toNat (match wg.thread? t with | some x => x.reg d.toNat | none => 0) (laneSrc s is wg t b.toNat).1)
        none none false [b]

/-- The checks of orinit (R249): the object's address, then RESULT as R243 checks it, then the object, whose page W permission is asked
of too (log entry 94). -/
def State.orinitStep (s : State) (w : Wg) (obj res : Nat) : RegionStep :=
  if objAddrBad obj then .fault .memfault 14 false obj
  else match addrCause [laneAcc 0 res 0 0] with
    | some (c, _) => .fault .memfault c true res
    | none =>
      match tlbFind (s.core w.core).tlb w.ctx obj 1, tlbFind (s.core w.core).tlb w.ctx res 1 with
      | some pa, some rpa =>
        match s.writeCause [{ laneAcc 0 res 0 0 with pa := some rpa }] with
        | some (t, cause, _) => .fault t cause true res
        | none => if !isHbm pa || s.inObj pa || s.inAcc pa then .fault .memfault 14 false obj else .ok pa [(rpa, 4)]
      | none, _ => .walk obj 1
      | _, none => .walk res 1

/-- orinit (R249): the threads park until the slice replies, 40 clk there and the travel each way (R251). -/
def execOrinit (g : BitVec 3) (n : BitVec 5) (a b : BitVec 7) (s : State) : Host.Outcome State Fault Refusal :=
  let ctl := fun (is : Issue) (w : Wg) => (uniSrc s is w b.toNat).toNat
  let res := fun (is : Issue) (w : Wg) => (uniS is w n.toNat).toNat
  match s.cur, s.reading with
  | some is, some w =>
    if ctl is w ≥ 8192 && active is w g != [] then .next (s.trapHere is w.id (trapping is w g) .illop)
    else
      regionWord s g .orinit (fun w is => s.orinitStep w (uniSrc s is w a.toNat).toNat (res is w))
        (fun is w _ _ ranges =>
          let ea := (uniSrc s is w a.toNat).toNat
          let o := { onceOp s is w g .orinit ea with
            phase := 2, a := ea, n := ctl is w, c := res is w, m := (ranges.headD (0, 0)).1 }
          (o.lines.foldl (fun (s : State) l => s.sendLine o.id l.line) (s.addOp o)).parkMark is w.id (.opEnd o.id) o.id)
  | _, _ => .fault .noIssue

end Sys2Proof.Machine
end

