-- ==== Sys2Proof/Machine/Rollback.lean ====
section
/-! DEFINITION. Workgroups taken off their cores, barrier episodes they leave (R318), workgroup kills (R178), and the
rollback of a node with everything tainted by it (R23, R220, R305, R372). -/

namespace Sys2Proof.Machine

/-! ### Barrier episodes that lose a participant -/

/-- The clk from the last arrival to the release (R317): only an episode whose participants are all in the package can release
in the model, and it has no fabric hop (log entry 39). -/
def releaseDelay (scope : Nat) : Nat :=
  match scope with | 1 => 4 | 2 => 12 | 3 => 40 | 4 => 160 | _ => 600

/-- The crews of workgroups as members. -/
def crewMembers (ws : List Wg) : List Member :=
  ws.flatMap fun w => (List.range w.crews.length).map fun c => Member.crew w.id c

/-- The workgroups of a grid on a quad. -/
def State.quadWgs (s : State) (q grid : Nat) : List Wg := s.wgs.filter fun w => w.grid = grid && coreQuad w.core = q

/-- The participants of an episode at core, quad and die scope for a workgroup (R313). -/
def State.barMembers (s : State) (scope : Nat) (w : Wg) : List Member :=
  let q := coreQuad w.core
  let runs := fun (q : Nat) => (match (s.starter q).run with | some (g, _) => decide (g = w.grid) | none => false)
  let quad :=
    if runs q then Member.starter q :: crewMembers (s.quadWgs q w.grid)
    else match w.heat with
      | some h => crewMembers (s.wgs.filter fun x => x.heat = some h && coreQuad x.core = q)
      | none => crewMembers (s.wgs.filter fun x => x.id = w.id)
  match scope with
  | 1 => crewMembers (s.wgs.filter fun x => x.id = w.id)
  | 2 => quad
  | _ => match w.heat with
    | some h =>
      let ws := s.wgs.filter fun x => x.heat = some h
      ((dedup (ws.map fun x => coreQuad x.core)).filter runs).map Member.starter ++ crewMembers ws
    | none => quad

/-- The workgroup by which a starter's episode is known: one of its grid on the quad (R313). -/
def State.starterWg (s : State) (q : Nat) : Option Wg :=
  match (s.starter q).run with
  | some (g, _) => s.wgs.find? fun w => w.grid = g && coreQuad w.core = q
  | none => none

/-- An episode whose every member has arrived is due for release (R314, R317). -/
def State.episodeDue (s : State) (e : Episode) : State :=
  if e.arrived ≠ [] ∧ e.arrived.length = e.members.length then s.post (releaseDelay e.scope) (.barrierEpisodeRelease e.id) else s

/-- Whether a member is a crew that has exited completely (R314). -/
def State.memberDone (s : State) : Member → Bool
  | .crew wg c => match s.wg? wg with | some w => (w.live c).isEmpty | none => false
  | _ => false

/-- Whether a thread or a starter waits in one of some episodes. -/
def Wait.inOne (w : Wait) (ids : List Nat) : Bool := match w with | .parked (.episode x) => decide (x ∈ ids) | _ => false

/-- Threads for which a condition holds that wait in one of some episodes, or have gone by one guarded off, are in another one. -/
def State.moveThere (s : State) (ids : List Nat) (to_ : Nat) (p : Wg → Nat → Bool) : State :=
  let move := fun (w : Wg) => ((List.range w.threads.length).filter fun t => p w t).foldl (fun (w : Wg) t =>
    w.modThread t fun x => if x.wait.inOne ids then { x with wait := .parked (.episode to_), mark := some to_ } else x) w
  let mine := fun (x : Nat × Nat) => match s.wg? x.1 with | some w => p w x.2 | none => false
  let passed := (s.episodes.filter fun x => decide (x.id ∈ ids)).flatMap fun x => x.passed.filter mine
  { s with
    wgs := s.wgs.map move
    episodes := s.episodes.map fun x =>
      if x.id = to_ then { x with passed := x.passed ++ passed }
      else if x.id ∈ ids then { x with passed := x.passed.filter fun y => !mine y } else x }

/-- An episode in which nobody has arrived. -/
def State.newEpisode (s : State) (scope part gid n : Nat) (members : List Member) : Episode × State :=
  let e : Episode := { id := s.ids, scope := scope, part := part, gid := gid, n := n, members := members, arrived := [],
                       passed := [], owed := [], aborted := false }
  (e, { s with episodes := s.episodes ++ [e] }.takeId)

/-- Whether some thread of a workgroup is parked in an episode or has passed it. -/
def Wg.in_ (w : Wg) (e : Episode) : Bool :=
  (e.passed.any fun x => x.1 = w.id) || w.threads.any fun x => x.wait == .parked (.episode e.id)

/-- The set of an episode is fixed now: threads of its members that came to another one of the scope whose set is open are in it,
and those that came to it and do not belong to it are in one of their own (R313). -/
def State.settleMembers (s : State) (e : Episode) : State :=
  if e.scope > 3 then s
  else
    let mine := fun (w : Wg) (t : Nat) => decide (Member.crew w.id (w.crewOf t) ∈ e.members)
    let others := (s.episodes.filter fun x =>
      x.id ≠ e.id && x.scope = e.scope && x.part = e.part && x.members = [] && !x.aborted).map fun x => x.id
    let s := s.moveThere others e.id mine
    if s.wgs.any fun w => w.in_ e && !(e.members.any fun m => m == .crew w.id 0) then
      let r := s.newEpisode e.scope e.part 0 0 []
      r.2.moveThere [e.id] r.1.id fun w t => !mine w t
    else s

/-- Whether every live thread of a crew is parked in an episode or has passed it guarded off (R314). -/
def Wg.allThere (w : Wg) (c : Nat) (e : Episode) : Bool :=
  (w.live c).all fun t => decide ((w.id, t) ∈ e.passed)
    || (match w.thread? t with | some x => x.wait == .parked (.episode e.id) | none => true)

/-- Whether some thread of a crew is parked in an episode or has passed it. -/
def Wg.someThere (w : Wg) (c : Nat) (e : Episode) : Bool :=
  (w.crewThreads c).any fun t => decide ((w.id, t) ∈ e.passed)
    || (match w.thread? t with | some x => x.wait == .parked (.episode e.id) | none => false)

/-- Whether a member is a crew all of whose live threads are in an episode. -/
def State.memberThere (s : State) (e : Episode) : Member → Bool
  | .crew wg c => match s.wg? wg with | some w => w.someThere c e && w.allThere c e | none => false
  | _ => false

/-- A member arrives in an episode; the set is fixed at the first arrival, and a crew that has exited completely counts as
arrived (R313, R314). -/
def State.arrive (s : State) (e : Episode) (m : Member) (members : List Member) : State :=
  if e.aborted || decide (m ∈ e.arrived) then s
  else
    let ms := if e.members = [] then members else e.members
    let done := ms.filter fun x => x ≠ m && !decide (x ∈ e.arrived) && s.memberDone x
    let e' := { e with members := ms, arrived := e.arrived ++ m :: done }
    let s := { s with episodes := mapIf (fun x => x.id = e.id) (fun x => { x with members := ms, arrived := e'.arrived }) s.episodes }
    if e.members = [] ∧ e.scope ≤ 3 then
      let s := s.settleMembers e'
      match s.episodes.find? fun x => x.id = e.id with
      | some x =>
        let more := ms.filter fun m => !decide (m ∈ x.arrived) && s.memberThere x m
        let x' := { x with arrived := x.arrived ++ more }
        ({ s with episodes := mapIf (fun y => y.id = e.id) (fun y => { y with arrived := x'.arrived }) s.episodes }).episodeDue x'
      | none => s
    else s.episodeDue e'

/-- A crew's arrivals are looked at in every open episode: one whose live threads are all there arrives, and one that has
exited counts as arrived where it is a member (R314). At package and pod scope the workgroup is the participant: it arrives with the
crew that issues its bars, and in every open episode when all its crews have exited; its count of the group's bars moves on (R313). -/
def State.arriveCheck (s : State) (wg crew : Nat) : State :=
  match s.wg? wg with
  | none => s
  | some w =>
    s.episodes.foldl (fun (s : State) e =>
      if e.scope ≤ 3 then
        if w.live crew = [] then (if Member.crew wg crew ∈ e.members then s.arrive e (.crew wg crew) [] else s)
        else if w.someThere crew e && w.allThere crew e then s.arrive e (.crew wg crew) (s.barMembers e.scope w)
        else s
      else
        let m := Member.group w.part w.index
        let gone := w.threads.all (fun t => t.exited) && decide (m ∈ e.members)
        if ((w.someThere crew e && w.allThere crew e) || gone) && !e.aborted && !decide (m ∈ e.arrived) then
          (s.arrive e m []).modWg wg fun x => { x with barCount := kset x.barCount e.gid (max (kget 0 x.barCount e.gid) (e.n + 1)) }
        else s) s

/-- Every thread and starter parked in an episode, but those of a workgroup that leaves, takes ABORT at its bar; a participant that has not
come to it takes ABORT when it comes (R318). -/
def State.abortEpisode (s : State) (id : Nat) (but : Option Nat) : State :=
  let here := fun (w : Wg) => (List.range w.threads.length).filter fun t =>
    match w.thread? t with | some x => x.wait == .parked (.episode id) | none => false
  let came := s.wgs.filter fun w => here w ≠ [] && but ≠ some w.id
  let s := came.foldl (fun (s : State) w =>
    match w.thread? ((here w).headD 0) with
    | some x => s.groupTrap w.id (here w) .abort x.pc x.pc
    | none => s) s
  let s := s.quads.foldl (fun (s : State) q =>
    if q.2.starter.wait == .parked (.episode id) then s.starterTrap q.1 .abort q.2.starter.pc q.2.starter.pc else s) s
  match s.episodes.find? fun e => e.id = id with
  | none => s
  | some e =>
    let late := came.filter fun w => !decide (Member.group w.part w.index ∈ e.arrived)
    let s := if e.scope ≤ 3 then s else late.foldl (fun (s : State) w =>
      s.modWg w.id fun x => { x with barCount := kset x.barCount e.gid (e.n + 1) }) s
    let owed := e.members.filter fun m => !decide (m ∈ e.arrived) && !(late.any fun w => m == .group w.part w.index)
    { s with episodes := mapIf (fun e => e.id = id) (fun e => { e with aborted := true, owed := owed }) s.episodes }

/-- Whether a member belongs to a workgroup. -/
def Member.isOf (m : Member) (w : Wg) : Bool :=
  match m with
  | .crew x _ => x = w.id
  | .starter _ => false
  | .group p i => p = w.part && i = w.index

/-- Members leave an episode of core, quad or die scope and their arrivals are withdrawn; the set is open again while no arrival
is left (R313, R318). -/
def State.withdraw (s : State) (e : Episode) (gone : Member → Bool) : State :=
  let arrived := e.arrived.filter fun m => !gone m
  let e' := { e with arrived := arrived, members := if arrived = [] then [] else e.members.filter fun m => !gone m }
  ({ s with episodes := mapIf (fun x => x.id = e.id) (fun _ => e') s.episodes }).episodeDue e'

/-- A workgroup leaves its open episodes: at core, quad and die scope its members go; at package and pod scope every other
participant takes ABORT (R318). -/
def State.leaveEpisodes (s : State) (w : Wg) : State :=
  s.episodes.foldl (fun (s : State) e =>
    if e.aborted || !(e.members.any fun m => m.isOf w) then s
    else if e.scope ≥ 4 then s.abortEpisode e.id (some w.id)
    else s.withdraw { e with passed := e.passed.filter fun x => x.1 ≠ w.id } fun m => m.isOf w) s

/-- The number by which a starter that is saved with a baton's context is a member of its episodes (R318). -/
def awayStarter (baton q : Nat) : Nat := 192 * (baton + 1) + q

/-- A starter's place among the members of its episodes goes with it, as it is saved and as it stands in a quad again (R313, R318). -/
def State.moveStarter (s : State) (from_ to_ : Nat) : State :=
  let r := fun (m : Member) => if m == .starter from_ then Member.starter to_ else m
  { s with episodes := s.episodes.map fun e =>
      { e with members := e.members.map r, arrived := e.arrived.map r, owed := e.owed.map r } }

/-- A starter that is stopped leaves its open episodes (R318). -/
def State.starterLeaves (s : State) (q : Nat) : State :=
  s.episodes.foldl (fun (s : State) e =>
    if e.aborted || !decide (.starter q ∈ e.members) then s
    else s.withdraw e fun m => m == .starter q) s

/-- A starter that ends counts as arrived in every open episode, as a crew that exits does (R314; log entry 26). -/
def State.starterEnds (s : State) (q : Nat) : State :=
  s.episodes.foldl (fun (s : State) e => if decide (.starter q ∈ e.members) then s.arrive e (.starter q) [] else s) s

/-! ### A workgroup stops at once -/

/-- Words that wait for a channel are looked at in the next clk (R280). -/
def State.lookAtWords (s : State) : State :=
  (s.words.filter fun w => w.chan.isNone).foldl (fun (s : State) w =>
    if s.agenda.any fun a => a.2 == .engineWordStart w.id 0 then s else s.post 1 (.engineWordStart w.id 0)) s

/-- Whether an operation carries a context image, for which it holds a copy channel (R341). -/
def OpKind.isImage : OpKind → Bool
  | .image _ => true
  | _ => false

/-- Engine words of a workgroup end with it: their completion entries are freed (R262), their requests leave the machine, and words
that wait for a channel are looked at (R267). -/
def State.dropWords (s : State) (wg : Nat) : State :=
  let gone := s.words.filter fun w => w.wg = wg
  let s := gone.foldl (fun (s : State) w => s.modCore w.core fun k =>
    { k with ct := mapIf (fun e => e.entry = w.entry) (fun e => { e with gen := (e.gen + 1) % 65536, busy := false }) k.ct }) s
  let s := { s with
    words := s.words.filter fun w => w.wg ≠ wg
    ops := s.ops.filter fun o => !(o.kind.isEngine && gone.any fun w => w.id = o.a) }
  if (gone.any fun w => w.chan.isSome) || s.ops.any fun o => o.wg = wg && o.kind.isImage then s.lookAtWords else s

/-- Everything that an engine word has under way is given up. -/
def State.dropParts (s : State) (id : Nat) : State :=
  State.modWord { s with ops := s.ops.filter fun o => !(o.kind.isEngine && o.a = id) } id fun x => { x with live := [] }

/-- The words of a collective of a group: those of its participants here (R279). -/
def State.collKin (s : State) (ms : List (Nat × Nat × Nat)) (gid num : Nat) : List EngWord :=
  s.words.filter fun x => x.kind == .coll && natBits x.ctl 55 48 = gid && x.aux / 64 = num
    && match s.wg? x.wg with | some y => s.groupOf y gid = some ms | none => false

/-- A collective is aborted: its words end ABORTED, but for one, and a participant that comes to it later will (R279). -/
def State.abortNumber (s : State) (ms : List (Nat × Nat × Nat)) (gid num but : Nat) : State :=
  let words := (s.collKin ms gid num).filter fun x => x.id ≠ but
  let mark := fun (p : Partition) =>
    match p.groups.find? fun x => x.1 = gid && x.2.1 = ms with
    | some x => { p with aborted := p.aborted ++ [(x.2.2.1, x.2.2.2, gid, num)] }
    | none => p
  words.foldl (fun (s : State) e =>
    ((s.dropParts e.id).modWord e.id fun x => { x with causes := x.causes ++ [(0, 7)], stop := true }).post 0 (.engineWordComplete e.id))
    { s with parts := s.parts.map mark }

/-- The collectives in progress on a group end ABORTED at every participant (R279, R376). -/
def State.abortGroup (s : State) (ms : List (Nat × Nat × Nat)) (gid : Nat) : State :=
  let nums := dedup ((s.words.filter fun x => x.kind == .coll && natBits x.ctl 55 48 = gid
    && match s.wg? x.wg with | some y => s.groupOf y gid = some ms | none => false).map fun x => x.aux / 64)
  nums.foldl (fun (s : State) n => s.abortNumber ms gid n 0) s

/-- The collectives in progress on a group that a workgroup belongs to end ABORTED at every other participant (R279). -/
def State.abortColls (s : State) (w : Wg) : State :=
  let groups := match s.part? w.part with | some p => p.groups | none => []
  groups.foldl (fun (s : State) g =>
    match s.groupOf w g.1 with
    | some ms =>
      if ms.any fun m => m.1 = w.index && m.2.2 = w.part then s.abortGroup ms g.1 else s
    | none => s) s

/-- Scratchpad bytes from an offset set to 0. -/
def Memory.clear (m : Memory) (a n : Nat) : Memory := m.filter fun x => x.1 < a || a + n ≤ x.1

/-- Whether nothing of the dispatcher's is left on a quad: no workgroup, no baton about to start, and an idle starter. -/
def State.quadClear (s : State) (q : Nat) : Bool :=
  !(s.wgs.any fun w => coreQuad w.core = q) && (s.starter q).run.isNone
    && !(s.batons.any fun b => b.st == .placed && b.place.any fun p => coreQuad p.1 = q)

/-- The in-field test of a quad whose four arrays hold their tokens runs from now (R383), and ends 2 ms later. Whether the quad passes is
open. -/
def State.runTest (s : State) (q : Nat) : State :=
  let holds := fun (i : Nat) => (let k := s.core (quadCore q i); k.token == .work && !k.asked)
  if (s.quad q).testing && ((List.range 4).all holds || (s.corePart (quadCore q 0)).isNone) then
    (s.post 2500000 (.inFieldTestComplete q (Config.freeChoice s.free))).takeFree
  else s

/-- The in-field test of a quad that is due and clear takes its arrays' ballast back as tokens and asks for those they lack (R346,
R383); in a sector of no partition there are none to ask for (log entry 53). -/
def State.startTest (s : State) (q : Nat) : State :=
  if (s.quad q).testDue.isSome && !(s.quad q).testing && s.quadClear q then
    let s := s.modQuad q fun x => { x with testDue := none, testing := true }
    let s := (List.range 4).foldl (fun (s : State) i =>
      let c := quadCore q i
      if (s.core c).token != .none then s.modCore c fun k => { k with token := .work }
      else if (s.core c).asked then s
      else (s.modCore c fun k => { k with asked := true }).post 6 (.tokenRequest c)) s
    s.runTest q
  else s

/-- Every quad's test that may begin begins. -/
def State.startTests (s : State) : State :=
  (s.quads.filter fun x => x.2.testDue.isSome).foldl (fun (s : State) x => s.startTest x.1) s

/-- A PREEMPT packet completes when no victim is left on the cores it waits for (R309, R365); an in-field test that waited for
its quad begins (R383). -/
def State.preemptDone (s : State) : State :=
  State.startTests <| s.packets.foldl (fun (s : State) p =>
    if p.cores = [] || s.wgs.any fun w => w.evict && decide (w.core ∈ p.cores) then s
    else { s with packets := mapIf (fun x => x.qcb = p.qcb && x.num = p.num) (fun x => { x with cores := [] }) s.packets }.post 0
      (.packetComplete p.qcb p.num 0)) s

/-- The replies to update requests of a workgroup that have been applied are still acknowledged (R246). -/
def State.ackLost (s : State) (wg : Nat) : State :=
  (s.ops.filter fun o => o.wg = wg && o.kind.isUpdate).foldl (fun (s : State) o =>
    o.lines.foldl (fun (s : State) l =>
      let h := paSlice (l.pa.getD 0)
      l.keys.foldl (fun (s : State) k =>
        if k.c < 1024 && s.results.any fun r => r.slice = h && r.req = (k.c, k.s) then
          s.post (2 * travel o.core h) (.replyAcknowledgeNotice k.s (k.c * 64 + h))
        else s) s) s) s

/-- A workgroup leaves its core at once, without a context: its operations, engine words, flits and runs go with it, and its
batons' waits end. -/
def State.removeWg (s : State) (wg : Nat) : State :=
  match s.wg? wg with
  | none => s
  | some w =>
    let s := (((((s.leaveEpisodes w).abortColls w).dropWords wg).keepAlloc w).ackLost wg)
    State.preemptDone { s with
      wgs := s.wgs.filter fun w => w.id ≠ wg
      ops := s.ops.filter fun o => o.wg ≠ wg
      flits := s.flits.filter fun f => f.wg ≠ wg
      runs := s.runs.filter fun r => r.who ≠ .group wg
      cur := match s.cur with | some is => some { is with ended := .trapped } | none => none }

/-- A baton's claims on result buffers are dropped (R302, R303). -/
def State.dropClaims (s : State) (baton : Nat) : State :=
  { s with objs := s.objs.map fun o => if o.claimed = some baton then { o with claimed := none } else o }

/-- A baton goes back to its queue as it was first queued or as chkpt rewrote it (R290, R305); it waits again on its
conditions, and its join counter's waiter is registered 40 clk later (R312). -/
def State.requeue (s : State) (b : Baton) : State :=
  let s := (s.dropClaims b.id).modBaton b.id fun x =>
    { x with st := .queued, resumable := false, ring := false, woken := decide (x.waitj.toNat = 0), eligible := none,
             filled := [], consumed := [] }
  let s := { s with waiters := s.waiters.filter fun w => w.baton ≠ b.id }
  let s := if b.waitj.toNat = 0 then s else s.post 40 (.waiterRegistration b.part b.id)
  s.placeSoon b.part

/-- The saved contexts of a baton are discarded: their workgroups and starters leave their episodes (R318), and their spill slots fall
free (R310). -/
def State.dropContexts (s : State) (baton : Nat) : State :=
  let gone := s.quads.flatMap fun (x : Nat × Quad) => x.2.shadow.filter fun c => c.baton = baton
  let starters := gone.flatMap fun c => if c.starter.isSome then (c.arrays.map fun x => coreQuad x.1).take 1 else []
  let s := starters.foldl (fun (s : State) q => s.starterLeaves (awayStarter baton q)) s
  let s := gone.foldl (fun (s : State) c => c.wgs.foldl (fun (s : State) w => s.leaveEpisodes w) s) s
  let freed := fun (p : Partition) => { p with spill := p.spill.filter fun n => !(gone.any fun c => c.part = p.num && c.spilled = some n) }
  { s with
    parts := s.parts.map freed
    quads := s.quads.map fun (x : Nat × Quad) => (x.1, { x.2 with shadow := x.2.shadow.filter fun c => c.baton ≠ baton }) }

/-- The starters of given quads that run a grid go back to idle, the grid's batons there having gone (R168, R178). -/
def State.idleStarters (s : State) (quads : List Nat) (grid : Nat) : State :=
  quads.foldl (fun (s : State) q =>
    match (s.starter q).run with
    | some (g, _) => if g = grid then (s.starterLeaves q).idleStarter q else s
    | none => s) s

/-! ### Kill of a workgroup (R178) -/

/-- Records that fall under a condition become VOID in the logs of a partition's cores, and in their rings (R206, R220); stores that
wait for room are looked at again (R209). -/
def State.voidPart (s : State) (part : Nat) (p : Record → Bool) : State :=
  (((s.cores.map fun (x : Nat × Core) => x.1).filter fun c => (s.corePart c).map (fun (p : Partition) => p.num) = some part).foldl
    (fun (s : State) c => if (s.log c).recs.any p then s.voidRecs c p else s) s).settlePubs.retryAllStores

/-- The records of nodes that are not committed become VOID (R220). -/
def State.voidNode (s : State) (part : Nat) (nodes : List Nat) : State :=
  s.voidPart part fun r => r.node ∈ nodes && !r.committed && r.live

/-! ### Rollback -/

/-- The nodes tainted by given nodes, transitively (R220), by as many rounds as there are nodes. -/
def taintClosure (nodes : List Node) : Nat → List Nat → List Nat
  | 0, l => l
  | n + 1, l => taintClosure nodes n (dedup (l ++ (nodes.filter fun x => x.taints.any fun t => t ∈ l).map fun x => x.num))

/-- Pending reduction contributions and held accumulator values of nodes are removed, and join counters they counted down
are raised again (R247, R250, R305); a replay of their requests in paired mode makes them again (R385). -/
def State.undoReductions (s : State) (part : Nat) (nodes : List Nat) : State :=
  let mine := fun (pa : Nat) => match s.sectorPart (paSector pa) with | some p => decide (p.num = part) | none => false
  let back := s.joins.filter fun j => mine j.pa && decide (j.node ∈ nodes)
  let adds := (s.ordAccs.filter fun a => a.part = part).flatMap fun a => a.held.filter fun h => decide (h.node ∈ nodes)
  let cons := s.contribs.filter fun c => mine c.pa && decide (c.node ∈ nodes)
  let undone := back.map (fun j => (j.req, j.thread)) ++ adds.map (fun h => (h.req, h.thread)) ++ cons.map fun c => (c.req, c.thread)
  let s := { s with
    contribs := s.contribs.filter fun c => !(mine c.pa && decide (c.node ∈ nodes))
    ordAccs := s.ordAccs.map fun a => if a.part = part then { a with held := a.held.filter fun h => !(h.node ∈ nodes) } else a
    joins := s.joins.filter fun j => !(mine j.pa && decide (j.node ∈ nodes))
    results := mapIf (fun r => r.part = part && decide (r.req.1 ≥ 1024))
      (fun r => { r with redo := r.redo ++ (undone.filter fun u => u.1 = r.req).map fun u => u.2 }) s.results }
  back.foldl (fun (s : State) j => s.setHome j.pa (s.homeWord j.pa + 1)) s

/-- Tile buffers that batons set FULL become EMPTY, and those they consumed FULL again (R305). -/
def State.undoBuffers (s : State) (bs : List Baton) : State :=
  bs.foldl (fun (s : State) b =>
    let s := b.filled.foldl (fun (s : State) pa => s.setFull pa false) s
    b.consumed.foldl (fun (s : State) pa => s.setFull pa true) s) s

/-- What happens to a baton of the partition in a rollback of nodes (R305): discarded, put back, or left. -/
inductive Fate where
  | discard
  | requeue
  | keep
deriving DecidableEq, Repr

/-- The fate of a baton: a rolled-back node's baton is re-queued unless it was spawned by one that is rolled back or the
node is aborted (R372), and one that is still queued stays so unless its counter has woken it; a baton of another node spawned by a
rolled-back one is discarded while it has not started. -/
def fateOf (part : Nat) (nodes aborted rolled : List Nat) (b : Baton) : Fate :=
  if b.part ≠ part then .keep
  else
    let spawned := match b.spnode, b.spawner with
      | some n, some p => decide (n ∈ nodes) && decide (p ∈ rolled)
      | _, _ => false
    if b.node ∈ nodes then
      if b.node ∈ aborted || spawned then .discard
      else if b.st = .queued ∧ (b.woken = false ∨ b.waitj.toNat = 0) then .keep else .requeue
    else if spawned && b.st == .queued then .discard
    else .keep

/-- A node, and every node tainted by it, is rolled back (R220, R305): its workgroups stop, their arrays are killed and
their starters idle, its records are void, its reductions and buffers undone, and its batons re-queued or discarded. An
aborted node's batons are discarded, it leaves without a commit, and its grids' LAUNCH packets complete ABORTED (R372). -/
def State.rollback (s : State) (part node : Nat) (aborted : List Nat) : State :=
  let mine := s.nodes.filter fun n => n.part = part
  let nodes := taintClosure mine mine.length [node]
  let ws := s.wgs.filter fun w => w.part = part && decide (w.node ∈ nodes)
  let rolled := (s.batons.filter fun b => b.part = part && decide (b.node ∈ nodes)).map fun b => b.id
  let hit := s.batons.filter fun (b : Baton) => rolled.contains b.id
  let fates := s.batons.map fun b => (b, fateOf part nodes aborted rolled b)
  let s := ws.foldl (fun (s : State) w => ((s.removeWg w.id).killArray w.core).idleStarters [coreQuad w.core] w.grid) s
  let s := ((s.voidNode part nodes).undoReductions part nodes).undoBuffers hit
  let s := rolled.foldl (fun (s : State) b => s.dropContexts b) s
  let gone := (fates.filter fun x => x.2 = .discard).map fun x => x.1.id
  let s := { s with batons := s.batons.filter fun (b : Baton) => !(gone.contains b.id),
                    waiters := s.waiters.filter fun (w : Waiter) => !(gone.contains w.baton) }
  let s := gone.foldl (fun (s : State) b => s.dropClaims b) s
  let s := fates.foldl (fun (s : State) x => if x.2 = .requeue then s.requeue x.1 else s) s
  let s := { s with nodes := s.nodes.map fun n =>
      if n.part = part then
        let lost := (fates.filter fun x => x.2 = .discard && x.1.node = n.num && x.1.st != .finished).length
        let again := (fates.filter fun x => x.2 = .requeue && x.1.node = n.num && x.1.st == .finished).length
        let unformed := if n.num ∈ aborted then
          (s.grids.filter fun g => g.part = part && g.node = n.num).foldl (fun k g => k + (g.count - g.nextWg)) 0 else 0
        { n with live := n.live - lost - unformed + again,
                 taints := if n.num ∈ nodes then n.taints.filter fun t => !(t ∈ nodes) else n.taints,
                 finished := if n.num ∈ nodes then none else n.finished }
      else n }
  let s := if aborted = [] then s else
      let lost := hit.filter fun b => decide (b.node ∈ aborted)
      let s := (s.grids.filter fun g => g.part = part && (decide (g.node ∈ aborted) || lost.any fun b => b.grid = g.id)).foldl
        (fun (s : State) g => s.post 0 (.packetComplete g.qcb g.packet 2)) s
      { s with
        grids := mapIf (fun g => g.part = part && decide (g.node ∈ aborted)) (fun g => { g with nextWg := max g.nextWg g.count }) s.grids
        nodes := s.nodes.filter fun (n : Node) => !(n.part = part && decide (n.num ∈ aborted))
        results := s.results.filter fun r => !(r.part = part && decide (r.node ∈ aborted) && decide (r.req.1 ≥ 1024)) }
  (nodes.foldl (fun (s : State) n => s.commitDue part n) s).placeSoon part

/-- nodeRollback (R220). -/
def execNodeRollback (part node : Nat) (s : State) : Host.Outcome State Fault Refusal := .next (s.rollback part node [])

/-- An uncorrectable abort completion from a physical line rolls the consuming node back, with the nodes it tainted; it is
counted for each of them, and a node whose count of the line reaches three is aborted (R372). -/
def State.uncorrectable (s : State) (part node line : Nat) : State :=
  let mine := s.nodes.filter fun n => n.part = part
  let nodes := taintClosure mine mine.length [node]
  let s := nodes.foldl (fun (s : State) n =>
    s.modNode part n fun x => { x with aborts := kset x.aborts line (kget 0 x.aborts line + 1) }) s
  s.rollback part node (nodes.filter fun n =>
    match s.node? part n with | some x => decide (kget 0 x.aborts line ≥ 3) | none => false)

/-- A compactor cannot read or apply records, for an uncorrectable error at an address (R372): their nodes are rolled back if they have
not committed; committed ones are given up, the home line unchanged. -/
def State.compactorAborts (s : State) (part pa : Nat) (hit : List (Nat × Record)) : State :=
  let s := (dedup ((hit.filter fun x => !x.2.committed).map fun x => x.2.node)).foldl
    (fun (s : State) n => s.uncorrectable part n (pa / 128)) s
  let done := hit.filter fun x => x.2.committed
  let s := done.foldl (fun (s : State) x =>
    (s.ringHeader x.1 { x.2 with done := true }).modLog x.1 fun l =>
      { l with recs := mapIf (fun r => r.num = x.2.num) (fun r => { r with done := true }) l.recs }) s
  s.settleLogs.retryAllStores

/-- The workgroups killed with one: those of its heat, or itself (R178). -/
def State.killedWith (s : State) (wg : Nat) : List Wg :=
  match s.wg? wg with | some w => s.together w | none => []

/-- A streaming fault kills a workgroup (R178): its crews stop without a context, its stores are void, its arrays are
killed, the starters of a heat's quads go idle, and the baton is re-queued unchanged, to be eligible when the page request
is answered; the third kill for one address rolls the node back and reports MEMFAULT to the host. -/
def State.killWg (s : State) (wg addr : Nat) (page : Option Nat) : State :=
  match s.wg? wg with
  | none => s
  | some w =>
    let ws := s.killedWith wg
    let heat := w.heat.isSome
    let s := ws.foldl (fun (s : State) x =>
      let s := (s.removeWg x.id).killArray x.core
      if heat then s.idleStarters [coreQuad x.core] x.grid else s) s
    let s := s.voidPart w.part fun r => (ws.any fun x => x.id = r.wg) && !r.committed && r.live
    match s.baton? w.baton with
    | none => s
    | some b =>
      let n := kget 0 b.kills addr + 1
      let mark := fun (s : State) => s.modBaton b.id fun x => { x with kills := kset x.kills addr n, pageWait := page }
      if n ≥ 3 then
        let s := mark (s.rollback w.part w.node [])
        match s.part? w.part with
        | some p => s.event p.func 0
        | none => s
      else (mark s).requeue b

/-- workgroupKill (R178): the fault needs no page. -/
def execWorkgroupKill (wg addr : Nat) (s : State) : Host.Outcome State Fault Refusal := .next (s.killWg wg addr none)

end Sys2Proof.Machine
end

