-- ==== Sys2Proof/Machine/Memory.lean ====
section
/-! DEFINITION. Loads, the scratchpad, heat-window and operand-window words, presence and prefetch (majors 0x52 to 0x5A,
R183 to R196), and the steps of line requests: routers, slices, HBM controllers, walks, page replies (R18, R199, R201,
R374, R401, R404). -/

namespace Sys2Proof.Machine

/-! ### Loads of generic memory -/

/-- The newest line request that a load's line merges into (R186): every thread of the line has an outstanding load of it,
and no update or store of theirs stands between. -/
def State.mergeTarget (s : State) (o : MemOp) (l : LineReq) : Option (Nat × Nat) :=
  let has := fun (x : MemOp) (t : Nat) => x.lines.any fun m => m.line = l.line && m.isOpen && decide (t ∈ m.threads)
  let loads := s.ops.filter fun x => x.kind == .load && x.core = o.core && x.wg = o.wg && decide (x.id < o.id)
  if l.threads.all fun t => loads.any fun x => has x t then
    let cands := loads.filter fun x => x.lines.any fun m => m.line = l.line && m.isOpen && m.merged.isNone
        && m.threads.any fun t => decide (t ∈ l.threads)
    match cands.getLast? with
    | some x =>
      if s.ops.any fun y => decide (x.id < y.id) && y.kind != .load && !y.kind.isPref && y.wg = o.wg
          && l.threads.any fun t => has y t then none
      else some (x.id, l.line)
    | none => none
  else none

/-- A load's line that has its translation is merged or sent (R186); one that merges needs no replay entry. -/
def State.sendLoadLine (s : State) (op line : Nat) : State :=
  match s.line? op line with
  | none => s
  | some (o, l) =>
    match s.mergeTarget o l with
    | some t => s.modLine op line fun l => { l with merged := some t, st := .held, entry := false }
    | none => s.sendLine op line

/-- The lines of a load that have their translation are merged or sent (R186). -/
def State.sendLoad (s : State) (o : MemOp) : State :=
  o.lines.foldl (fun (s : State) l => if l.pa.isNone || l.st != .walking then s else s.sendLoadLine o.id l.line) s

/-- ld (R186). -/
def execLd (g : BitVec 3) (w : Bool) (d : BitVec 6) (a b : BitVec 7) (s : State) : Host.Outcome State Fault Refusal :=
  withGroup s fun is wg =>
    let act := active is wg g
    if act = [] then s.retire is wg.id
    else
      let lanes := genericLanes s is wg act a b d.toNat
      match addrCause lanes with
      | some (c, bad) => s.memFault is wg g .memfault c false bad
      | none =>
        let o := { newOp s is wg .load lanes (some d.toNat) none (!w) with latch := lostLatches s is wg act [b] }
        if o.allTranslated then (((s.addOp o).retire is wg.id).opPassed o).sendLoad o
        else (((s.addOp o).block is wg.id o.id).walkLines o).sendLoad o

/-- A load whose every line is complete writes D in all its active lanes (R187). -/
def State.loadDone (s : State) (op : Nat) : State :=
  match s.op? op with
  | none => s
  | some o =>
    if o.lines.all fun l => l.st == .done then
      (s.opWriteV o (o.lanes.map fun (a : LaneAcc) =>
        match o.lines.find? fun l => l.line = a.ea / 128 with
        | some l => (a.thread, if o.kind == .load then l.data.getD (a.ea % 128 / 4) 0 else a.ret)
        | none => (a.thread, a.ret)) []).unblock o.wg o.id
    else s

/-- A line of a drain's scale vectors has come (R172); one of an array that was killed is of no use. -/
def State.scaleReply (s : State) (o : MemOp) (line : Nat) : State :=
  if (s.core o.core).queue.any fun m => m.id = o.a then (s.modLine o.id line fun l => { l with st := .done }).poke o.core
  else s.dropOp o.id

/-- The data of a line or element that an engine has read has come: it is written 2 clk later (R274, R280). -/
def State.engineReply (s : State) (o : MemOp) (l : LineReq) : State :=
  let s := (s.dropOp o.id).modWord o.a fun e => { e with got := e.got ++ [(l.line, l.data)] }
  match s.word? o.a with
  | some e => s.post 2 (if e.kind == .gth then .gatherElement e.id l.line else .engineLineWrite e.id l.line)
  | none => s

/-- loadReply (R187): a line request's reply arrives; the view cache takes a line that missed it and that nothing has dropped since,
merged loads take the same reply, and loads that are complete write D. What a walk, an engine or a compactor read goes to it. -/
def execLoadReply (op line : Nat) (s : State) : Host.Outcome State Fault Refusal :=
  match s.line? op line with
  | none => .next s
  | some (o, l) =>
    let pa := l.pa.getD 0
    let keep := l.fill && s.cacheable (pa / 128) && isHbm pa
    let s := if keep then s.modCore o.core fun k =>
        let v : ViewLine := { line := pa / 128, words := mergeOwn k.log.recs (pa / 128) l.data, used := s.clk }
        { k with view := viewFill k.view v } else s
    if o.kind.isPref then
      let s := s.modLine op line fun l => { l with st := .done }
      match s.op? op with
      | some o => .next (if o.lines.all fun l => l.st == .done then s.dropOp op else s)
      | none => .next s
    else if o.kind == .fetch then .next (s.engineReply o l)
    else if o.kind == .walkRead then .next (s.walkGot o l)
    else if o.kind == .compact then .next ((s.dropOp op).post 1 (.compactorApply o.a o.b))
    else if o.kind == .scale then .next ((s.scaleReply o line).releaseHeld o.core)
    else
      let users := s.ops.filter fun x => x.lines.any fun m => m.merged = some (op, line)
      let s := s.modLine op line fun m => { m with st := .done }
      let s := { s with ops := s.ops.map fun (x : MemOp) =>
          let fill := fun (m : LineReq) => { m with st := .done, data := l.data }
          { x with lines := mapIf (fun m => m.merged = some (op, line)) fill x.lines } }
      let s := users.foldl (fun (s : State) x => s.loadDone x.id) (s.loadDone op)
      .next ((users.foldl (fun (s : State) x => s.finishDue x.wg) s).opEnded o.core o.wg)

/-! ### Prefetch -/

/-- pref (R196): bad lanes are dropped; it never faults. -/
def execPref (g : BitVec 3) (n : BitVec 5) (a : BitVec 7) (l : Bool) (s : State) : Host.Outcome State Fault Refusal :=
  withGroup s fun is w =>
    let act := active is w g
    let lanes := (act.map fun t =>
        laneAcc t ((w.sOf t n.toNat + (laneSrc s is w t a.toNat).1.signExtend 64).toNat) 0 0).filter
      fun x => x.ea % 4 = 0 && canonical x.ea
    let s1 := (s.lostLatches is w act [a]).retire is w.id
    if lanes = [] then s1
    else
      let o := newOp s is w (.prefetch (!l)) lanes none none false
      o.lines.foldl (fun (s : State) x => s.sendLine o.id x.line) (s1.addOp o)

/-! ### Scratchpad -/

/-- Offsets of a word that addresses a + b modulo 2³² (R185). -/
def offsetLanes (s : State) (is : Issue) (w : Wg) (act : List Nat) (a b : BitVec 7) (d : Nat) : List LaneAcc :=
  act.map fun t =>
    laneAcc t ((laneSrc s is w t a.toNat).1 + (laneSrc s is w t b.toNat).1).toNat
      (match w.thread? t with | some x => x.reg d | none => 0) 0

/-- The causes of offsets: misaligned 1, then outside a size with a given cause (R179, R185, R200). -/
def offsetCause (lanes : List LaneAcc) (size cause : Nat) : Option (Nat × List (Nat × Nat)) :=
  let pick := fun (p : LaneAcc → Bool) => (lanes.filter p).map fun l => (l.thread, l.ea)
  let al := pick fun l => l.ea % 4 ≠ 0
  let ra := pick fun l => l.ea ≥ size
  if al ≠ [] then some (1, al) else if ra ≠ [] then some (cause, ra) else none

/-- The absent lines among offsets of a workgroup's allocation (R188). -/
def State.absentLines (s : State) (core base : Nat) (offs : List Nat) : List (Nat × Nat) :=
  (dedup (offs.map fun o => (base + o) / 128)).filterMap fun l => if l ∈ (s.core core).absent then some (core, l) else none

/-- The results of a word that reads the scratchpad or operand memory are those of a memory word (R235, R324). -/
def State.finishMem (s : State) (is : Issue) (wg : Wg) (r : Effect) (n : Nat) : State :=
  let mark := fun (p : PendWr) => if p.id = s.ids then { p with mem := is.threads } else p
  (s.finish is wg r n).modWg wg.id fun x => { x with pend := x.pend.map mark }

/-- The result of a load read in place: D in every active lane 6 clk after issue (R204). -/
def State.localLoad (s : State) (is : Issue) (wg : Wg) (w : Bool) (d : Nat) (srcs : List (BitVec 7))
    (vals : List (Nat × Word32)) : State :=
  s.finishMem is wg
    { v := if w then [] else vals.map fun v => (v.1, d, v.2)
      flags := vals.map fun v => (v.1, flagIf (srcs.any fun a => (laneSrc s is wg v.1 a.toNat).2) flLATCH) } 6

/-- lds (R188, R189): an absent line parks the threads. -/
def execLds (g : BitVec 3) (w : Bool) (d : BitVec 6) (a b : BitVec 7) (s : State) : Host.Outcome State Fault Refusal :=
  withGroup s fun is wg =>
    let act := active is wg g
    if act = [] then s.retire is wg.id
    else
      let lanes := offsetLanes s is wg act a b d.toNat
      match offsetCause lanes wg.scratchBytes 3 with
      | some (c, bad) => s.memFault is wg g .memfault c false bad
      | none =>
        match s.absentLines wg.core wg.scratchBase (lanes.map fun l => l.ea) with
        | [] => s.localLoad is wg w d.toNat [a, b]
            (lanes.map fun l => (l.thread, (s.core wg.core).scratch.word (wg.scratchBase + l.ea)))
        | ls => s.park is wg.id (.present ls)

/-- Words written into a core's scratchpad in lane order, the highest lane's value standing (R414). -/
def State.scratchWrite (s : State) (core base : Nat) (lanes : List LaneAcc) : State :=
  s.modCore core fun k => { k with scratch := lanes.foldl (fun (m : Memory) l => m.setWord (base + l.ea) l.x) k.scratch }

/-- sts (R188). -/
def execSts (g : BitVec 3) (d : BitVec 6) (a b : BitVec 7) (s : State) : Host.Outcome State Fault Refusal :=
  withGroup s fun is w =>
    let act := active is w g
    let lanes := offsetLanes s is w act a b d.toNat
    match offsetCause lanes w.scratchBytes 3 with
    | some (c, bad) => s.memFault is w g .memfault c true bad
    | none => ((s.lostLatches is w act [a, b]).scratchWrite w.core w.scratchBase lanes).retire is w.id

/-- pres (R190): every lane's line set or cleared, or none when one lies outside the allocation. -/
def execPres (g : BitVec 3) (v : Bool) (a : BitVec 7) (s : State) : Host.Outcome State Fault Refusal :=
  withGroup s fun is w =>
    let act := active is w g
    let lanes := act.map fun t => laneAcc t (laneSrc s is w t a.toNat).1.toNat 0 0
    let bad := (lanes.filter fun l => l.ea ≥ w.scratchBytes).map fun l => (l.thread, l.ea)
    if bad ≠ [] then s.memFault is w g .memfault 3 false bad
    else
      let lines := dedup (lanes.map fun l => (w.scratchBase + l.ea) / 128)
      let s := (s.lostLatches is w act [a]).retire is w.id
      if v then s.setPresent w.core lines else s.setAbsent w.core lines

/-! ### Heat window -/

/-- The core and scratchpad byte of an offset in a workgroup's heat window (R191, R296); none outside it. -/
def State.windowPlace (s : State) (w : Wg) (off : Nat) : Option (Nat × Nat) :=
  match w.heat with
  | none => none
  | some h =>
    if w.scratchBytes = 0 then none
    else match s.wgs.find? fun x => x.heat = some h && x.hcore = off / w.scratchBytes with
      | some x => some (x.core, x.scratchBase + off % w.scratchBytes)
      | none => none

/-- The number that names a line of another core's scratchpad: owner and line. -/
def windowLine (owner byte : Nat) : Nat := owner * 2048 + byte / 128

/-- Checks of a heat-window word: ALIGN, then RANGE (R191). -/
def State.windowCause (s : State) (w : Wg) (lanes : List LaneAcc) : Option (Nat × List (Nat × Nat)) :=
  match offsetCause lanes (2 ^ 32) 3 with
  | some x => some x
  | none =>
    match (lanes.filter fun l => (s.windowPlace w l.ea).isNone).map fun l => (l.thread, l.ea) with
    | [] => none
    | bad => some (3, bad)

/-- A line request to another core's share. -/
def windowReq (lanes : List LaneAcc) (n : Nat) : LineReq :=
  { line := n, addr := n * 128, pa := some (n * 128), st := .walking, merged := none, entry := false,
    threads := (lanes.filter fun l => l.pa.map (fun p => p / 128) = some n).map fun l => l.thread, bRouter := 0, bSlice := 0,
    bHbm := 0, veteran := false, promoted := 0, keys := [], arrived := 0, extra := 0, flags := [], data := [], fill := false }

/-- The operation of a heat-window word on other cores' shares: a lane's pa is owner × 256 KiB + byte, and own-share lanes
have their value already. -/
def State.windowOp (s : State) (is : Issue) (w : Wg) (kind : OpKind) (lanes : List LaneAcc) (d : Option Nat) (wb : Bool) :
    MemOp :=
  let lanes := lanes.map fun l => match s.windowPlace w l.ea with
    | some (c, byte) => if c = w.core then { l with ret := (s.core c).scratch.word byte } else { l with pa := some (c * 262144 + byte) }
    | none => l
  let far := dedup (lanes.filterMap fun l => l.pa.map fun p => p / 128)
  { newOp s is w kind [] d none wb with lanes := lanes, lines := far.map fun n => windowReq lanes n }

/-- ldx (R191): the own share acts as lds; other cores' lines are asked of their owners, and the threads issue nothing younger until
they have answered. -/
def execLdx (g : BitVec 3) (w : Bool) (d : BitVec 6) (a b : BitVec 7) (s : State) : Host.Outcome State Fault Refusal :=
  withGroup s fun is wg =>
    let act := active is wg g
    if act = [] then s.retire is wg.id
    else
      let lanes := offsetLanes s is wg act a b d.toNat
      match s.windowCause wg lanes with
      | some (c, bad) => s.memFault is wg g .memfault c false bad
      | none =>
        let own := lanes.filterMap fun l => match s.windowPlace wg l.ea with
          | some (c, byte) => if c = wg.core then some byte else none
          | none => none
        match s.absentLines wg.core 0 own with
        | [] =>
          let o : MemOp := { s.windowOp is wg .ldx lanes (some d.toNat) (!w) with latch := lostLatches s is wg act [a, b] }
          if o.lines = [] then s.localLoad is wg w d.toNat [a, b] (o.lanes.map fun l => (l.thread, l.ret))
          else o.lines.foldl (fun (s : State) l => s.sendLine o.id l.line) ((s.addOp o).block is wg.id o.id)
        | ls => s.park is wg.id (.present ls)

/-- stx (R191): lanes of the own share are written in place, the others travel. -/
def execStx (g : BitVec 3) (d : BitVec 6) (a b : BitVec 7) (s : State) : Host.Outcome State Fault Refusal :=
  withGroup s fun is w =>
    let act := active is w g
    if act = [] then s.retire is w.id
    else
      let lanes := offsetLanes s is w act a b d.toNat
      match s.windowCause w lanes with
      | some (c, bad) => s.memFault is w g .memfault c true bad
      | none =>
        let s := s.lostLatches is w act [a, b]
        let own := lanes.filterMap fun l => match s.windowPlace w l.ea with
          | some (c, byte) => if c = w.core then some { l with ea := byte } else none
          | none => none
        let o := s.windowOp is w .stx lanes none false
        let s := (s.scratchWrite w.core 0 own).retire is w.id
        if o.lines = [] then s
        else o.lines.foldl (fun (s : State) l => s.sendLine o.id l.line) (s.addOp o)

/-- heatWindowRequest (R191): the owner reads or writes in place and answers, or sends an absence notice and sets a wake
mark. A store that comes again because its answer was dropped writes nothing. An engine's line is read here, or its write is due. -/
def execHeatWindowRequest (op line : Nat) (s : State) : Host.Outcome State Fault Refusal :=
  match s.line? op line with
  | none => .next s
  | some (o, l) =>
    let owner := l.addr / 262144
    let own := l.addr % 262144 / 128
    let mine := o.lanes.filter fun l => l.pa.map (fun p => p / 128) = some line
    let arrived := s.modLine op line fun l => { l with st := .returning, arrived := s.clk }
    if o.kind == .put then .next ((s.modLine op line fun l => { l with st := .serving }).post 0 (.engineLineWrite o.a line))
    else if o.kind == .fetch then
      let data := (s.placeRead (blockPlace (l.addr / 0x100000) (l.addr % 0x100000)) 32).getD []
      .next (({ arrived.modLine op line fun l => { l with data := data } with free := s.free + 32 }).sendRouter 0 op line true)
    else if o.kind == .stx then
      let mem := (sortBy (fun l => l.thread) mine).foldl (fun (m : Memory) (l : LaneAcc) =>
        m.setWord (l.pa.getD 0 % 262144) l.x) (s.core owner).scratch
      let s' := if l.arrived = 0 then arrived.modCore owner fun k => { k with scratch := mem } else arrived
      .next ((s'.charge owner 1).sendRouter 0 op line true)
    else if own ∈ (s.core owner).absent then
      let mark := fun (k : Core) => { k with wake := if (own, o.core) ∈ k.wake then k.wake else k.wake ++ [(own, o.core)] }
      .next ((((s.modLine op line fun l => { l with st := .absent, arrived := s.clk }).modCore owner mark)).post 20
        (.absenceNotice o.core owner own))
    else
      let s := arrived.modOp op fun x => { x with lanes := x.lanes.map fun l =>
          let far := l.pa.map (fun p => p / 128) = some line
          { l with ret := if far then (s.core owner).scratch.word (l.pa.getD 0 % 262144) else l.ret } }
      .next ((s.charge owner 1).sendRouter 0 op line true)

/-- absenceNotice (R191): the threads of the word that met the absent line park at it and the entry is freed; if the wake notice has come
before it they issue again in the next clk. -/
def execAbsenceNotice (core owner line : Nat) (s : State) : Host.Outcome State Fault Refusal :=
  match s.ops.find? fun o => o.core = core && o.kind == .ldx && o.lines.any fun l =>
      l.line = owner * 2048 + line && (l.st == .absent || l.st == .noticed) && decide (l.arrived + 20 ≤ s.clk) with
  | none => .next s
  | some o =>
    let woken := o.lines.any fun l => l.line = owner * 2048 + line && l.st == .noticed
    let c : PCond := if woken then .present [] else .woken owner line
    .next (((s.dropOp o.id).modWg o.wg (fun w => w.modThreads o.threads fun t =>
      if t.wait == .blocked o.id then { t with pc := o.first, wait := .parked c, since := s.clk } else t)).opEnded core o.wg)

/-- wakeNotice (R191): the threads parked for the line issue the word again in the next clk; one whose absence notice is still on its way
keeps it. -/
def execWakeNotice (core owner line : Nat) (s : State) : Host.Outcome State Fault Refusal :=
  let note := fun (l : LineReq) => if l.line = owner * 2048 + line && l.st == .absent then { l with st := .noticed } else l
  .next { s with
    wgs := s.wgs.map fun (w : Wg) =>
      if w.core = core then
        { w with threads := w.threads.map fun t =>
            if t.wait == .parked (.woken owner line) then { t with wait := .parked (.present []) } else t }
      else w
    ops := mapIf (fun o => o.core = core && o.kind == .ldx) (fun o => { o with lines := o.lines.map note }) s.ops }

/-- stxAcknowledge (R191): the store is complete. -/
def execStxAcknowledge (op line : Nat) (s : State) : Host.Outcome State Fault Refusal :=
  match s.line? op line with
  | none => .next s
  | some (o, _) =>
    let s := s.modLine op line fun l => { l with st := .done }
    match s.op? op with
    | some x => .next ((if x.lines.all fun l => l.st == .done then s.dropOp op else s).opEnded o.core o.wg)
    | none => .next s

/-! ### Operand window -/

/-- The causes of a word of the operand window (R192): ALIGN, WINDOW, SLOT. -/
def State.operandCause (s : State) (w : Wg) (lanes : List LaneAcc) (write : Bool) : Option (Nat × List (Nat × Nat)) :=
  match offsetCause lanes 0x20000 7 with
  | some x => some x
  | none =>
    let bad := (lanes.filter fun l =>
      let st := ((s.core w.core).slot (l.ea / 16384)).state
      if write then st != .claimed else st == .free || st == .scrub).map fun l => (l.thread, l.ea)
    if bad = [] then none else some (6, bad)

/-- ldw (R192). -/
def execLdw (g : BitVec 3) (w : Bool) (d : BitVec 6) (a b : BitVec 7) (s : State) : Host.Outcome State Fault Refusal :=
  withGroup s fun is wg =>
    let act := active is wg g
    if act = [] then s.retire is wg.id
    else
      let lanes := offsetLanes s is wg act a b d.toNat
      match s.operandCause wg lanes false with
      | some (c, bad) => s.memFault is wg g .memfault c false bad
      | none => s.localLoad is wg w d.toNat [a, b] (lanes.map fun l => (l.thread, (s.core wg.core).opmem.word l.ea))

/-- Words written into operand memory, in lane order (R145). -/
def Core.operandWrite (k : Core) (lanes : List LaneAcc) : Core :=
  { k with opmem := lanes.foldl (fun (m : Memory) l => m.setWord l.ea l.x) k.opmem }

/-- stw (R192, R145): each written word's word-valid bit is set. -/
def execStw (g : BitVec 3) (d : BitVec 6) (a b : BitVec 7) (s : State) : Host.Outcome State Fault Refusal :=
  withGroup s fun is w =>
    let act := active is w g
    let lanes := offsetLanes s is w act a b d.toNat
    match s.operandCause w lanes true with
    | some (c, bad) => s.memFault is w g .memfault c true bad
    | none =>
      let s := (s.lostLatches is w act [a, b]).modCore w.core fun k =>
        lanes.foldl (fun (k : Core) l => k.markWord l.ea) (k.operandWrite lanes)
      (s.poke w.core).retire is w.id

/-- mload (R153): the offset is old v_d, the data per-lane source A; the word-valid bits are set 4 clk after issue. -/
def execMload (g : BitVec 3) (d : BitVec 6) (a : BitVec 7) (sc : BitVec 3) (s : State) : Host.Outcome State Fault Refusal :=
  withGroup s fun is w =>
    let act := active is w g
    let base := 16384 * sc.toNat
    let offs := act.map fun t => (t, match w.thread? t with | some x => (x.reg d.toNat).toNat | none => 0)
    let pick := fun (p : Nat → Bool) => (offs.filter fun x => p x.2).map fun x => (x.1, base + x.2)
    let al := pick fun o => o % 4 ≠ 0
    let ra := pick fun o => o ≥ 16384
    let sl := if ((s.core w.core).slot sc.toNat).state = .claimed then [] else pick fun _ => true
    if al ≠ [] then s.memFault is w g .memfault 1 true al
    else if ra ≠ [] then s.memFault is w g .memfault 3 true ra
    else if sl ≠ [] then s.memFault is w g .memfault 6 true sl
    else if act = [] then s.retire is w.id
    else
      let lanes := offs.map fun x => laneAcc x.1 (base + x.2) (laneSrc s is w x.1 a.toNat).1 0
      let pw : PendWr :=
        { id := s.ids, v := [], s := [], p := [], flags := [], crews := [], valid := lanes.map (fun l => l.ea), latch := [],
          mem := is.threads }
      let s := (s.lostLatches is w act [a]).modCore w.core fun k => k.operandWrite lanes
      let s := (s.modWg w.id fun x => { x with pend := x.pend ++ [pw] }).post 4 (.multiClkResultWrite w.id s.ids)
      s.takeId.retire is w.id

/-! ### Routers, slices and HBM controllers -/

/-- A prefetch line is dropped without a trace (R196). -/
def State.dropLine (s : State) (op line : Nat) : State :=
  let s := s.modLine op line fun l => { l with st := .done }
  match s.op? op with
  | some o => if o.lines.all fun l => l.st == .done then s.dropOp op else s
  | none => s

/-- Whether a request goes to a core's share of a heat window, by the core's own network (R191, R274). -/
def MemOp.toWindow (o : MemOp) : Bool := o.kind.isWindow || (o.kind.isEngine && o.phase = 1)

/-- The clk that an operation's requests take one way to a slice (R204); a compactor's leave from its own slice (R219). -/
def MemOp.way (o : MemOp) (h : Nat) : Nat :=
  if o.kind == .compact then (if sliceDie o.c = sliceDie h then 20 else 60) else travel o.core h

/-- The clk that a request travels one way (R191, R204, R280); an engine's write is counted from its data, not its travel. -/
def MemOp.travelTime (o : MemOp) (pa : Nat) : Nat :=
  if o.kind == .put then 0 else if o.toWindow then 20 else if o.kind.isEngine && isHost pa then 60 else o.way (paSlice pa)

/-- The arrival of an operation's reply at its core. -/
def OpKind.replyStep (k : OpKind) (op line : Nat) : Instr :=
  match k with
  | .atomic .. | .radd .. | .oadd | .done => .atomicReply op line
  | .acq _ => .acquireReply op
  | .rel _ | .empty | .orinit => .releaseReply op
  | .stx => .stxAcknowledge op line
  | _ => .loadReply op line

/-- routerPacket (R18, R201): a packet is forwarded, or dropped with a negative acknowledgement that reaches the requester 2
clk later from a router of its own die and 60 clk later from another die's; which die drops it is a free choice. A prefetch is dropped
without one (R196). -/
def execRouterPacket (op line : Nat) (reply blocked : Bool) (s : State) : Host.Outcome State Fault Refusal :=
  match s.line? op line with
  | none => .next s
  | some (o, l) =>
    let pa := l.pa.getD 0
    let t := o.travelTime pa
    if blocked then
      if o.kind.isPref then .next (s.dropLine op line)
      else
        let near := o.toWindow || o.way (paSlice pa) = 20
        .next ((s.bounce op line (if near || Config.freeChoice s.free then 2 else 60) 0).takeFree)
    else if reply then .next (s.post (if o.kind == .stx then t else t - 1) (o.kind.replyStep op line))
    else if o.toWindow then .next (s.post t (.heatWindowRequest op line))
    else .next (s.post t (.sliceRequestArrival op line))

/-- A line of a load, a prefetch or a read of home memory is served: its words are read and its reply sent (R187, R198, R208, R219, R233,
R406). -/
def State.serveLoad (s : State) (o : MemOp) (l : LineReq) (time : Nat) : State :=
  let pa := l.pa.getD 0
  let n := if o.kind.isRaw then 0 else s.lineRecords o.core pa
  let extra := if n = 0 then 0 else 60 + 2 * n
  let data := if o.kind.isRaw then (List.range 32).map fun k => s.homeWord (pa / 128 * 128 + 4 * k) else s.loadLine o.core pa
  ((s.modLine o.id l.line fun l => { l with st := .serving, data := data }).takeFree).sendRouter (time + extra) o.id l.line true

/-- Log records reach the ring's home slice (R207). -/
def State.ringArrive (s : State) (o : MemOp) (l : LineReq) : State :=
  let s := (o.lanes.filter fun a => a.ea / 128 = l.line).foldl (fun (s : State) a => s.setHome a.ea a.x) (s.sliceFill (128 * l.line))
  s.dropLine o.id l.line

/-- Whether a host write may change a byte in place: HBM that is not sealed and holds no object's line (R194, R210, R233). -/
def State.hostMayWrite (s : State) (a : Nat) : Bool :=
  isHbm a && !s.isSealed a && !(s.objs.any fun o => o.pa / 128 = a / 128) && !(s.ordAccs.any fun o => o.pa / 128 = a / 128 && !o.done)

/-- A byte as its home slice holds it. -/
def State.homeByte (s : State) (pa : Nat) : Byte := (s.homeWord (pa / 4 * 4)).extractLsb' (8 * (pa % 4)) 8

/-- A host's CXL.mem write of a line is applied in place (R386). -/
def State.hostWrite (s : State) (o : MemOp) (l : LineReq) : State :=
  let put := o.ranges.filter fun x => x.1 / 128 = l.line && s.hostMayWrite x.1
  let touched := fun (n : Nat) => put.any fun x => x.1 / 4 = n
  let s := { s with mem := put.foldl (fun (m : Memory) (x : Nat × Nat) => m.set x.1 (BitVec.ofNat 8 x.2)) s.mem
                    badWords := s.badWords.filter fun n => !touched n }
  (if put = [] then s else s.wakeWatch (128 * l.line)).dropLine o.id l.line

/-- A host's CXL.mem read of a line is served; its data goes out with the last of its lines (R386). -/
def State.hostRead (s : State) (o : MemOp) (l : LineReq) : State :=
  let s := s.modLine o.id l.line fun l => { l with st := .done, data := (List.range 32).map fun k => s.homeWord (128 * l.line + 4 * k) }
  match s.op? o.id with
  | none => s
  | some o =>
    if o.lines.all fun l => l.st == .done then
      let byte := fun (a : Nat) => match o.lines.find? fun l => l.line = a / 128 with
        | some l => (l.data.getD (a % 128 / 4) 0).extractLsb' (8 * (a % 4)) 8
        | none => 0
      (s.dropOp o.id).send (.readData o.a ((List.range o.n).map fun k => byte (o.a + k)) false)
    else s

/-! ### Lines and elements of engine words -/

/-- Destination and source space of an engine word (R273, R275, R277). -/
def EngWord.dsp (e : EngWord) : Nat := if e.kind == .gth then natBits e.ctl 5 4 else natBits e.ctl 33 32
def EngWord.ssp (e : EngWord) : Nat := if e.kind == .gth then 0 else natBits e.ctl 35 34
/-- Bytes of one transfer: a line, or a gather element (R277). -/
def EngWord.size (e : EngWord) : Nat := if e.kind == .gth then 4 * 2 ^ natBits e.ctl 2 0 else 128

/-- The source address of a line or element; an overlay's lines begin where the kernel's table says. -/
def EngWord.srcAt (e : EngWord) (k : Nat) : Nat :=
  match e.kind with
  | .gth =>
    match e.idx[k]? with
    | some (_, v) => (BitVec.ofNat 64 e.src + BitVec.ofNat 64 e.size * v.signExtend 64).toNat
    | none => 0
  | .ovl => e.dst + 128 * k
  | _ => e.src + 128 * k

/-- The destination address of a line or element; an element goes to the place of its lane, and a coll's lines that it writes come after
those it reads. -/
def EngWord.dstAt (e : EngWord) (w : Wg) (k : Nat) : Nat :=
  match e.kind with
  | .gth => match e.idx[k]? with | some (t, _) => e.dst + e.size * w.laneOf t | none => e.dst
  | .coll => e.dst + 128 * (k - e.reads)
  | _ => e.dst + 128 * k

/-- The generic address that a line or element reads, with its permission, and the one that it writes, if they are generic (R197, R274,
R277, R279). -/
def EngWord.srcGen (e : EngWord) (k : Nat) : Option (Nat × Nat) :=
  match e.kind with
  | .coll => if k < e.reads then some (e.srcAt k, 0) else none
  | .ovl => some (e.srcAt k, 2)
  | _ => if e.ssp = 0 then some (e.srcAt k, 0) else none
def EngWord.dstGen (e : EngWord) (w : Wg) (k : Nat) : Option Nat :=
  match e.kind with
  | .coll => if k < e.reads then none else some (e.dstAt w k)
  | .ovl | .cpyw => none
  | _ => if e.dsp = 0 then some (e.dstAt w k) else none

/-- A line or element in progress. -/
def EngWord.part? (e : EngWord) (k : Nat) : Option EngPart := e.live.find? fun p => p.k = k
/-- Whether a line or element waits for a translation or for its bucket. -/
def EngWord.waits (e : EngWord) (k : Nat) : Bool := e.live.any fun p => p.k = k && !p.sent
/-- A line or element changed. -/
def State.modLive (s : State) (word k : Nat) (f : EngPart → EngPart) : State :=
  s.modWord word fun e => { e with live := mapIf (fun p => p.k = k) f e.live }

/-- A translation of a line or element has come (R409). -/
def State.partTranslated (s : State) (word k perm : Nat) (l : Leaf) : State :=
  match s.word? word with
  | none => s
  | some e =>
    match s.wg? e.wg with
    | none => s
    | some w => s.modLive word k fun p =>
      if perm = 1 then { p with dst := some (l.addr (e.dstAt w k)) } else { p with src := some (l.addr (e.srcAt k)) }

/-- Whether a word has nothing more to begin and nothing under way. -/
def EngWord.finished (e : EngWord) : Bool :=
  e.live = [] && (e.stop || e.cancel || decide (e.doneLines.length ≥ e.total))

/-- A word that is over completes 2 clk later (R280). -/
def State.wordOver (s : State) (id : Nat) : State :=
  match s.word? id with
  | some e => if e.finished then s.post 2 (.engineWordComplete id) else s
  | none => s

/-- The abort completion of a line request whose data has an uncorrectable error (R371, R372): a thread's load, atomic or reduction, or the
walk for one, rolls its node back; an engine word completes UNCORRECTABLE; a packet's read fails; a host's is poisoned; a compactor gives
its record up. -/
def State.abortLine (s : State) (o : MemOp) (l : LineReq) : State :=
  let line := l.pa.getD 0 / 128
  let ofNode := fun (s : State) (x : MemOp) => s.uncorrectable x.part x.node line
  let word := fun (s : State) (id lane : Nat) =>
    (s.modWord id fun x => { x with causes := x.causes ++ [(lane, 8)], stop := true, bad := some line, live := x.live.filter fun p => p.k ≠ lane }).wordOver
      id
  match o.kind with
  | .prefetch _ => s.dropLine o.id l.line
  | .fetch => word (s.dropOp o.id) o.a l.line
  | .host _ => (s.dropOp o.id).send (.readData o.a [] true)
  | .patrol => s.dropOp o.id
  | .compact => (s.dropOp o.id).compactorAborts o.part (l.pa.getD 0)
      (((s.log o.a).recs.filter fun (r : Record) => r.num = o.b).map fun (r : Record) => (o.a, r))
  | .walkRead =>
    let who := match s.walks.find? fun w => w.id = o.a with | some w => w.who | none => []
    let s := { s.dropOp o.id with walks := s.walks.filter fun w => w.id ≠ o.a }
    who.foldl (fun (s : State) a =>
      match a with
      | .line op _ | .range op _ => match s.op? op with | some x => ofNode (s.dropOp op) x | none => s
      | .element id lane => word s id lane
      | .packet hart => ({ s with harts := mapIf (fun h => h.num = hart) (fun h => { h with denied := true }) s.harts }).post 0 (.packetRead hart))
      s
  | _ => ofNode s o

/-- A slice begins a request that it has, or that HBM has answered: updates, object operations and engine writes by their own
steps, the others at once. -/
def State.serveAt (s : State) (o : MemOp) (l : LineReq) (time : Nat) : State :=
  match o.kind with
  | .atomic .. | .radd .. | .oadd | .done | .orinit => s.post 0 (.atomicAtSlice o.id l.line)
  | .acq _ => s.post 0 (.acquireAtSlice o.id)
  | .rel _ | .empty => s.post 0 (.releaseAtSlice o.id)
  | .put => (s.sliceFill (l.pa.getD 0)).post 0 (.engineLineWrite o.a l.line)
  | .ring => s.ringArrive o l
  | .host true => s.hostWrite o l
  | .host false => s.hostRead o l
  | .patrol => (s.dropOp o.id).patrolFound (l.pa.getD 0) (s.lineBad (l.pa.getD 0))
  | _ => s.serveLoad o l time

/-- The function under whose weight an operation's requests are served (R380), and the partition they belong to. -/
def State.opFunc (_ : State) (o : MemOp) : Nat := o.ctx.func
def State.opPart (_ : State) (o : MemOp) : Nat := o.part

/-- How far a function's turn lies ahead: 0 for the one that may go now (R380; a turn is WEIGHT requests, log entry 30). -/
def Arbiter.ahead (a : Arbiter) (f : Nat) : Nat := (f + (if a.left = 0 then 63 else 64) - a.turn) % 64

/-- How far a partition lies ahead in the turns for reserved entries (R380). -/
def Arbiter.vahead (a : Arbiter) (p : Nat) : Nat := (p + 15 - a.vturn) % 16

/-- A request of a function is taken (R380). -/
def State.takeTurn (s : State) (f : Nat) (a : Arbiter) : Arbiter :=
  if f = a.turn ∧ a.left ≠ 0 then { a with left := a.left - 1 }
  else { a with turn := f, left := max 1 ((s.func f).qosw.toNat % 256) - 1 }

/-- A reserved entry is taken for a partition's veteran until a clk; eight of them are kept (R380). -/
def State.takeReserved (s : State) (p upto : Nat) (a : Arbiter) : Arbiter :=
  { a with vturn := p, reserved := (a.reserved.filter fun t => s.clk < t) ++ [upto] }
def State.noReserved (s : State) (a : Arbiter) : Bool := decide (8 ≤ (a.reserved.filter fun t => s.clk < t).length)

/-- The place of a requester in the order of R404: cores in ascending index, walkers in ascending sector number,
the command complex, the host, compactors. -/
def MemOp.askerOrder (o : MemOp) : Nat :=
  match o.kind with
  | .walkRead => 1024 + coreSector o.core
  | .compact => 3584 + o.c
  | .host _ => 3072
  | _ => o.core

/-- The place of a request among those that a slice takes in one clk (R380, R404): veterans by turns of their partitions and in
the order of their promotion, then what is queued, then arrivals by turns of their functions and in the order of their requesters. -/
def State.sliceRank (s : State) (op line : Nat) : Nat :=
  match s.line? op line with
  | none => 0
  | some (o, l) =>
    let x := s.slice (paSlice (l.pa.getD 0))
    if 4 ≤ l.bSlice then x.arb.vahead (s.opPart o) * 2 ^ 64 + l.promoted * 4096 + o.askerOrder
    else if l.st == .queued then 2 ^ 80 + x.queue.findIdx (fun q => q = (op, line))
    else 2 ^ 81 + x.arb.ahead (s.opFunc o) * 4096 + o.askerOrder

/-- The place of what arrives at an address's slice without a line request, for a function: 2,560 of the command complex, 3,072 of the host,
3,584 of the compactor (R404). -/
def State.directRank (s : State) (pa f order : Nat) : Nat := 2 ^ 81 + (s.slice (paSlice pa)).arb.ahead f * 4096 + order

/-- Such a request is started by its slice under its function's weight, or waits for the next clk when four have started (R380, R404). -/
def State.directStart (s : State) (pa f : Nat) : Option State :=
  if isHbm pa then (s.takeStart (paSlice pa)).map fun t => t.modSlice (paSlice pa) fun x => { x with arb := s.takeTurn f x.arb } else some s

/-- The same at an HBM controller for requests that waited for a bank (R380); one that has just come is served at once. -/
def State.hbmRank (s : State) (op line : Nat) : Nat :=
  match s.line? op line with
  | none => 0
  | some (o, l) =>
    let x := s.hbm (paStack (l.pa.getD 0))
    if l.st != .queued then 0
    else if 4 ≤ l.bHbm then 1 + x.arb.vahead (s.opPart o) * 2 ^ 64 + l.promoted
    else 2 ^ 80 + x.arb.ahead (s.opFunc o) * 2 ^ 32 + x.queue.findIdx (fun q => q = (op, line))

/-- sliceRequestArrival (R380, R404): at most four requests start in a clk; the others queue and come again in the next. A
veteran starts in one of eight reserved entries. A hit is served in 40 clk; a miss goes to the HBM controller. Host memory is not
behind a slice and is served as a hit. A hold bound counts clk of the package, whatever an island's clock (log entry 68). -/
def execSliceRequestArrival (op line : Nat) (s : State) : Host.Outcome State Fault Refusal :=
  match s.line? op line with
  | none => .next s
  | some (o, l) =>
    if l.st != .travelling && l.st != .queued then .next s
    else
      let pa := l.pa.getD 0
      let h := paSlice pa
      let sl := s.slice h
      let n := if sl.startedAt = s.clk then sl.startedN else 0
      let first := l.st == .travelling
      let vet := decide (4 ≤ l.bSlice)
      let s := if first then s.modLine op line fun l => { l with arrived := s.clk } else s
      let s := if first && !vet then s.modSlice h fun x => { x with arb := s.takeTurn (s.opFunc o) x.arb } else s
      if decide (n ≥ 4) || (vet && s.noReserved sl.arb) then
        let s := s.modSlice h fun x => { x with queue := (x.queue.filter fun q => q ≠ (op, line)) ++ [(op, line)] }
        let s := s.modLine op line fun l => { l with st := .queued }
        let s := s.post 1 (.sliceRequestArrival op line)
        .next (if first && !vet then s.post 256 (.sliceHoldBoundExpiry op line) else s)
      else
        let s := s.modSlice h fun x =>
          { x with queue := x.queue.filter fun q => q ≠ (op, line), startedAt := s.clk, startedN := n + 1,
                   arb := if vet then s.takeReserved (s.opPart o) (s.clk + 40) x.arb else x.arb }
        let s := s.modLine op line fun l => { l with st := .serving, extra := 0 }
        if !isHbm pa || pa / 128 ∈ sl.lines || !s.cacheable (pa / 128) || o.kind.isObject || o.kind.isPut then .next (s.serveAt o l 40)
        else .next (s.post 0 (.hbmRequestArrival op line))

/-- sliceHoldBoundExpiry (R201): a request still queued is bounced; a prefetch is dropped (R196). -/
def execSliceHoldBoundExpiry (op line : Nat) (s : State) : Host.Outcome State Fault Refusal :=
  match s.line? op line with
  | none => .next s
  | some (o, l) =>
    if l.st == .queued && decide (l.arrived + 256 ≤ s.clk) then
      let h := paSlice (l.pa.getD 0)
      let s := s.modSlice h fun x => { x with queue := x.queue.filter fun q => q ≠ (op, line) }
      if o.kind.isPref then .next (s.dropLine op line) else .next (s.bounce op line (o.way h) 1)
    else .next s

/-- The bank and the row of a stack that an address lies in: not given by the spec (log entry 12). -/
def hbmBankOf (pa : Nat) : Nat := Config.hbmBank (pa / 128)
def hbmRowOf (pa : Nat) : Nat := Config.hbmRow (pa / 128)

/-- A row is activated: its count rises, and at RHCTL.THRESH the controller issues refresh management (R374). -/
def State.activate (s : State) (stack bank row : Nat) : State :=
  let old := match (s.hbm stack).acts.find? fun a => a.1 = bank && a.2.1 = row with | some a => a.2.2 | none => 0
  let thresh := (kget 0x400 s.rhctl stack).toNat % 65536
  let s := s.modHbm stack fun x =>
    { x with acts := (x.acts.filter fun a => !(a.1 = bank && a.2.1 = row)) ++ [(bank, row, old + 1)] }
  if old + 1 ≥ thresh then s.post 0 (.refreshManagement stack bank row) else s

/-- hbmRequestArrival (R204, R374, R380): a request for a bank under refresh or management waits in the controller's queue, and a
veteran when all reserved entries are in use; any other is served in 220 clk and fills its slice, unless its line is known to be bad
(R371). -/
def execHbmRequestArrival (op line : Nat) (s : State) : Host.Outcome State Fault Refusal :=
  match s.line? op line with
  | none => .next s
  | some (o, l) =>
    if l.st != .serving && l.st != .queued then .next s
    else
      let pa := l.pa.getD 0
      let st := paStack pa
      let vet := decide (4 ≤ l.bHbm)
      let full := vet && s.noReserved (s.hbm st).arb
      if hbmBankOf pa ∈ (s.hbm st).busy ∨ full = true then
        let first := l.st == .serving
        let s := s.modHbm st fun x => { x with queue := (x.queue.filter fun q => q ≠ (op, line)) ++ [(op, line)] }
        let s := s.modLine op line fun l => { l with st := .queued, arrived := if first then s.clk else l.arrived }
        let s := if full then s.post 1 (.hbmRequestArrival op line) else s
        .next (if first && !vet then s.post 512 (.hbmHoldBoundExpiry op line) else s)
      else
        let bad := s.lineBad pa
        let s := (s.activate st (hbmBankOf pa) (hbmRowOf pa)).modHbm st fun x =>
          { x with queue := x.queue.filter fun q => q ≠ (op, line)
                   arb := if vet then s.takeReserved (s.opPart o) (s.clk + 220) x.arb else s.takeTurn (s.opFunc o) x.arb }
        let s := s.modLine op line fun l => { l with st := .serving, extra := 220, arrived := s.clk }
        if bad && o.kind != .patrol then .next ((s.recordBad pa (if o.kind == .compact then 3 else 0) false).abortLine o l)
        else .next ((if o.kind == .patrol then s else s.sliceFill pa).serveAt o l 260)

/-- hbmHoldBoundExpiry (R374): a request still queued is bounced and counted in RHBOUNCE of its partition. -/
def execHbmHoldBoundExpiry (op line : Nat) (s : State) : Host.Outcome State Fault Refusal :=
  match s.line? op line with
  | none => .next s
  | some (o, l) =>
    let pa := l.pa.getD 0
    if l.st == .queued && decide ((op, line) ∈ (s.hbm (paStack pa)).queue) && decide (l.arrived + 512 ≤ s.clk) then
      let s := s.modHbm (paStack pa) fun x => { x with queue := x.queue.filter fun q => q ≠ (op, line) }
      let s := s.modRel o.part fun r => { r with rhbounce := r.rhbounce + 1 }
      if o.kind.isPref then .next (s.dropLine op line) else .next (s.bounce op line (o.way (paSlice pa)) 2)
    else .next s

/-- bounceNotice (R19, R201): the bounce is counted for its structure, the fourth makes the entry a veteran, and it reissues
8, 64 or 96 clk later. -/
def execBounceNotice (op line cause : Nat) (s : State) : Host.Outcome State Fault Refusal :=
  match s.line? op line with
  | none => .next s
  | some (_, l) =>
    let r := l.bRouter + (if cause = 0 then 1 else 0)
    let b := l.bSlice + (if cause = 1 then 1 else 0)
    let h := l.bHbm + (if cause = 2 then 1 else 0)
    let s := s.modLine op line fun l =>
      { l with bRouter := r, bSlice := b, bHbm := h, veteran := l.veteran || decide (b ≥ 4) || decide (h ≥ 4)
               promoted := if l.veteran then l.promoted else s.clk }
    .next (s.post (if cause = 0 then 8 else if cause = 1 then 64 else 96) (.replayReissue op line))

/-- replayReissue (R201): a bounced entry goes out again, with its old key (R246); one that waited for its core's bucket is
looked at again (R382), and so is an acquire that waits for loads in place (R232). A release may have waited for a ring write. -/
def execReplayReissue (op line : Nat) (s : State) : Host.Outcome State Fault Refusal :=
  match s.line? op line with
  | none => .next s
  | some (o, l) =>
    if o.kind.isObject && o.phase = 0 then .next (s.objectGo o)
    else if l.st == .held then .next (s.sendLine op line)
    else if l.st != .bounced then .next s
    else if o.kind == .patrol then .next ((s.modLine op line fun l => { l with st := .serving }).post 0 (.hbmRequestArrival op line))
    else
      let s := (s.modLine op line fun l => { l with st := .travelling }).sendRouter (if o.wg = 0 then 0 else s.comparator o.part) op line false
      .next (if o.kind == .ring then s.releaseHeld o.core else s)

/-! ### Walks and page requests -/

/-- A line's translation has come: it is entered, and the operation goes on (R199, R205, R243). -/
def State.lineTranslated (s : State) (op line pa : Nat) : State :=
  match s.line? op line with
  | none => s
  | some (o, _) =>
    let got := fun (l : LineReq) => { l with pa := some (pa / 128 * 128), st := .walking }
    let s := s.modOp op fun x => ({ x with lines := mapIf (fun l => l.line = line) got x.lines }).translated
    match s.op? op with
    | none => s
    | some x =>
      match o.kind with
      | .load => (if x.allTranslated then s.opPassed x else s).sendLoadLine op line
      | .prefetch _ | .scale | .rel _ | .acq _ | .empty => s.sendLine op line
      | .store => if x.allTranslated then s.storeReady x else s
      | .atomic .. | .radd .. | .oadd | .done => if x.allTranslated then s.updateReady x else s
      | _ => s

/-- The elements of a gather that are about to reissue: one goes in each clk (R409), and none beside a read of this clk (R277). -/
def State.elementsDue (s : State) (word : Nat) : Nat :=
  match s.word? word with
  | some e => (s.agenda.filter fun a => match a.2 with
      | .gatherElement w lane => w = word && e.waits lane
      | _ => false).length + (if e.readAt = s.clk then 1 else 0)
  | none => 0

/-- The place of an asker among those of one walk: elements in ascending lane order (R409). -/
def Asker.order : Asker → Nat
  | .element _ lane => lane
  | _ => 0

/-- The asker of a walk for a permission goes on with its translation. -/
def State.askerOk (s : State) (a : Asker) (perm : Nat) (l : Leaf) : State :=
  match a with
  | .line op line => s.lineTranslated op line (l.base + line * 128 % 2 ^ 48 % l.size)
  | .element word lane => (s.partTranslated word lane perm l).post (s.elementsDue word) (.gatherElement word lane)
  | .range op _ => match s.op? op with
    | some o => if o.phase = 5 then s.rangeGo o else s.dropOp op
    | none => s
  | .packet hart => s.post 0 (.packetRead hart)

/-- The clk from now in which the hub can take a page request (R390): 29 clk on, and one request a clk. -/
def State.hubDelay (s : State) : Nat → Nat → Nat
  | 0, d => d
  | n + 1, d =>
    if s.agenda.any fun e => e.1 = s.clk + d && (match e.2 with
      | .stage2FaultEntryWrite _ => true | .pageRequestMessage _ => true | _ => false)
    then s.hubDelay n (d + 1) else d

/-- The lowest INDEX of a function and stage that is free, of 256 (R390, R410); the hub's reply frees it. -/
def State.freeIndex (s : State) (func stage : Nat) : Option Nat :=
  (List.range 256).find? fun n => !(s.pageReqs.any fun r => r.func = func && r.stage = stage && r.index = n && !r.settled)

/-- The outstanding page request of a function, stage and page (R390). -/
def State.pageReq? (s : State) (func stage page : Nat) : Option PageReq :=
  s.pageReqs.find? fun r => r.func = func && r.stage = stage && r.page = page && !r.settled

/-- A page asked for on behalf of a killed workgroup or a unit that walks at once (R178, R390); none while no INDEX is free, when the
fault comes again as the baton runs again. A page of host memory, stage 0, is walked for, and the host asked for its translation (R386);
one outside the granted memory, stage 3, is not asked for (log entry 20). -/
def State.pageFor (s : State) (core : Nat) (c : Ctx) (perm stage page : Nat) : Option Nat × State :=
  if stage = 3 then (none, s)
  else if stage = 0 then
    let same := fun (w : Walk) => w.core = core && w.ctx = c && w.perm = perm && w.va / 4096 = page
    let w : Walk := { id := s.ids, core := core, ctx := c, va := 4096 * page, perm := perm, who := [], st := .queued, got := [] }
    (none, if s.walks.any same then s else (State.takeId { s with walks := s.walks ++ [w] }).nextWalk (coreSector core))
  else match s.pageReq? c.func stage page with
  | some r => (some r.id, s)
  | none =>
    match s.freeIndex c.func stage with
    | none => (none, s)
    | some n =>
      let r : PageReq := { id := s.ids, func := c.func, stage := stage, index := n, page := page, kind := perm, core := core,
                           sent := false, settled := false, walks := [] }
      let d := s.hubDelay s.agenda.length 29
      (some s.ids, ((State.charge { s with pageReqs := s.pageReqs ++ [r] } core 1).post d
        (if stage = 1 then .pageRequestMessage s.ids else .stage2FaultEntryWrite s.ids)).takeId)

/-- The workgroup that a core's array works for (R178): one of the grid on the core, else the starting workgroup's. -/
def State.arrayOwner (s : State) (core grid : Nat) : Option Nat :=
  match s.wgs.find? fun x => x.core = core && x.grid = grid with
  | some x => some x.id
  | none => (s.starterWg (coreQuad core)).map fun x => x.id

/-- Whether an engine word fills an operand slot, so that a fault kills its workgroup (R178, R274). -/
def EngWord.fillsSlot (e : EngWord) : Bool := e.kind == .cpy && natBits e.ctl 33 32 = 3

/-- The kill of the workgroup that an asker works for, if its fault is a streaming fault (R172, R178, R274): a drain's scale load, or
a copy into an operand slot; page is the page that it lacks, none when it was refused. -/
def State.askerKill (s : State) (a : Asker) (w : Walk) (page : Option (Nat × Nat)) : Option State :=
  match a with
  | .line op _ => match s.op? op with
    | some o =>
      if o.kind == .scale then
        match s.arrayOwner o.core o.b, page with
        | some g, some p => let r := s.pageFor w.core w.ctx w.perm p.1 p.2; some (r.2.killWg g w.va r.1)
        | some g, none => some (s.killWg g w.va none)
        | none, _ => some ((s.dropOp op).killArray o.core)
      else none
    | none => none
  | .element word _ => match s.word? word with
    | some e =>
      if e.fillsSlot then
        match page with
        | some p => let r := s.pageFor w.core w.ctx w.perm p.1 p.2; some (r.2.killWg e.wg w.va r.1)
        | none => some (s.killWg e.wg w.va none)
      else none
    | none => none
  | _ => none

/-- The asker of a walk is refused by the owner of its page (R199, R277, R368, R413); pages are those of a memory word that are refused
with it: every lane whose address lies in one of them is named (R200). -/
def State.askerDenied (s : State) (a : Asker) (w : Walk) (stage : Nat) (pages : List Nat) : State :=
  match s.askerKill a w none with
  | some s => s
  | none =>
    match a with
    | .line op line =>
      match s.line? op line with
      | some (o, _) => if o.kind.isPref then s.dropLine op line else s.opFault o (3 + stage) fun a => decide (a.ea / 4096 ∈ pages)
      | none => s
    | .element word lane =>
      (s.modWord word fun w => { w with causes := w.causes ++ [(lane, 4 + stage)] }).post 0 (.gatherElement word lane)
    | .range op _ => s.modOp op fun x => { x with fail := some (3 + stage) }
    | .packet hart => ({ s with harts := mapIf (fun h => h.num = hart) (fun h => { h with denied := true }) s.harts }).post 0
        (.packetRead hart)

/-- The operation of an asker. -/
def Asker.op? : Asker → Option Nat
  | .line op _ => some op
  | _ => none

/-- The askers of walks that end together are refused by the owner of a stage. -/
def State.refuse (s : State) (ws : List Walk) (stage : Nat) : State :=
  let pagesOf := fun (op : Option Nat) => (ws.filter fun w => w.who.any fun a => a.op? = op).map fun w => w.va / 4096
  ws.foldl (fun (s : State) w =>
    w.who.foldl (fun (s : State) a => s.askerDenied a w stage (if a.op?.isSome then pagesOf a.op? else [])) s) s

/-- A walk that needs service asks for its page, joining a request for the same page, function and stage; with no INDEX free
it comes again (R199, R390). A prefetch is dropped (R196). -/
def State.needService (s : State) (w : Walk) (stage page : Nat) : State :=
  let pref := fun (a : Asker) => match a with
    | .line op _ => (match s.op? op with | some o => o.kind.isPref | none => false)
    | _ => false
  let s := w.who.foldl (fun (s : State) a =>
    match s.askerKill a w (some (stage, page)) with
    | some s => s
    | none => match a with
      | .line op line => if pref a then s.dropLine op line else s.modLine op line fun l => { l with st := .paging }
      | _ => s) s
  let here := fun (a : Asker) => match a with
    | .line op _ => (s.op? op).isSome
    | .element word _ => (s.word? word).isSome
    | _ => true
  let w := { w with who := w.who.filter fun a => !pref a && here a }
  if w.who = [] then s
  else match s.pageReq? w.ctx.func stage page with
    | some r =>
      let add := fun (x : PageReq) => { x with walks := x.walks ++ [w] }
      { s with pageReqs := mapIf (fun x => x.id = r.id) add s.pageReqs }
    | none =>
      match s.freeIndex w.ctx.func stage with
      | none => ({ s with walks := s.walks ++ [{ w with st := .noIndex }] }).post 1 (.walkOutcome w.id)
      | some n =>
        let r : PageReq := { id := s.ids, func := w.ctx.func, stage := stage, index := n, page := page, kind := w.perm,
                             core := w.core, sent := false, settled := false, walks := [w] }
        let d := s.hubDelay s.agenda.length 29
        ((State.charge { s with pageReqs := s.pageReqs ++ [r] } w.core 1).post d
          (if stage = 1 then .pageRequestMessage s.ids else .stage2FaultEntryWrite s.ids)).takeId

/-- Whether an asker is a request of a frozen master (R379). -/
def State.askerFrozen (s : State) (a : Asker) : Bool :=
  match a with
  | .line op _ | .range op _ => match s.op? op with | some o => s.frozenWg o.wg o.threads | none => false
  | _ => false

/-- The askers of a walk go on with its translation; those of a frozen master when it is thawed (R379). -/
def State.askersGo (s : State) (w : Walk) (l : Leaf) : State :=
  let later := w.who.filter s.askerFrozen
  let s := if later = [] then s
    else State.post { s with walks := s.walks ++ [{ w with who := later, st := .noIndex }] } 1 (.walkOutcome w.id)
  (sortBy Asker.order (w.who.filter fun a => !decide (a ∈ later))).foldl (fun (s : State) a => s.askerOk a w.perm l) s

/-- What the outcome of a walk brings (R198, R199, R401): a TLB fill, and the askers go on, or a bounce with a page request. A translation
into host memory is asked of the host's IOMMU first (R386); one that lies outside the memory granted to its function is a violation
(R378). -/
def State.walkOver (s : State) (w : Walk) : State :=
  let s := { s with walks := s.walks.filter fun x => x.id ≠ w.id }.cacheWalk w
  match w.look.1 with
  | .service st page => s.needService w st page
  | .ok l =>
    if isHost l.base then { s with walks := s.walks ++ [{ w with st := .hosted l }] }.send (.ats w.core w.va)
    else
      let pa := l.addr w.va
      let engine := w.who.any fun a => match a with | .element .. => true | _ => false
      let hub := w.who.any fun a => match a with | .packet _ => true | _ => false
      if (if hub then !s.hubMay w.ctx.func pa else s.outsideOf w.ctx.func pa engine) then w.who.foldl (fun (s : State) a => s.outside w a) s
      else
        let s := if hub && !s.granted w.ctx.func pa then s else s.modCore w.core fun k => { k with tlb := tlbFill k.tlb w.ctx w.va l }
        s.askersGo w l

/-- walkOutcome (R198, R401): a walk that has been in the walk cache begins to read what it lacks; the outcome of one that has all it
needs reaches the requester, and a walk that waits for the walker is taken up. -/
def execWalkOutcome (walk : Nat) (s : State) : Host.Outcome State Fault Refusal :=
  match s.walks.find? fun w => w.id = walk with
  | none => .next s
  | some w =>
    match s.walkRead w with
    | (s, some _) => .next s
    | (s, none) =>
      match s.walks.find? fun w => w.id = walk with
      | some w => .next ((s.walkOver w).nextWalk (coreSector w.core))
      | none => .next s

/-- atsTranslationCompletion (R386): the host's answer fills the TLB, with the permissions of the leaf that the walk found, and the askers
go on; or they are refused. -/
def execAtsTranslationCompletion (core va pa : Nat) (ok : Bool) (s : State) : Host.Outcome State Fault Refusal :=
  let mine := fun (w : Walk) => decide (w.core = core ∧ w.va / 4096 = va / 4096)
  match s.walks.findSome? fun w => match w.st with | .hosted l => if mine w then some (w, l) else none | _ => none with
  | none => .next s
  | some (w, l) =>
    let s := { s with walks := s.walks.filter fun x => x.id ≠ w.id }
    if ok then
      let l : Leaf := { l with base := pa / 4096 * 4096, size := 4096 }
      let s := s.modCore core fun k => { k with tlb := tlbFill k.tlb w.ctx va l }
      .next (s.askersGo w l)
    else .next (s.refuse [w] 2)

/-- A killed workgroup's baton waits no longer for its page (R178), a failure aborting its node; the dispatcher looks again at
the partitions of the function. -/
def State.pageAnswered (s : State) (r : PageReq) (ok : Bool) : State :=
  let s := (s.batons.filter fun b => b.pageWait = some r.id).foldl (fun (s : State) b =>
    let s := s.modBaton b.id fun x => { x with pageWait := none }
    if ok then s else s.rollback b.part b.node [b.node]) s
  (s.parts.filter fun p => p.func = r.func).foldl (fun (s : State) p => s.placeSoon p.num) s

/-- pageReplyAtWalker (R199, R401): a success restarts the walks in this clk; a failure is passed on. -/
def execPageReplyAtWalker (req : Nat) (ok : Bool) (s : State) : Host.Outcome State Fault Refusal :=
  match s.pageReqs.find? fun r => r.id = req with
  | none => .next s
  | some r =>
    let s := (s.pageAnswered r ok).charge r.core 1
    if ok then
      let s := { s with pageReqs := s.pageReqs.filter fun x => x.id ≠ req }
      .next (r.walks.foldl (fun (s : State) w => w.who.foldl (fun (s : State) a => s.startWalk w.core w.ctx w.va w.perm a) s) s)
    else .next (s.post 20 (.pageFailureDelivery req))

/-- pageFailureDelivery (R199, R401): the instruction or element fails, a frozen master's when it is thawed (R379). -/
def execPageFailureDelivery (req : Nat) (s : State) : Host.Outcome State Fault Refusal :=
  match s.pageReqs.find? fun r => r.id = req with
  | none => .next s
  | some r =>
    let part := fun (p : Asker → Bool) => (r.walks.map fun w => { w with who := w.who.filter p }).filter fun w => w.who ≠ []
    let later := part s.askerFrozen
    let now := part fun a => !s.askerFrozen a
    let s := if later = [] then { s with pageReqs := s.pageReqs.filter fun x => x.id ≠ req }
      else State.post { s with pageReqs := mapIf (fun x => x.id = req) (fun x => { x with walks := later }) s.pageReqs } 1
        (.pageFailureDelivery req)
    .next (s.refuse now r.stage)

end Sys2Proof.Machine
end

