-- ==== Sys2Proof/Machine/Control.lean ====
section
/-! DEFINITION. Control flow (majors 0x68 to 0x6D, R252 to R261) and the future instructions (major 0x6E, R262 to R266). -/

namespace Sys2Proof.Machine

/-- The byte offset of a relative target (R45): the packet of the word, plus 12 × OFF21; none below 0. -/
def relTarget (p : Pc) (f : BitVec 21) : Option Nat :=
  let t : Int := ((p.word.toNat / 3 * 3 * 4 : Nat) : Int) + 12 * f.toInt
  if t < 0 then none else some t.toNat

/-- The byte offset an s register names as a code address (R252): bits 63:16 zero, 63:15 in a starter stream. -/
def codeTarget (v : Dbl) (bits : Nat) : Option Nat := if v.toNat < 2 ^ bits then some v.toNat else none

/-- A valid target in the frame of the word, or in the starter's memory (R252). -/
def State.goodTarget (s : State) (core : Nat) (f : Bool) (t : Option Nat) : Option Pc :=
  match t with
  | some off => if s.validTarget core f off then some (pcOf f off) else none
  | none => none
def State.goodStarterTarget (s : State) (q : Nat) (t : Option Nat) : Option Pc :=
  match t with
  | some off => if s.validStarterTarget q off then some (pcOf false off) else none
  | none => none

/-- The taking threads move, 3 clk before their next group; the others go on in the next clk (R258, R261). f changes a
taking thread before it moves. -/
def State.take (s : State) (is : Issue) (w : Wg) (taking : List Nat) (pc : Thread → Pc) (f : Thread → Thread) : State :=
  ((s.retire is w.id).modWg w.id fun x => x.modThreads taking fun t => (f t).goto (pc t) s.clk 3).ended .moved

/-- A starter's control word that takes. -/
def State.starterTake (s : State) (q : Nat) (pc : Pc) (f : Starter → Starter) : State :=
  (s.modStarter q fun k => { f k with pc := pc, wait := .ready, notBefore := s.clk + 3, mark := none }).ended .moved

/-- The return entry a call pushes (R253). -/
def State.returnEntry (s : State) (is : Issue) (core : Nat) : RetEntry :=
  { frame := is.next.frame, ovl := s.frameOvl core is.next.frame, word := is.next.word }

/-- br, brp, jmp, call and calli share one form: a target, whether the whole group moves, whether an entry is pushed. An
invalid target, or a full return stack, takes ILLOP at issue when some thread takes; jmp and calli check their target always
(R258). -/
def branchWord (s : State) (g : BitVec 3) (always whole push : Bool) (target : Issue → (BitVec 7 → Dbl) → Nat → Option Nat) :
    Host.Outcome State Fault Refusal :=
  withEither s
    (fun is w =>
      let act := active is w g
      let pc := s.goodTarget w.core is.addr.frame (target is (fun a => uniSrc s is w a.toNat) 16)
      let full := act.any fun t => match w.thread? t with | some x => decide (x.rstack.length ≥ 16) | none => false
      if act = [] ∧ !always then s.retire is w.id
      else match pc with
        | none => s.trapHere is w.id is.threads .illop
        | some pc =>
          if act = [] then s.retire is w.id
          else if push && full then s.trapHere is w.id is.threads .illop
          else
            s.take is w (if whole then is.threads else act) (fun _ => pc) fun t =>
              if push then { t with rstack := s.returnEntry is w.core :: t.rstack } else t)
    (fun is q k =>
      let pc := s.goodStarterTarget q (target is (fun a => starterSrc s is q k a.toNat) 15)
      if guardOn k.p g || always then
        match pc with
        | none => s.starterTrapHere is q .illop
        | some pc =>
          if !guardOn k.p g then s.starterRetire is q
          else if push && decide (k.rstack.length ≥ 16) then s.starterTrapHere is q .illop
          else s.starterTake q pc fun k =>
            if push then { k with rstack := { frame := false, ovl := 0, word := is.next.word } :: k.rstack } else k
      else s.starterRetire is q)

/-- br (R258). -/
def execBr (g : BitVec 3) (f : BitVec 21) (s : State) :=
  branchWord s g false false false fun is _ _ => relTarget is.addr f
/-- brp (R258). -/
def execBrp (g : BitVec 3) (f : BitVec 21) (s : State) :=
  branchWord s g false true false fun is _ _ => relTarget is.addr f
/-- jmp (R258). -/
def execJmp (g : BitVec 3) (a : BitVec 7) (s : State) :=
  branchWord s g true false false fun _ src bits => codeTarget (src a) bits
/-- call (R258). -/
def execCall (g : BitVec 3) (f : BitVec 21) (s : State) :=
  branchWord s g false false true fun is _ _ => relTarget is.addr f
/-- calli (R258). -/
def execCalli (g : BitVec 3) (a : BitVec 7) (s : State) :=
  branchWord s g true false true fun _ src bits => codeTarget (src a) bits

/-- Whether a thread's return stack allows a ret (R258): an entry whose overlay is the one loaded in its frame now; a frame that holds
no overlay allows none (R276). -/
def State.canReturn (s : State) (core : Nat) (r : List RetEntry) : Bool :=
  match r with
  | e :: _ => match (s.frame core e.frame).ovl with
    | some (_, n) => e.ovl = BitVec.ofNat 8 n
    | none => false
  | [] => false

/-- ret (R258). -/
def execRet (g : BitVec 3) (s : State) : Host.Outcome State Fault Refusal :=
  withEither s
    (fun is w =>
      let act := active is w g
      if act = [] then s.retire is w.id
      else if act.all fun t => match w.thread? t with | some x => s.canReturn w.core x.rstack | none => false then
        s.take is w act
          (fun t => match t.rstack with | e :: _ => { frame := e.frame, word := e.word } | [] => t.pc)
          fun t => { t with rstack := t.rstack.drop 1 }
      else s.trapHere is w.id is.threads .illop)
    (fun is q k =>
      if guardOn k.p g then
        match k.rstack with
        | e :: r => s.starterTake q { frame := false, word := e.word } fun k => { k with rstack := r }
        | [] => s.starterTrapHere is q .illop
      else s.starterRetire is q)

/-- The end of threads of a workgroup (R259, R314, R334): the last thread of a handler releases the held ones, as if by tret; and where
a member has ended the members of its crew are checked (R106). -/
def State.threadsEnded (s : State) (wg : Nat) (ended : List Nat) : State :=
  match s.wg? wg with
  | none => s
  | some w0 =>
    (w0.crewsOf ended).foldl (fun (s : State) c =>
      match s.wg? wg with
      | none => s
      | some w =>
        let left := match w.crew? c with
          | some k => k.inHandler && (w.live c).all fun t => !(w.laneOf t ∈ k.trapH)
          | none => false
        if left then
          (s.modWg wg fun w => w.modCrew c fun k =>
            { k with tinfo := setBit k.tinfo 8 false, trapH := [], repThreads := k.repOuter.getD k.repThreads, repOuter := none }).xCheck
              wg c (List.range w.width)
        else if ended.any fun t => w.crewOf t = c && decide (w.laneOf t ∈ w.members c) then s.xCheck wg c []
        else s) s

/-- The macro-operations of a quad's arrays queued before the clk of a word (R235, R259). -/
def State.quadOps (s : State) (is : Issue) (q : Nat) : List Nat :=
  (List.range 4).flatMap fun i => ((s.core (quadCore q i)).queue.filter fun o => decide (o.id < is.older)).map fun o => o.id

/-- exit (R259). -/
def execExit (g : BitVec 3) (s : State) : Host.Outcome State Fault Refusal :=
  withEither s
    (fun is w =>
      let act := active is w g
      if act = [] then s.retire is w.id
      else
        let s := ((s.retire is w.id).modWg w.id fun x => x.modThreads act fun t =>
          { t with exited := true, wait := .ready, mark := none }).ended .moved
        let crews := w.crewsOf act
        (crews.foldl (fun (s : State) c => s.arriveCheck w.id c) (s.threadsEnded w.id act)).finishDue w.id)
    (fun is q k =>
      if guardOn k.p g then
        -- queued macro-operations run to completion first (R259)
        if s.quadOps is q = [] then
          (((s.starterEnds q).idleStarter q).startTests |>.placeSoon (match s.corePart (quadCore q 0) with | some p => p.num | none => 0)).ended .moved
        else s.starterPark is q (.arrays 15 0 (s.quadOps is q)) none
      else s.starterRetire is q)

/-- yield (R260, R261): a pending vacate takes the crew of a taking thread at this safe point, with every thread that stands at the
yield resuming behind it; otherwise the group goes on, a taking thread 3 clk later. -/
def execYield (g : BitVec 3) (s : State) : Host.Outcome State Fault Refusal :=
  withEither s
    (fun is w =>
      let act := active is w g
      let s := (s.take is w act (fun _ => is.next) id)
      if w.due.isSome || w.evict then
        let stands := fun (t : Thread) =>
          !t.exited && t.wait == .ready && beginAt (s.frameCode w.core t.pc.frame) t.pc = is.addr
        let crews := activeCrews is w g
        let s := s.modWg w.id fun x => x.modThreads (crews.flatMap x.crewThreads) fun t =>
          if is.first = is.addr && stands t then { t with pc := is.next } else t
        s.postAll (crews.map fun c => (0, .crewVacate w.id c))
      else s)
    (fun is q k =>
      if guardOn k.p g then s.starterTake q is.next id else (s.starterRetire is q).ended .moved)

/-! ### Futures -/

/-- Whether an h register is not PENDING (R265): a reference is settled in every register when its word completes, so one
that stands is PENDING. -/
def HReg.open : HReg → Bool
  | .ref _ _ => true
  | _ => false

/-- The h register n of the crew of the group's lowest-numbered thread. -/
def uniH (is : Issue) (w : Wg) (n : Nat) : HReg :=
  match w.crew? (w.crewOf (is.threads.headD 0)) with
  | some c => c.hreg n
  | none => .empty

/-- A word that acts once on futures: with no active thread it does nothing (R264). -/
def futureWord (s : State) (g : BitVec 3) (f : Issue → Wg → State) : Host.Outcome State Fault Refusal :=
  withGroup s fun is w => if active is w g = [] then s.retire is w.id else f is w

/-- fwait (R265). -/
def execFwait (g : BitVec 3) (h : BitVec 4) (s : State) : Host.Outcome State Fault Refusal :=
  futureWord s g fun is w =>
    if (uniH is w h.toNat).open then s.park is w.id (.settled (w.crewOf (is.threads.headD 0)) h.toNat)
    else s.retire is w.id

/-- ftest (R265). -/
def execFtest (g : BitVec 3) (w : Bool) (p : BitVec 3) (h : BitVec 4) (s : State) : Host.Outcome State Fault Refusal :=
  futureWord s g fun is wg =>
    s.finish is wg
      { p := if w then [] else (active is wg g).map fun t => (t, p.toNat, !(uniH is wg h.toNat).open) } 1

/-- fcancel (R265): the cancel goes to the engine of a PENDING entry. -/
def execFcancel (g : BitVec 3) (h : BitVec 4) (s : State) : Host.Outcome State Fault Refusal :=
  futureWord s g fun is w =>
    let s := s.retire is w.id
    match uniH is w h.toNat with
    | .ref e _ =>
      (s.words.filter fun x => x.core = w.core && x.entry = e && x.kind != .ovl).foldl (fun (s : State) x =>
        (s.modWord x.id fun x => { x with cancel := true }).post 0 (.engineWordStart x.id 0)) s
    | _ => s

/-- An h register written in every crew that has an active thread. -/
def State.setH (s : State) (is : Issue) (w : Wg) (g : BitVec 3) (n : Nat) (v : HReg) : State :=
  s.modWg w.id fun x => x.modCrews (activeCrews is w g) fun c => { c with h := c.h.set n v }

/-- fmov hd, hn (R265). -/
def execFmovHh (g : BitVec 3) (w : Bool) (e : BitVec 4) (h : BitVec 4) (s : State) : Host.Outcome State Fault Refusal :=
  futureWord s g fun is wg =>
    let s := s.retire is wg.id
    if w then s else s.setH is wg g e.toNat (uniH is wg h.toNat)

/-- The handle value of an h register (R263). -/
def handleValue (core : Nat) : HReg → Dbl
  | .empty => 0
  | .ref e gen => BitVec.ofNat 64 (e + gen * 2 ^ 16 + 2 ^ 32 + 2 ^ 34 + core * 2 ^ 48)
  | .settled st status _ => BitVec.ofNat 64 (st * 2 ^ 32 + status * 2 ^ 40)

/-- fmov sd, hn (R265). -/
def execFmovSh (g : BitVec 3) (w : Bool) (d : BitVec 5) (h : BitVec 4) (s : State) : Host.Outcome State Fault Refusal :=
  futureWord s g fun is wg =>
    s.finish is wg
      { s := if w then [] else (activeCrews is wg g).map fun c => (c, d.toNat, handleValue wg.core (uniH is wg h.toNat)) } 1

/-- What an import makes of a handle value (R265); none when it takes ILLOP. -/
def State.importHandle (s : State) (core : Nat) (v : Dbl) : Option HReg :=
  let n := v.toNat
  let st := natBits n 33 32
  let ref := natBit n 34
  if natBits n 15 10 ≠ 0 ∨ natBits n 39 35 ≠ 0 ∨ natBits n 63 58 ≠ 0 then none
  else if st = 1 ∧ !ref then none
  else if ref ∧ natBits n 57 48 ≠ core then none
  else if ref then
    match (s.core core).ct.find? fun e => e.entry = natBits n 9 0 && e.gen = natBits n 31 16 && e.busy with
    | some e => some (.ref e.entry e.gen)
    | none => some (.settled 2 0xFF 0)
  else if st = 0 then some .empty
  else some (.settled st (natBits n 47 40) 0)

/-- fmov hd, sa (R265). -/
def execFmovHs (g : BitVec 3) (w : Bool) (e : BitVec 4) (a : BitVec 7) (s : State) : Host.Outcome State Fault Refusal :=
  futureWord s g fun is wg =>
    match s.importHandle wg.core (uniSrc s is wg a.toNat) with
    | none => s.trapHere is wg.id (trapping is wg g) .illop
    | some h =>
      let s := s.retire is wg.id
      if w then s else s.setH is wg g e.toNat h

end Sys2Proof.Machine
end

