-- ==== Sys2Proof/Machine/Barriers.lean ====
section
/-! DEFINITION. fence and xfence (R234 to R239), bar and its networks (R313 to R318), and barrier objects (R319 to R325). -/

namespace Sys2Proof.Machine

/-! ### Fences -/

/-- The kinds of operation a fence of a scope waits for (R235): a remote-window access counts only beyond core scope. -/
def OpKind.fenceWaits (scope : Nat) : OpKind → Bool
  | .load | .store | .atomic .. | .radd .. | .oadd | .done | .spawn | .rel _ | .acq _ | .empty => true
  | .ldx | .stx => scope ≠ 1
  | _ => false

/-- The operations of the threads that a fence waits for; those of words of its own clk are not older (R36). -/
def State.fenceOps (s : State) (is : Issue) (w : Wg) (scope : Nat) : List Nat :=
  s.olderOps w.id is.threads is.older fun k => k.fenceWaits scope

/-- The results of memory words of the threads that a fence waits for (R235): loads and stores of the scratchpad and of operand
memory, and tests of barrier objects (R324). -/
def State.fencePends (s : State) (is : Issue) (w : Wg) : List Nat :=
  match s.wg? w.id with
  | some x => (x.pend.filter fun p => decide (p.id < is.older) && p.mem.any fun t => decide (t ∈ is.threads)).map fun p => p.id
  | none => []

/-- Whether a log has live committed records below a number (R237). -/
def Log.outLeft (l : Log) (upto : Nat) : Bool := l.recs.any fun r => r.live && r.committed && decide (r.num < upto)

/-- What a fence of a scope waits for in the vector stream (R235), with engine words and records of an xfence (R237); none where
nothing is left. -/
def State.fenceLeft (s : State) (is : Issue) (w : Wg) (scope : Nat) (words : List Nat) (rec : Nat) : Option PCond :=
  let ops := s.fenceOps is w scope
  let pends := s.fencePends is w
  if ops = [] ∧ pends = [] ∧ words = [] ∧ (rec = 0 ∨ !(s.log w.core).outLeft rec) then none else some (.drained ops words pends rec)

/-- A starter goes on a number of clk from now. -/
def State.starterRetireAt (s : State) (is : Issue) (q delay : Nat) : State :=
  (s.starterRetire is q).modStarter q fun k => { k with notBefore := s.clk + delay }

/-- fence (R235, R238): it completes 2 clk after the last condition it waits for holds. -/
def execFence (g : BitVec 3) (sc : BitVec 3) (s : State) : Host.Outcome State Fault Refusal :=
  withEither s
    (fun is w =>
      if active is w g = [] then s.retire is w.id
      else match s.fenceLeft is w sc.toNat [] 0 with
        | none => s.retireAt is w.id 2
        | some c => s.park is w.id c)
    (fun is q k =>
      if !guardOn k.p g then s.starterRetire is q
      else match s.quadOps is q with
        | [] => s.starterRetireAt is q 2
        | ops => s.starterPark is q (.arrays 15 0 ops) none)

/-- xfence (R237): o is OUT and im is IN. TAIL is taken at issue and kept with the word while the threads wait. -/
def execXfence (g : BitVec 3) (o : Bool) (im : Bool) (sc : BitVec 3) (s : State) : Host.Outcome State Fault Refusal :=
  withGroup s fun is w =>
    if active is w g = [] then s.retire is w.id
    else
      let words := (s.words.filter fun x =>
        x.wg = w.id && decide (x.id < is.older) && x.threads.any fun t => decide (t ∈ is.threads)).map fun x => x.id
      let kept := (issueNotes is w).map fun n => n.val
      let tail := if kept = [] then (s.log w.core).tail else kept.foldl max 0
      match s.fenceLeft is w sc.toNat words (if o then tail else 0) with
      | some c => s.parkNote is w.id c tail
      | none =>
        if im then
          let n := (s.core w.core).view.length
          (s.dropLines w.core fun _ => true).retireAt is w.id (2 + (n + 7) / 8)
        else s.retireAt is w.id 2

/-! ### bar -/

/-- Whether some of the threads have gone by an episode guarded off: the next bar they come to is another episode's (R314). -/
def Episode.behind (e : Episode) (w : Wg) (threads : List Nat) : Bool := threads.any fun t => decide ((w.id, t) ∈ e.passed)

/-- The open episode with a set not yet fixed to which threads of a set's workgroups have come (R313). -/
def State.unfixed (s : State) (fit : List Episode) (set : List Member) : Option Episode :=
  fit.find? fun e => e.members = [] && s.wgs.any fun w => w.in_ e && set.any fun m => m.isOf w

/-- The episode at core, quad or die scope that threads of a workgroup come to: the open one whose set holds the workgroup, else one
whose set is not fixed yet, else a new one (R313). -/
def State.openEpisode (s : State) (scope : Nat) (w : Wg) (threads : List Nat) : Episode × State :=
  let fit := s.episodes.filter fun e => e.scope = scope && e.part = w.part && !e.aborted && !e.behind w threads
  match fit.find? fun e => e.members.any fun m => m.isOf w with
  | some e => (e, s)
  | none =>
    match (fit.find? fun e => e.members = [] && w.in_ e), s.unfixed fit (s.barMembers scope w) with
    | some e, _ => (e, s)
    | none, some e => (e, s)
    | none, none => s.newEpisode scope w.part 0 0 []

/-- The participants listed for a group (R278, R313), each as a member. -/
def State.groupMembers (s : State) (w : Wg) (gid : Nat) : Option (List Member) :=
  (s.groupOf w gid).map fun ms => ms.map fun y =>
    if y.2.1 = s.boot.package then .group y.2.2 y.1 else .group (y.2.1 * 16 + y.2.2 + 16) y.1

/-- The episode at package or pod scope that threads of a workgroup come to: that of the participant's next bar on the group (R313). -/
def State.groupEpisode (s : State) (scope : Nat) (w : Wg) (threads : List Nat) (gid : Nat) (ms : List Member) : Episode × State :=
  let mine := s.episodes.filter fun e => e.scope ≥ 4 && e.gid = gid && e.members = ms
  let n := mine.foldl (fun n e => if e.behind w threads then max n (e.n + 1) else n) (kget 0 w.barCount gid)
  match mine.find? fun e => e.scope = scope && e.n = n with
  | some e => (e, s)
  | none => s.newEpisode scope w.part gid n ms

/-- A group comes to a bar of an episode (R314, R316): threads guarded off have passed it at once; the others park, first until what
fence.S waits for is complete, then in the episode; and the arrivals of the group's crews are looked at. -/
def State.barArrive (s : State) (is : Issue) (w : Wg) (act : List Nat) (e : Episode) : State :=
  let off := is.threads.filter fun t => !decide (t ∈ act)
  let pass := fun (e : Episode) => { e with passed := e.passed ++ off.map fun t => (w.id, t) }
  let s := { s with episodes := mapIf (fun x => x.id = e.id) pass s.episodes }
  let here := { is with threads := act }
  let s := if act = [] then s.retire is w.id
    else match s.fenceLeft here w e.scope [] 0 with
      | some c => s.park here w.id c
      | none => s.parkMark here w.id (.episode e.id) e.id
  (w.crewsOf is.threads).foldl (fun (s : State) c => s.arriveCheck w.id c) s

/-- A participant comes to an episode that was aborted before it came (R318): its bar counts, and its threads take ABORT. -/
def State.barOwed (s : State) (is : Issue) (w : Wg) (g : BitVec 3) (e : Episode) : State :=
  let m := Member.group w.part w.index
  let s := { s with episodes := mapIf (fun x => x.id = e.id) (fun x => { x with owed := x.owed.filter fun y => y ≠ m }) s.episodes }
  let s := s.modWg w.id fun x => { x with barCount := kset x.barCount e.gid (e.n + 1) }
  if active is w g = [] then s.retire is w.id else s.trapHere is w.id (trapping is w g) .abort

/-- The episode in which threads that parked before a vacate still wait (R318). -/
def State.barKept (s : State) (is : Issue) (w : Wg) : Option Episode :=
  is.threads.findSome? fun t =>
    match w.thread? t with
    | some { mark := some m, .. } => s.episodes.find? fun e => e.id = m
    | _ => none

/-- Whether a thread parked in an episode that has released while its crew was out (R318). -/
def State.barGone (s : State) (w : Wg) (t : Nat) : Bool :=
  match w.thread? t with
  | some { mark := some m, .. } => !(s.episodes.any fun e => e.id = m)
  | _ => false

/-- bar in the vector stream (R313 to R318). -/
def State.groupBar (s : State) (is : Issue) (w : Wg) (g : BitVec 3) (a : BitVec 7) (scope : Nat) : State :=
  let act := active is w g
  match s.barKept is w with
  | some e => if e.aborted then s.trapHere is w.id (trapping is w g) .abort else s.barArrive is w act e
  | none =>
    if scope ≤ 3 then
      let r := s.openEpisode scope w is.threads
      r.2.barArrive is w act r.1
    else
      let gid := (uniSrc s is w a.toNat).toNat
      let refuse := fun (x : State) => if act = [] then s.retire is w.id else x
      if gid ≥ 256 then refuse (s.trapHere is w.id (trapping is w g) .illop)
      else match s.groupMembers w gid with
        | none => refuse (s.memFaultOnce is w g .memfault 3 false gid)
        | some ms =>
          if Member.group w.part w.index ∈ ms then
            let r := s.groupEpisode scope w is.threads gid ms
            if r.1.aborted then r.2.barOwed is w g r.1 else r.2.barArrive is w act r.1
          else refuse (s.memFaultOnce is w g .memfault 3 false gid)

/-- The episode that a quad's starter comes to: the open one whose set holds it and in which it has not arrived, else one whose set is
not fixed yet, else a new one (R313). -/
def State.starterEpisode (s : State) (scope q part : Nat) : Episode × State :=
  let fit := s.episodes.filter fun e => e.scope = scope && e.part = part && !e.aborted && !decide (.starter q ∈ e.arrived)
  match fit.find? fun e => decide (.starter q ∈ e.members) with
  | some e => (e, s)
  | none =>
    match s.unfixed fit (match s.starterWg q with | some w => s.barMembers scope w | none => []) with
    | some e => (e, s)
    | none => s.newEpisode scope part 0 0 []

/-- bar in a starter stream (R313 to R316): guarded off it arrives and goes on. -/
def State.starterBar (s : State) (is : Issue) (q : Nat) (k : Starter) (g : BitVec 3) (scope : Nat) : State :=
  match k.mark.bind fun m => some (s.episodes.find? fun e => e.id = m) with
  | some none => s.starterRetire is q
  | some (some e) => s.starterPark is q (.episode e.id) none
  | none =>
    match k.run.bind fun x => s.grid? x.1 with
    | none => s.starterRetire is q
    | some gr =>
      if guardOn k.p g && s.quadOps is q ≠ [] then s.starterPark is q (.arrays 15 0 (s.quadOps is q)) none
      else
        let r := s.starterEpisode scope q gr.part
        let ms := match s.starterWg q with | some w => s.barMembers scope w | none => [.starter q]
        let s := if guardOn k.p g then r.2.starterPark is q (.episode r.1.id) (some r.1.id) else r.2.starterRetire is q
        s.arrive r.1 (.starter q) ms

/-- bar (R313 to R318); threads whose episode has released while they were out go on behind it (R318). -/
def execBar (g : BitVec 3) (a : BitVec 7) (sc : BitVec 3) (s : State) : Host.Outcome State Fault Refusal :=
  withEither s
    (fun is w =>
      let gone := is.threads.filter fun t => s.barGone w t
      let s := if gone = [] then s else s.retire { is with threads := gone } w.id
      let left := is.threads.filter fun t => !decide (t ∈ gone)
      if left = [] then s else s.groupBar { is with threads := left } w g a sc.toNat)
    (fun is q k =>
      if sc.toNat ≠ 2 ∧ sc.toNat ≠ 3 then (if guardOn k.p g then s.starterTrapHere is q .illop else s.starterRetire is q)
      else s.starterBar is q k g sc.toNat)

/-! ### Barrier objects -/

/-- A barrier object's words (R319). -/
structure BarObj where
  w0 : Word32
  w2 : Word32
  w3 : Word32
deriving DecidableEq, Repr

def BarObj.count (o : BarObj) : Nat := (o.w0.extractLsb' 0 12).toNat
def BarObj.target (o : BarObj) : Nat := (o.w0.extractLsb' 12 12).toNat
def BarObj.phase (o : BarObj) : Nat := (o.w0.extractLsb' 24 4).toNat
def BarObj.ovr (o : BarObj) : Bool := o.w0.getLsbD 28
def BarObj.valid (o : BarObj) : Bool := o.w0.getLsbD 29

/-- The first word of an object from its fields. -/
def barWord (count target phase : Nat) (ovr valid : Bool) : Word32 :=
  BitVec.ofNat 32 (count + target * 4096 + phase % 16 * 2 ^ 24 + ovr.toNat * 2 ^ 28 + valid.toNat * 2 ^ 29)

/-- An object as the scratchpad of a core holds it. -/
def State.barObj (s : State) (core byte : Nat) : BarObj :=
  let m := (s.core core).scratch
  { w0 := m.word byte, w2 := m.word (byte + 8), w3 := m.word (byte + 12) }

/-- An object written; its second word is reserved and written as 0 (R319). -/
def State.setBarObj (s : State) (core byte : Nat) (o : BarObj) : State :=
  s.modCore core fun k => { k with scratch := k.scratch.setWords byte [o.w0, 0, o.w2, o.w3] }

/-- The offset of a reference, and its phase (R320). -/
def refOff (v : Dbl) : Nat := (v.extractLsb' 0 18).toNat
def refPhase (v : Dbl) : Nat := (v.extractLsb' 24 4).toNat

/-- BARINFO (R323). -/
def barinfoOf (cause off : Nat) : Word32 := BitVec.ofNat 32 (cause + off * 4)

/-- The precise BARRIER_OVERRUN trap of an object word (R323, R403). -/
def State.barTrap (s : State) (is : Issue) (w : Wg) (g : BitVec 3) (cause off : Nat) : State :=
  let s := s.modWg w.id fun x => x.modCrews (activeCrews is w g) fun c => { c with barinfo := barinfoOf cause off }
  s.trapHere is w.id (trapping is w g) .barrier

/-- The frame of a barrier-object word (R320): it acts once; ALIGN, RANGE, and an absent line parks it. -/
def barWordOp (s : State) (g : BitVec 3) (a : BitVec 7) (write reads : Bool) (f : Issue → Wg → Dbl → BarObj → State) :
    Host.Outcome State Fault Refusal :=
  withGroup s fun is w =>
    if active is w g = [] then s.retire is w.id
    else
      let v := uniSrc s is w a.toNat
      let off := refOff v
      if off % 16 ≠ 0 then s.memFaultOnce is w g .memfault 1 write off
      else if off + 16 > w.scratchBytes then s.memFaultOnce is w g .memfault 3 write off
      else
        match (if reads then s.absentLines w.core w.scratchBase [off] else []) with
        | [] => f is w v (s.barObj w.core (w.scratchBase + off))
        | ls => s.park is w.id (.present ls)

/-- binit (R321); 2 clk (R324). -/
def execBinit (g : BitVec 3) (n : BitVec 5) (a : BitVec 7) (s : State) : Host.Outcome State Fault Refusal :=
  barWordOp s g a true false fun is w v _ =>
    let t := (uniS is w n.toNat).toNat
    if t < 1 ∨ t > 4095 then s.barTrap is w g 3 (refOff v)
    else (s.setBarObj w.core (w.scratchBase + refOff v)
      { w0 := barWord t t 0 false true, w2 := 0, w3 := 0 }).retireAt is w.id 2

/-- barrive (R321, R403): k arrivals, an overrun recorded and trapped; latency 4 clk. -/
def execBarrive (g : BitVec 3) (w : Bool) (d : BitVec 5) (a : BitVec 7) (k : BitVec 4) (s : State) :
    Host.Outcome State Fault Refusal :=
  barWordOp s g a true true fun is wg v o =>
    let byte := wg.scratchBase + refOff v
    if !o.valid then s.barTrap is wg g 3 (refOff v)
    else if o.ovr then s.barTrap is wg g 2 (refOff v)
    else if k.toNat > o.count then
      let t := (active is wg g).headD 0
      let w3 := BitVec.ofNat 32 (wg.crewOf t + wg.laneOf t * 256 + o.phase * 2 ^ 14)
      (s.setBarObj wg.core byte { o with w0 := barWord o.count o.target o.phase true true, w3 := w3 }).barTrap is wg g 1
        (refOff v)
    else
      let left := o.count - k.toNat
      let r := BitVec.ofNat 64 (refOff v + o.phase * 2 ^ 24 + left * 2 ^ 32)
      let o' : BarObj :=
        if left = 0 then { o with w0 := barWord o.target o.target (o.phase + 1) false true, w2 := o.w2 + 1 }
        else { o with w0 := barWord left o.target o.phase false true }
      (s.setBarObj wg.core byte o').finish is wg
        { s := if w then [] else (activeCrews is wg g).map fun c => (c, d.toNat, r) } 4

/-- What a waiter of an object finds (R322): passed, overrun, its bound expired; none while it has to wait. -/
def bwaitNow (o : BarObj) (p : Nat) (expired : Bool) : Option Nat :=
  if o.phase ≠ p then some 0 else if o.ovr then some 2 else if expired then some 1 else none

/-- bwait (R322, R325, R402): threads that park keep what the word finds as their wait ends, and issue their next group 2 clk after
that. -/
def execBwait (g : BitVec 3) (w : Bool) (d : BitVec 5) (a : BitVec 7) (t : BitVec 4) (s : State) :
    Host.Outcome State Fault Refusal :=
  barWordOp s g a false true fun is wg v o =>
    let go := fun (r at_ : Nat) =>
      (s.finish is wg { s := if w then [] else (activeCrews is wg g).map fun c => (c, d.toNat, BitVec.ofNat 64 r) } 1).modWg
        wg.id fun x => x.modThreads is.threads fun y => { y with notBefore := max (at_ + 2) (s.clk + 1) }
    match (issueNotes is wg).find? fun n => n.val ≠ 0 with
    | some n => go (n.val - 1) n.clk
    | none =>
      if !o.valid then s.barTrap is wg g 3 (refOff v)
      else match bwaitNow o (refPhase v) false with
        | some c => go (c + o.phase * 16) s.clk
        | none =>
          s.parkNote is wg.id (.object (wg.scratchBase + refOff v) (refPhase v)
            (if t = 15 then none else some (s.clk + 2 ^ (t.toNat + 6)))) 0

/-- btest (R322); latency 4 clk (R324). -/
def execBtest (g : BitVec 3) (w : Bool) (p : BitVec 3) (a : BitVec 7) (s : State) : Host.Outcome State Fault Refusal :=
  barWordOp s g a false true fun is wg v o =>
    if !o.valid then s.barTrap is wg g 3 (refOff v)
    else
      let b := o.phase ≠ refPhase v || o.ovr
      s.finishMem is wg { p := if w then [] else (active is wg g).map fun t => (t, p.toNat, b) } 4

end Sys2Proof.Machine
end

