-- ==== Sys2Proof/Machine/Matrix.lean ====
section
/-! DEFINITION. The matrix words of the starter stream (majors 0x48, 0x49, 0x4B to 0x50; R151 to R160, R164 to R176): operand
slots claimed and released, macro-operations checked and queued, and the waits on the sequencers. -/

namespace Sys2Proof.Machine

/-- The cores of the arrays a word names (R143). -/
def amCores (q : Nat) (m : BitVec 4) : List Nat := (arraysOf m).map (quadCore q)

/-- The grid a starter runs. -/
def State.starterGrid (s : State) (k : Starter) : Option Grid :=
  match k.run with | some (g, _) => s.grid? g | none => none

/-- A word of the starter that acts when its guard is 1 and its A value suits it; an A that does not takes ILLOP. -/
def starterWord (s : State) (g : BitVec 3) (a : BitVec 7) (ok : Dbl → Bool) (f : Issue → Nat → Starter → Dbl → State) :
    Host.Outcome State Fault Refusal :=
  withStarter s fun is q k =>
    if !guardOn k.p g then s.starterRetire is q
    else
      let v := starterSrc s is q k a.toNat
      if ok v then f is q k v else s.starterTrapHere is q .illop

/-! ### Operand slots -/

/-- A slot claimed (R151). -/
def Core.claimSlot (k : Core) (lines n : Nat) : Core :=
  (k.modSlot n fun x => { x with state := .claimed, lines := lines }).clearValid n

/-- A slot released (R152): at once, or when its last reader has read it. -/
def Core.releaseSlot (k : Core) (n : Nat) : Core :=
  match (k.slot n).state with
  | .claimed | .full => if (k.slot n).readers = 0 then k.freeSlot n else k.modSlot n fun x => { x with releasing := true }
  | _ => k

/-- mclaim (R151): all slots of all named arrays, or none. -/
def execMclaim (g : BitVec 3) (w : Bool) (p : BitVec 3) (a : BitVec 7) (m : BitVec 4) (s : State) :
    Host.Outcome State Fault Refusal :=
  starterWord s g a (fun v => natBits v.toNat 7 0 ≠ 0 && natBits v.toNat 63 15 = 0) fun is q _ v =>
    let slots := maskOf 8 (natBits v.toNat 7 0)
    let cores := amCores q m
    let ok := cores.all fun c => slots.all fun n => ((s.core c).slot n).state == .free
    let s :=
      if ok then
        cores.foldl (fun (s : State) c => s.modCore c fun k =>
          slots.foldl (fun (k : Core) n => k.claimSlot (natBits v.toNat 14 8 + 1) n) k) s
      else s
    s.starterFinish is q [] (if w then [] else [(p.toNat, ok)]) 0 1

/-- mrelease (R152). -/
def execMrelease (g : BitVec 3) (a : BitVec 7) (m : BitVec 4) (s : State) : Host.Outcome State Fault Refusal :=
  starterWord s g a (fun v => natBits v.toNat 63 8 = 0) fun is q _ v =>
    let s := (amCores q m).foldl (fun (s : State) c => s.modCore c fun k =>
      (maskOf 8 (natBits v.toNat 7 0)).foldl (fun (k : Core) n => k.releaseSlot n) k) s
    s.starterRetire is q

/-! ### The queues -/

/-- Whether every named queue has room (R154). -/
def State.roomIn (s : State) (cores : List Nat) : Bool := cores.all fun c => decide ((s.core c).queue.length < 4)

/-- Whether an operation has finished reading operand memory (R160). -/
def MacroOp.doneReading (o : MacroOp) : Bool := match o.kind with | .mma .. => o.stepsDone | _ => true

/-- Whether the queues of the named arrays satisfy a wait: mode 0, the operations numbered are complete; 1, they have finished
reading; 2, at most one operation is queued; 3, there is room (R154, R160). -/
def State.arraysReady (s : State) (q : Nat) (m : BitVec 4) (mode : Nat) (upto : List Nat) : Bool :=
  (amCores q m).all fun c =>
    let ops := (s.core c).queue
    match mode with
    | 0 => ops.all fun o => !decide (o.id ∈ upto)
    | 1 => ops.all fun o => !decide (o.id ∈ upto) || o.doneReading
    | 2 => decide (ops.length ≤ 1)
    | _ => decide (ops.length < 4)

/-- The kind of a bank as the operations of a queue leave it (R157). -/
def kindAfter (g : Option Grid) (b : Nat) : List MacroOp → Bool → Bool
  | [], k => k
  | o :: t, k =>
    kindAfter g b t
      (if o.kind.bankOf = some b then
        match o.kind with
        | .zero _ int => int
        | .mma _ fa _ _ _ _ z _ => if z then isIntCode (slotCode (gridSlot g fa)) else k
        | .drain (clr := clr) .. => if clr then false else k
        | _ => k
      else k)

/-- The kind of a bank that an operation on it leaves when it is done: that of the last mma with Z = 1 that has issued behind it, which
sets the kind at issue (R157), else its own. -/
def kindIssued (g : Option Grid) (b : Nat) (own : Bool) (behind : List MacroOp) : Bool :=
  behind.foldl (fun (k : Bool) o =>
    match o.kind with
    | .mma x fa _ _ _ _ z _ => if z && x.toNat = b then isIntCode (slotCode (gridSlot g fa)) else k
    | _ => k) own

/-- An operation of a kind enters every named queue in the clk after its word issues (R154, R159). -/
def State.enqueue (s : State) (q : Nat) (k : Starter) (cores : List Nat) (kind : Nat → MacroKind) : State :=
  cores.foldl (fun (s : State) c =>
    let gr := s.starterGrid k
    let node := match s.starterWg q with
      | some w => w.node
      | none => (match gr with | some g => g.node | none => 0)
    let o : MacroOp :=
      { id := s.ids, kind := kind c, grid := (match gr with | some g => g.id | none => 0),
        part := (match gr with | some g => g.part | none => 0), node := node, entered := false, since := [],
        started := none, stepsDone := false, waiting := false, line := 0 }
    ((s.modCore c fun k => { k with queue := k.queue ++ [o] }).post 1 (.macroOperationStart c)).takeId) s

/-- A word that enters the named queues: it issues, and is checked, only when all have room, and stalls the starter until then
(R154). -/
def State.queueWord (s : State) (is : Issue) (q : Nat) (m : BitVec 4) (f : State → State) : State :=
  if s.roomIn (amCores q m) then f s else s.starterPark is q (.arrays m 3 []) none

/-- mzero (R156). -/
def execMzero (g : BitVec 3) (k : Bool) (b : Bool) (m : BitVec 4) (s : State) : Host.Outcome State Fault Refusal :=
  starterWord s g 100 (fun _ => true) fun is q st _ =>
    s.queueWord is q m fun s => (s.enqueue q st (amCores q m) fun _ => .zero b k).starterRetire is q

/-- Whether a code is a matrix format (R146). -/
def isMatrixCode (c : Nat) : Bool := decide (1 ≤ c) && decide (c ≤ 10)

/-- Whether an operand range lies in slots that are CLAIMED or FULL and below their LINES (R157). -/
def Core.rangeUsable (k : Core) (r : Nat × Nat) : Bool :=
  (slotsIn r).all fun n =>
    let sl := k.slot n
    (sl.state == .claimed || sl.state == .full) && decide (min r.2 (16384 * (n + 1)) ≤ 16384 * n + 128 * sl.lines)

/-- The checks of R157 on an mma, in the spec's order. -/
def State.mmaOk (s : State) (gr : Option Grid) (cores : List Nat) (fa fb : Nat) (z b : Bool) (v : Dbl) : Bool :=
  let sa := gridSlot gr fa
  let sb := gridSlot gr fb
  let int := isIntCode (slotCode sa)
  let n := v.toNat
  let r := mmaRanges gr fa fb (natBits n 2 0) (natBits n 5 3) (natBits n 9 6 + 1)
  natBits n 63 10 = 0
    && isMatrixCode (slotCode sa) && isMatrixCode (slotCode sb)
    && int == isIntCode (slotCode sb)
    && decide (slotSmode sa ≤ 1) && (slotSmode sb = 0 || slotSmode sb = 2)
    && decide (r.1.2 ≤ 131072) && decide (r.2.2 ≤ 131072)
    && (decide (r.1.2 ≤ r.2.1) || decide (r.2.2 ≤ r.1.1))
    && cores.all fun c =>
      let k := s.core c
      k.rangeUsable r.1 && k.rangeUsable r.2 && (z || kindAfter gr b.toNat k.queue (k.bank b.toNat).int == int)

/-- The tokens a pinned grid's mma needs beyond those its arrays hold, and the reserve's ballast (R352). -/
def State.falseStart (s : State) (gr : Grid) (cores : List Nat) : Nat × Nat :=
  ((cores.filter fun c => (s.core c).token == .none && (s.core c).queue.isEmpty).length,
    (s.cores.filter fun x => x.2.pinned = some gr.id && (match x.2.token with | .ballast _ => true | _ => false)).length)

/-- A false start is recorded in FSINFO of the partition (R352, R353). -/
def State.recordFalseStart (s : State) (part q n f : Nat) : State :=
  let old := (kget 0 s.pacer.fsinfo part).toNat % 256
  let v := BitVec.ofNat 64 (min (old + 1) 255 + q % 48 * 2 ^ 8 + q / 48 * 2 ^ 14 + n * 2 ^ 16 + f * 2 ^ 19)
  { s with pacer := { s.pacer with fsinfo := kset s.pacer.fsinfo part v } }

/-- A passing mma marks the slots it reads and, with Z, sets the bank's kind (R157). -/
def State.mmaTake (s : State) (gr : Option Grid) (cores : List Nat) (fa fb oa ob kc : Nat) (z b : Bool) : State :=
  let r := mmaRanges gr fa fb oa ob kc
  let slots := dedup (slotsIn r.1 ++ slotsIn r.2)
  cores.foldl (fun (s : State) c => s.modCore c fun k =>
    let k := slots.foldl (fun (k : Core) n => k.modSlot n fun x => { x with readers := x.readers + 1 }) k
    if z then k.modBank b.toNat fun x => { x with int := isIntCode (slotCode (gridSlot gr fa)) } else k) s

/-- mma (R154, R157, R352). -/
def execMma (g : BitVec 3) (y : BitVec 3) (x : BitVec 3) (a : BitVec 7) (t : Bool) (z : Bool) (b : Bool) (m : BitVec 4)
    (s : State) : Host.Outcome State Fault Refusal :=
  starterWord s g a (fun _ => true) fun is q k v =>
    s.queueWord is q m fun s =>
      let gr := s.starterGrid k
      let cores := amCores q m
      let fa := x.toNat
      let fb := y.toNat
      let n := v.toNat
      if !s.mmaOk gr cores fa fb z b v then s.starterTrapHere is q .illop
      else
        let fs := match gr with | some gr => if gr.pin ≠ 0 then s.falseStart gr cores else (0, 0) | none => (0, 0)
        if fs.1 > fs.2 then
          (s.recordFalseStart (match gr with | some gr => gr.part | none => 0) q fs.1 fs.2).starterTrapHere is q .falseStart
        else
          let oa := natBits n 2 0
          let ob := natBits n 5 3
          let kc := natBits n 9 6 + 1
          ((s.mmaTake gr cores fa fb oa ob kc z b).enqueue q k cores fun _ => .mma b fa fb oa ob kc z t).starterRetire is q

/-! ### Drain, check and tile position -/

/-- Bytes of an output tile of a format code (R170). -/
def tileBytes (code : Nat) : Nat :=
  match code with
  | 1 | 13 | 14 => 32768
  | 2 | 3 | 11 | 12 => 16384
  | 7 => 4096
  | _ => 8192

/-- The report of a drain whose range is too large for a core's allocation (R171): whether the output range is one that fails,
and every array whose allocation is too small; with no residual only the output range counts. -/
def State.drainBad (s : State) (q grid out res outBytes : Nat) (resBytes : Option Nat) (m : BitVec 4) : Option (Bool × List Nat) :=
  let bad := fun (first bytes i : Nat) => decide (128 * first + bytes > (s.gridAlloc (quadCore q i) grid).2)
  let badOut := bad out outBytes
  let badRes := fun (i : Nat) => match resBytes with | some n => bad res n i | none => false
  match (arraysOf m).filter fun i => badOut i || badRes i with
  | [] => none
  | l => some ((arraysOf m).any badOut, l)

/-- mdrain (R154, R170, R171); r is FR and o is FO, l is CLR. -/
def execMdrain (g : BitVec 3) (r : BitVec 3) (o : BitVec 3) (a : BitVec 7) (l : Bool) (b : Bool) (m : BitVec 4) (s : State) :
    Host.Outcome State Fault Refusal :=
  starterWord s g a (fun _ => true) fun is q k v =>
    s.queueWord is q m fun s =>
      let gr := s.starterGrid k
      let so := gridSlot gr o.toNat
      let sr := gridSlot gr r.toNat
      let n := v.toNat
      let out := natBits n 10 0
      let res := natBits n 21 11
      let resen := natBit n 22
      let ob := tileBytes (slotCode so)
      let rb := if resen then tileBytes (slotCode sr) else 0
      let slotOk := fun (f : List Word32) => slotCode f ≠ 0 && slotSmode f = 0
      let meet := resen && decide (128 * out < 128 * res + rb) && decide (128 * res < 128 * out + ob)
        && !(out = res && ob = rb)
      if natBits n 63 40 ≠ 0 || !slotOk so || (resen && !slotOk sr) || (!resen && r ≠ 0) || meet then
        s.starterTrapHere is q .illop
      else
        let grid := match gr with | some gr => gr.id | none => 0
        match s.drainBad q grid out res ob (if resen then some rb else none) m with
        | some (w, arrays) =>
          let s := s.modStarter q fun k =>
            { k with mfinfo := mfinfoOf 3 w, mfaddr := BitVec.ofNat 64 (128 * if w then out else res),
                     mflanes := arrays.foldl (fun x i => setBit x i true) 0 }
          s.starterTrapHere is q .memfault
        | none =>
          (s.enqueue q k (amCores q m) fun c =>
            .drain b (kindAfter gr b.toNat (s.core c).queue ((s.core c).bank b.toNat).int) o.toNat r.toNat out res
              (natBits n 39 24) resen (natBit n 23) l 0 0).starterRetire is q

/-- mchk (R169): the starter stalls until the checks it queued are complete. The mark kept with the word is twice the first
operation's number, plus one once a correction has been made. -/
def execMchk (g : BitVec 3) (w : Bool) (p : BitVec 3) (b : Bool) (m : BitVec 4) (s : State) :
    Host.Outcome State Fault Refusal :=
  starterWord s g 100 (fun _ => true) fun is q k _ =>
    match k.mark with
    | some x => s.starterFinish is q [] (if w then [] else [(p.toNat, decide (x % 2 = 0))]) 0 1
    | none =>
      s.queueWord is q m fun s =>
        let cores := amCores q m
        let ids := (List.range cores.length).map fun i => s.ids + i
        (s.enqueue q k cores fun _ => .check b).starterPark is q (.arrays m 0 ids) (some (2 * s.ids))

/-- mheat with EN = 1 (R154, R176). -/
def execMheat (g : BitVec 3) (a : BitVec 7) (m : BitVec 4) (s : State) : Host.Outcome State Fault Refusal :=
  starterWord s g a (fun _ => true) fun is q k v =>
    s.queueWord is q m fun s =>
      let heat := match s.starterGrid k with | some gr => gr.hcols ≠ 0 | none => false
      if natBits v.toNat 63 16 ≠ 0 || !heat then s.starterTrapHere is q .illop
      else
        (s.enqueue q k (amCores q m) fun c =>
          let i := coreArray c
          .heat true (natBits v.toNat (4 * i + 1) (4 * i)) (natBits v.toNat (4 * i + 3) (4 * i + 2))).starterRetire is q

/-- mheat.off, EN = 0 (R176). -/
def execMheatOff (g : BitVec 3) (m : BitVec 4) (s : State) : Host.Outcome State Fault Refusal :=
  starterWord s g 100 (fun _ => true) fun is q k _ =>
    s.queueWord is q m fun s => (s.enqueue q k (amCores q m) fun _ => .heat false 0 0).starterRetire is q

/-- mwait (R160). -/
def execMwait (g : BitVec 3) (q : BitVec 2) (m : BitVec 4) (s : State) : Host.Outcome State Fault Refusal :=
  starterWord s g 100 (fun _ => true) fun is qd _ _ =>
    let ids := (amCores qd m).flatMap fun c => (s.core c).queue.map fun o => o.id
    if s.arraysReady qd m q.toNat ids then s.starterRetire is qd else s.starterPark is qd (.arrays m q.toNat ids) none

end Sys2Proof.Machine
end

