-- ==== Sys2Proof/Machine/Tile.lean ====
section
/-! DEFINITION. The arithmetic of the arrays: operand elements (R146, R158), exact sums and MatRound (R158), one row step with
the checksums (R166), the check of a bank (R167), and the elements of a drain (R172, R173). -/

namespace Sys2Proof.Machine

/-! ### Exact sums -/

/-- A sum of terms formed exactly (R158): m × 2^e, what non-finite terms were met, and whether every term was −0. -/
structure Exact where
  nan : Bool
  inv : Bool
  pos : Bool
  neg : Bool
  m : Int
  e : Int
  nz : Bool
deriving DecidableEq, Repr

/-- The empty sum. -/
def Exact.zero : Exact := { nan := false, inv := false, pos := false, neg := false, m := 0, e := 0, nz := true }

/-- A term added; none is the product ∞ × 0. -/
def Exact.add (x : Exact) : Option FVal → Exact
  | none => { x with inv := true, nz := false }
  | some (.nan _) => { x with nan := true, nz := false }
  | some (.inf n) => if n then { x with neg := true, nz := false } else { x with pos := true, nz := false }
  | some (.fin n m e) =>
    if m = 0 then { x with nz := x.nz && n }
    else
      let v : Int := if n then -(m : Int) else m
      if x.m = 0 then { x with m := v, e := e, nz := false }
      else if e < x.e then { x with m := x.m * 2 ^ (x.e - e).toNat + v, e := e, nz := false }
      else { x with m := x.m + v * 2 ^ (e - x.e).toNat, nz := false }

/-- The sum of a list of terms. -/
def exactSum (l : List (Option FVal)) : Exact := l.foldl Exact.add Exact.zero

/-- The sum as a value, for an operand of a further exact product. -/
def Exact.val (x : Exact) : FVal :=
  if x.nan || x.inv || (x.pos && x.neg) then .nan false
  else if x.pos then .inf false
  else if x.neg then .inf true
  else .fin (if x.m = 0 then x.nz else decide (x.m < 0)) x.m.natAbs x.e

/-- MatRound (R158): one rounding to nearest-even in f32, with NV and OF only. -/
def Exact.round (x : Exact) : Word32 × BitVec 8 :=
  if x.nan then (canonNan, 0)
  else if x.inv || (x.pos && x.neg) then (canonNan, flNV)
  else if x.pos then (f32Inf false, 0)
  else if x.neg then (f32Inf true, 0)
  else if x.m = 0 then ((if x.nz then 0x80000000 else 0), 0)
  else
    let r := f32Round plainMode (decide (x.m < 0)) x.m.natAbs 1 x.e
    (r.1, r.2 &&& flOF)

/-- The sum as an integer, for terms that are integers. -/
def Exact.int (x : Exact) : Int := x.m * 2 ^ x.e.toNat

/-- A product of exact values. -/
def FVal.times (a b : FVal) : Option FVal := mulVals a b

/-- An integer as a value. -/
def intVal (v : Int) : FVal := .fin (decide (v < 0)) v.natAbs 0

/-! ### Operand elements -/

/-- The p-bit value of element i of a plane-major block (R124, R125). -/
def planeValue (m : Memory) (base stride p i : Nat) : Int :=
  (List.range p).foldl (fun (v : Int) k =>
    let b : Int := if (m.get (base + k * stride + i / 8)).getLsbD (i % 8) then 1 else 0
    if k = 0 then -b * 2 ^ (p - 1) else v + b * 2 ^ (p - 1 - k)) 0

/-- The field of element i of a block that is not plane-major (R146). -/
def elemField (m : Memory) (code base i : Nat) : Nat :=
  match code with
  | 1 => (m.word (base + 4 * i)).toNat
  | 2 | 3 => (m.get (base + 2 * i)).toNat + 256 * (m.get (base + 2 * i + 1)).toNat
  | 7 => (m.get (base + i / 2)).toNat / 2 ^ (4 * (i % 2)) % 16
  | _ => (m.get (base + i)).toNat

/-- Val of an element (R158): an integer less the zero-point, or the decoded float. -/
def elemVal (m : Memory) (f : List Word32) (base stride i : Nat) : FVal :=
  let code := slotCode f
  let p := slotPlanes f
  if code = 8 then intVal (planeValue m base stride p i - slotZero f / 2 ^ (8 - p))
  else if isIntCode code then
    match fieldVal code (elemField m code base i) with
    | .fin n v _ => intVal ((if n then -(v : Int) else v) - slotZero f)
    | v => v
  else fieldVal code (elemField m code base i)

/-- The operands of a chunk: Val(A, m, k) and Val(B, k, n) with k counted within the chunk. -/
structure Chunk where
  f : List Word32
  h : List Word32
  a : Nat
  b : Nat
deriving DecidableEq, Repr

/-- Chunk c of an mma's operands (R146). -/
def chunkOf (g : Option Grid) (fa fb oa ob c : Nat) : Chunk :=
  let f := gridSlot g fa
  let h := gridSlot g fb
  { f := f, h := h, a := 16384 * oa + c * aBlock (slotCode f) (slotPlanes f),
    b := 16384 * ob + c * (aBlock (slotCode h) (slotPlanes h) / 2) }
def Chunk.valA (x : Chunk) (m : Memory) (row k : Nat) : FVal := elemVal m x.f x.a 1024 (64 * row + k)
def Chunk.valB (x : Chunk) (m : Memory) (k col : Nat) : FVal := elemVal m x.h x.b 512 (64 * col + k)

/-- The exact sum of the values of a column of A, and of a row of B (R166). -/
def Chunk.sumA (x : Chunk) (m : Memory) (k : Nat) : FVal :=
  (exactSum ((List.range 128).map fun r => some (x.valA m r k))).val
def Chunk.sumB (x : Chunk) (m : Memory) (k : Nat) : FVal :=
  (exactSum ((List.range 64).map fun n => some (x.valB m k n))).val

/-! ### Banks -/

/-- An element, a row checksum and a column checksum of a bank as exact values. -/
def bankElem (b : Bank) (int : Bool) (m n : Nat) : FVal :=
  let w := kget 0 b.acc (64 * m + n)
  if int then intVal w.toInt else Ieee.f32.val w.toNat
def sumElem (l : List (Nat × Dbl)) (int : Bool) (i : Nat) : FVal :=
  let w := kget 0 l i
  if int then intVal w.toInt else Ieee.f32.val (w.truncate 32).toNat

/-- A checksum entry formed from an exact sum (R166): 64-bit two's complement, or MatRound without flags. -/
def sumEntry (int : Bool) (x : Exact) : Dbl := if int then BitVec.ofInt 64 x.int else x.round.1.zeroExtend 64

/-- A saturated integer result, with SAT (R158). -/
def satI32 (v : Int) : Word32 × BitVec 8 :=
  if v > 2147483647 then (0x7FFFFFFF, flSAT) else if v < -2147483648 then (0x80000000, flSAT) else (BitVec.ofInt 32 v, 0)

/-- One row step (R158) with its row checksum (R166): z says that the row starts from 0. The flags it raises. -/
def rowStep (mem : Memory) (x : Chunk) (int z : Bool) (row : Nat) (b : Bank) : Bank × BitVec 8 :=
  let r := (List.range 64).foldl (fun (st : Bank × BitVec 8) n =>
    let b := st.1
    let u : FVal := if z then .fin false 0 0 else bankElem b int row n
    let t := exactSum (some u :: (List.range 64).map fun k => (x.valA mem row k).times (x.valB mem k n))
    let v := if int then satI32 t.int else t.round
    ({ b with
        acc := kset b.acc (64 * row + n) v.1
        exRows := if v.2 &&& flSAT = 0 then b.exRows else dedup (row :: b.exRows)
        exCols := if v.2 &&& flSAT = 0 then b.exCols else dedup (n :: b.exCols) }, st.2 ||| v.2)) (b, 0)
  let cc := exactSum (some (sumElem b.cc int row)
    :: (List.range 64).map fun k => (x.valA mem row k).times (x.sumB mem k))
  ({ r.1 with cc := kset r.1.cc row (sumEntry int cc) }, r.2)

/-- The end of a chunk (R166): the column checksums, and one more chunk in NC. -/
def chunkEnd (mem : Memory) (x : Chunk) (int : Bool) (b : Bank) : Bank :=
  (List.range 64).foldl (fun (b : Bank) n =>
    let c := exactSum (some (sumElem b.cr int n)
      :: (List.range 64).map fun k => (x.sumA mem k).times (x.valB mem k n))
    { b with cr := kset b.cr n (sumEntry int c) }) { b with nc := min 4096 (b.nc + 1) }

/-- A bank zeroed in its checksums, NC and mask; its kind is set where its word issues (R156, R157, R166). -/
def Bank.clearSums (b : Bank) : Bank := { b with cr := [], cc := [], nc := 0, exRows := [], exCols := [] }

/-! ### The check (R167) -/

/-- Whether an exact value is finite. -/
def FVal.isFin : FVal → Bool
  | .fin .. => true
  | _ => false

/-- A finite f32 value times 2^149, an integer. -/
def scaled (v : FVal) : Int :=
  match v with
  | .fin n m e => (if n then -1 else 1) * ((m : Int) * 2 ^ (e + 149).toNat)
  | _ => 0

/-- The elements of line i: a row, or a column. -/
def lineElems (b : Bank) (int row : Bool) (i : Nat) : List FVal :=
  if row then (List.range 64).map fun n => bankElem b int i n else (List.range 128).map fun m => bankElem b int m i

/-- The checksum of line i. -/
def lineSum (b : Bank) (int row : Bool) (i : Nat) : FVal := if row then sumElem b.cc int i else sumElem b.cr int i

/-- Whether line i is excluded: marked (R166, R275), or in a float bank with a value that is not finite. -/
def lineOut (b : Bank) (int row : Bool) (i : Nat) : Bool :=
  decide (i ∈ if row then b.exRows else b.exCols)
    || (!int && (!(lineSum b int row i).isFin || (lineElems b int row i).any fun v => !v.isFin))

/-- Whether line i passes (R167). -/
def linePasses (b : Bank) (int row : Bool) (i : Nat) : Bool :=
  let es := lineElems b int row i
  let c := lineSum b int row i
  if int then
    BitVec.ofInt 64 ((es.map fun v => (exactSum [some v]).int).foldl (· + ·) 0) == BitVec.ofInt 64 (exactSum [some c]).int
  else
    let rs := (es.map scaled).foldl (· + ·) 0
    let mag : Int := (es.map fun v => ((scaled v).natAbs : Int)).foldl (· + ·) 0 + ((scaled c).natAbs : Int)
    decide ((((rs - scaled c).natAbs : Nat) : Int) * 2 ^ 20 ≤ (b.nc : Int) * mag)

/-- The outcome of a check: pass, a corrected bank, or uncorrectable. -/
inductive CheckRes where
  | pass
  | corrected (b : Bank)
  | bad
deriving DecidableEq, Repr

/-- The exact sum of line i as a checksum entry: of a float bank, rounded once to f32 as R166 rounds its checksums (log entry 88). -/
def lineEntry (b : Bank) (int row : Bool) (i : Nat) : Dbl :=
  let x := exactSum ((lineElems b int row i).map some)
  if int then BitVec.ofInt 64 x.int else x.round.1.zeroExtend 64

/-- An element corrected from its row (R167). -/
def fixElem (b : Bank) (int : Bool) (r c : Nat) : CheckRes :=
  let others := ((List.range 64).filter fun n => n ≠ c).map fun n => bankElem b int r n
  let done := fun (w : Word32) =>
    let b := { b with acc := kset b.acc (64 * r + c) w }
    if !lineOut b int true r && !lineOut b int false c && linePasses b int true r && linePasses b int false c then
      .corrected b
    else CheckRes.bad
  if int then
    let v := (BitVec.ofInt 64 ((exactSum [some (lineSum b int true r)]).int
      - (others.map fun v => (exactSum [some v]).int).foldl (· + ·) 0)).toInt
    if v < -2147483648 ∨ v > 2147483647 then .bad else done (BitVec.ofInt 32 v)
  else
    let v := scaled (lineSum b int true r) - (others.map scaled).foldl (· + ·) 0
    done (f32Round plainMode (decide (v < 0)) v.natAbs 1 (-149)).1

/-- The check of a bank under the rules of a kind (R167). -/
def checkBank (b : Bank) (int : Bool) : CheckRes :=
  let outR := (List.range 128).filter fun m => lineOut b int true m
  let outC := (List.range 64).filter fun n => lineOut b int false n
  let fr := (List.range 128).filter fun m => !decide (m ∈ outR) && !linePasses b int true m
  let fc := (List.range 64).filter fun n => !decide (n ∈ outC) && !linePasses b int false n
  match fr, fc with
  | [], [] => .pass
  | [r], [c] => fixElem b int r c
  | [r], [] => if outC = [] then .corrected { b with cc := kset b.cc r (lineEntry b int true r) } else .bad
  | [], [c] => if outR = [] then .corrected { b with cr := kset b.cr c (lineEntry b int false c) } else .bad
  | _, _ => .bad

/-! ### Drain elements (R172, R173) -/

/-- DropHash (R173). -/
def dropHash (key : Dbl) (r c : Nat) : Nat :=
  let x := key ^^^ BitVec.ofNat 64 (r * 2 ^ 32 + c)
  let x := (x ^^^ (x >>> 33)) * 0xFF51AFD7ED558CCD
  let x := (x ^^^ (x >>> 33)) * 0xC4CEB9FE1A85EC53
  let x := x ^^^ (x >>> 33)
  x.toNat / 2 ^ 48

/-- The coordinates of element (m, n) of a drain (R173): MTILE's fields read 0 while HEAT is 0. -/
def dropCoords (org : Dbl) (tile : Word32) (m n : Nat) : Nat × Nat :=
  let on := tile.getLsbD 4
  let tr := if on then (tile.extractLsb' 0 2).toNat else 0
  let tc := if on then (tile.extractLsb' 2 2).toNat else 0
  ((natBits org.toNat 63 32 + 128 * tr + m) % 2 ^ 32, (natBits org.toNat 31 0 + 64 * tc + n) % 2 ^ 32)

/-- A scale of an operand times 2^(8−p) (R172). -/
def scalePlanes (f : List Word32) (v : FVal) : FVal :=
  match v with
  | .fin n m e => .fin n m (e + ((8 - slotPlanes f : Nat) : Int))
  | v => v

/-- A residual element as a real value (R129, R172), in tensor mode: of a q format, which holds v₈ (R170), the p planes of the slot
are read (R124; log entry 37). -/
def residualVal (m : Memory) (f : List Word32) (base i : Nat) : Option FVal :=
  let code := slotCode f
  let p := slotPlanes f
  let raw := match code with
    | 13 | 14 => (m.word (base + 4 * i)).toNat
    | 11 | 12 => (m.get (base + 2 * i)).toNat + 256 * (m.get (base + 2 * i + 1)).toNat
    | _ => elemField m code base i
  let s := Ieee.f32.val (slotScale f).toNat
  if isIntCode code then
    match fieldVal code raw with
    | .fin n v _ =>
      (scalePlanes f (intVal ((if n then -(v : Int) else v) / 2 ^ (8 - p) - slotZero f / 2 ^ (8 - p)))).times s
    | v => some v
  else (fieldVal code raw).times s

/-- Bits of an output element of a format code (R170). -/
def tileBits (code : Nat) : Nat := tileBytes code * 8 / 8192

/-- The fields of one output line put into bytes, lowest first. -/
def packFields (bits : Nat) (l : List Nat) : List Byte :=
  if bits = 4 then (List.range 128).map fun i => BitVec.ofNat 8 (l.getD (2 * i) 0 % 16 + 16 * (l.getD (2 * i + 1) 0 % 16))
  else l.flatMap fun v => (List.range (bits / 8)).map fun k => BitVec.ofNat 8 (v / 256 ^ k)

end Sys2Proof.Machine
end

