-- ==== Sys2Proof/Machine/Sequencer.lean ====
section
/-! DEFINITION. The macro-operation sequencers of the arrays: heads and starts (R155, R159, R408), row steps (R158, R161), bank
clears (R156), checks (R167, R168), drains (R172 to R174), tile positions (R176) and scrubs (R178). -/

namespace Sys2Proof.Machine

/-- Whether an operation is an mma. -/
def MacroKind.isMma : MacroKind → Bool
  | .mma .. => true
  | _ => false

/-- The first operation of a queue that is behind mmas in their tail: the head if it is an mma, and none otherwise (R159). -/
def behindTails : List MacroOp → Option MacroOp
  | [] => none
  | o :: t => if !o.kind.isMma then none else if o.stepsDone then behindTails t else some o

/-- The head of a queue (R159): behind an mma that has made its last row step, the mma next to it. -/
def headOf : List MacroOp → Option MacroOp
  | [] => none
  | o :: t => if o.kind.isMma && o.stepsDone then behindTails t else some o

/-- An operation of a core's queue changed. -/
def State.modMacro (s : State) (core id : Nat) (f : MacroOp → MacroOp) : State :=
  s.modCore core fun k => { k with queue := mapIf (fun o => o.id = id) f k.queue }

/-! ### Classes of timing (R159) -/

/-- R and L of an operand's format. -/
def classOf (f : List Word32) : Nat × Nat :=
  match slotCode f with
  | 1 => (2048, 256)
  | 2 | 3 => (256, 128)
  | 7 => (64, 64)
  | 8 => (16 * slotPlanes f, 64)
  | _ => (128, 64)

/-- R and L of an mma: the slower class of its operands. -/
def mmaClass (g : Option Grid) (fa fb : Nat) : Nat × Nat :=
  let a := classOf (gridSlot g fa)
  let b := classOf (gridSlot g fb)
  if a.1 < b.1 then b else a

/-- The clk of row m within its chunk. -/
def rowClk (r m : Nat) : Nat := m * r / 128

/-! ### Presence of streamed operands (R161) -/

/-- The lines of a byte range. -/
def rangeLines (a n : Nat) : List Nat := (List.range ((a + n + 127) / 128 - a / 128)).map fun i => a / 128 + i

/-- The lines that hold a chunk of B. -/
def chunkLinesB (x : Chunk) : List Nat := rangeLines x.b (aBlock (slotCode x.h) (slotPlanes x.h) / 2)

/-- The lines that hold a row of A of a chunk. -/
def rowLinesA (x : Chunk) (m : Nat) : List Nat :=
  let code := slotCode x.f
  if code = 8 then (List.range (slotPlanes x.f)).map fun k => (x.a + 1024 * k + 8 * m) / 128
  else
    let n := aBlock code 8 / 128
    rangeLines (x.a + n * m) n

/-- The byte ranges that hold a row of A of a chunk. -/
def rowBytesA (x : Chunk) (m : Nat) : List (Nat × Nat) :=
  let code := slotCode x.f
  if code = 8 then (List.range (slotPlanes x.f)).map fun k => (x.a + 1024 * k + 8 * m, 8)
  else
    let n := aBlock code 8 / 128
    [(x.a + n * m, n)]

/-- Whether an mma's conditions other than the token hold at a chunk (R155, R161). -/
def State.mmaReady (s : State) (core : Nat) (o : MacroOp) (c : Nat) : Bool :=
  let k := s.core core
  match o.kind with
  | .mma _ fa fb oa ob _ _ stream =>
    if stream then (chunkLinesB (chunkOf (s.grid? o.grid) fa fb oa ob c)).all k.lineFull
    else (s.opSlots o).all fun n => (k.slot n).state == .full
  | _ => true

/-- Whether the head of a core meets every condition but the token (R353). -/
def State.headReady (s : State) (core : Nat) : Bool :=
  match headOf (s.core core).queue with
  | some o => o.entered && o.started.isNone && s.mmaReady core o (s.core core).nextc
  | none => false

/-! ### Starting -/

/-- The starter's flags raised by an array (R143, R327). -/
def State.arrayFlags (s : State) (core : Nat) (f : BitVec 8) : State :=
  if f = 0 then s
  else s.modStarter (coreQuad core) fun k => k.raise (some (coreArray core)) f

/-- The operation at the front has completed: it leaves the queue, an empty queue turns the token into ballast (R347), and its last
flags came in this clk (R332). -/
def State.popMacro (s : State) (core : Nat) : State :=
  let s := s.modCore core fun k =>
    let q := k.queue.drop 1
    { k with queue := q, token := if q = [] then k.token.toBallast s.clk else k.token }
  (s.modStarter (coreQuad core) fun k => { k with wrote := s.clk + 1 }).poke core

/-- An operation enters its queue (R159); a drain reads the dropout registers and makes its output lines absent (R171,
R173). -/
def State.enter (s : State) (core : Nat) (o : MacroOp) : State :=
  match o.kind with
  | .drain b int fo fr out res keep resen drop clr _ _ =>
    let k := s.starter (coreQuad core)
    let s := s.modMacro core o.id fun x =>
      { x with entered := true, kind := .drain b int fo fr out res keep resen drop clr k.dropkey k.droporg }
    let base := (s.gridAlloc core o.grid).1
    s.setAbsent core (rangeLines (base + 128 * out) (tileBytes (slotCode (gridSlot (s.grid? o.grid) fo))))
  | _ => s.modMacro core o.id fun x => { x with entered := true }

/-- Whether a quad's starter and arrays are being saved (R162): the workgroups of its grid there have been asked for and every crew
of theirs has left the picker. -/
def State.saving (s : State) (q : Nat) : Bool :=
  match (s.starter q).run with
  | some (g, _) =>
    let ws := s.wgs.filter fun w => w.evict && w.grid = g && coreQuad w.core = q
    !ws.isEmpty && ws.all fun w => (List.range w.crews.length).all fun c =>
      w.live c = [] || (match w.crew? c with | some k => k.out | none => true)
  | none => false

/-- A row step of a core, or what stands for one, due in a number of clk. -/
def State.stepIn (s : State) (core d : Nat) : State :=
  (s.modCore core fun k => { k with stepDue := some (s.clk + d) }).post d (.mmaRowStep core)

/-- An operation that becomes the head takes its array's ballast back (R155, R347). -/
def Token.takeBack : Token → Token
  | .ballast _ => .work
  | t => t

/-- The address of element i of a slot's scale vector (R129). -/
def scaleAddr (f : List Word32) (i : Nat) : Nat := (f.getD 2 0).toNat + (f.getD 3 0).toNat * 2 ^ 32 + 4 * i

/-- The load of a drain's scale vectors (R172): an ordinary load of the core, begun as the drain begins; an address that no load may
name kills as a fault on the fetch does (R178, R185). -/
def State.scaleLoad (s : State) (core : Nat) (o : MacroOp) (bank : Bool) : State :=
  match ((s.core core).bank bank.toNat).fmts, s.grid? o.grid with
  | some (fa, fb), some gr =>
    let vec := fun (i n : Nat) =>
      let f := gridSlot (some gr) i
      if slotSmode f = 0 then [] else (List.range n).map (scaleAddr f)
    let need := vec fa 128 ++ vec fb 64
    if need = [] then s
    else match need.find? fun a => !canonical a, s.arrayOwner core o.grid with
      | some a, some w => s.killWg w a none
      | some _, none => s.killArray core
      | none, _ =>
        let lines := (linesOf (s.core core).tlb gr.ctx 0 (need.map fun a => laneAcc 0 a 0 0)).map fun l => { l with threads := [] }
        let x := bareOp s .scale core o.part o.node gr.ctx o.id o.grid lines
        lines.foldl (fun (s : State) l => s.sendLine x.id l.line) (s.addOp x)
  | _, _ => s

/-- Whether the B chunk 0 of a head was loaded during the rows of the mma before it (R159): its conditions held at least L clk before
the last of them. -/
def Core.hidden (k : Core) (o : MacroOp) (l : Nat) : Bool :=
  (match k.queue with | p :: _ => decide (p.id ≠ o.id) | [] => false)
    && o.since.any fun x => x.1 = 0 && decide (x.2 + l ≤ k.rowsAt.1)

/-- The head operation starts if it may (R155, R156, R159, R167, R174, R176). -/
def State.startHead (s : State) (core : Nat) (o : MacroOp) : State :=
  let s := s.modCore core fun k => { k with token := k.token.takeBack }
  let k := s.core core
  let begun := s.modMacro core o.id fun x => { x with started := some s.clk, waiting := false, line := 0 }
  match o.kind with
  | .zero .. => begun.post 15 (.mzeroComplete core)
  | .check _ => begun.post 139 (.checkComplete core)
  | .drain bank .. => (begun.post 139 (.checkComplete core)).scaleLoad core o bank
  | .heat en tr tc =>
    (s.modCore core fun k =>
      { k with mtile := if en then BitVec.ofNat 32 (tr + tc * 4 + 16) else 0 }).popMacro core
  | .mma _ fa fb .. =>
    let l := (mmaClass (s.grid? o.grid) fa fb).2
    if k.asked then s
    else if s.saving (coreQuad core) then s.post 1 (.macroOperationStart core)
    else if k.token = .none then (s.modCore core fun k => { k with asked := true }).post 6 (.tokenRequest core)
    else if k.hidden o l then begun.stepIn core 0
    else if s.mmaReady core o k.nextc then begun.stepIn core l
    else s.modMacro core o.id fun x => { x with waiting := true }

/-- A running operation that waits for presence looks again (R161, R174). -/
def State.wakeHead (s : State) (core : Nat) (o : MacroOp) : State :=
  if !o.waiting then s
  else if o.kind.isMma && s.saving (coreQuad core) then s.post 1 (.macroOperationStart core)
  else
    let go := s.modMacro core o.id fun x => { x with waiting := false, line := if o.kind.isMma then 0 else x.line }
    match o.kind with
    | .drain .. => go.post 0 (.drainLineWrite core o.line)
    | .mma _ fa fb .. =>
      if o.line = 1 then
        if s.mmaReady core o (s.core core).nextc then go.stepIn core (mmaClass (s.grid? o.grid) fa fb).2 else s
      else go.stepIn core 0
    | _ => s

/-- The chunks whose B an mma is still to load and has not been noted: chunk 0 stands for all of a queued one without STREAM. -/
def MacroOp.unnoted (o : MacroOp) : List Nat :=
  match o.kind with
  | .mma (kc := kc) (stream := stream) .. =>
    if o.stepsDone then [] else (List.range (if stream then kc else 1)).filter fun c => !o.since.any fun x => x.1 = c
  | _ => []

/-- The clk from which the queued mmas have met their conditions, and the B of each chunk of a streamed one has been present, is kept
(R159, R161). -/
def State.noteSince (s : State) (core : Nat) (entered : List Nat) : State :=
  (s.core core).queue.foldl (fun (s : State) o =>
    match (if o.entered then o.unnoted else []).filter (s.mmaReady core o) with
    | [] => s
    | l =>
      let t := if decide (o.id ∈ entered) then s.clk else s.clk - 1
      s.modMacro core o.id fun x => { x with since := x.since ++ l.map fun c => (c, t) }) s

/-- macroOperationStart (R155): operations enter the queue, what holds is noted, and the head starts or looks again at what it waits
for. -/
def execMacroOperationStart (core : Nat) (s : State) : Host.Outcome State Fault Refusal :=
  let new := (s.core core).queue.filter fun o => !o.entered
  let s := (new.foldl (fun (s : State) o => s.enter core o) s).noteSince core (new.map fun o => o.id)
  match headOf (s.core core).queue with
  | none => .next s
  | some o => .next (if o.started.isSome then s.wakeHead core o else s.startHead core o)

/-! ### mma -/

/-- The mma whose rows an array steps. -/
def stepping (q : List MacroOp) : Option MacroOp :=
  q.find? fun o => o.kind.isMma && o.started.isSome && !o.stepsDone

/-- The slots an mma read become FREE when a release waits for them and no other operation reads them still (R152); the mma has
finished with every slot at its last row step (log entry 70). -/
def State.readDone (s : State) (core : Nat) (o : MacroOp) : State :=
  (s.opSlots o).foldl (fun (s : State) n =>
    let k := s.core core
    let others := k.queue.any fun p => p.id ≠ o.id && !p.stepsDone && decide (n ∈ s.opSlots p)
    if (k.slot n).releasing && !others then s.modCore core fun k => k.freeSlot n else s) s

/-- The last row step of an mma is over (R159): what follows may become the head, and it completes 70 clk later. -/
def State.rowsDone (s : State) (core : Nat) (o : MacroOp) : State :=
  let s := s.modMacro core o.id fun x => { x with stepsDone := true }
  let s := (s.modCore core fun k => { k with nextc := 0, nextrow := 0, chunk := none, held := [] }).readDone core o
  (s.post 70 (.mmaComplete core)).post 1 (.macroOperationStart core)

/-- The operand bytes with which an array makes a row step (R161): B of a chunk is taken in at the end of its load, as the chunk's
first row steps or, after a resume, as its rows go on; a row of A is taken in at its step. -/
def Core.takeIn (k : Core) (op c row : Nat) (x : Chunk) : Memory :=
  let m := if k.chunk == some (op, c) then k.held
    else k.held.patch k.opmem x.b (aBlock (slotCode x.h) (slotPlanes x.h) / 2)
  (rowBytesA x row).foldl (fun (m : Memory) r => m.patch k.opmem r.1 r.2) m

/-- The row step itself (R158, R166), lasting a number of clk: the flags of the row come with its writing, 70 clk after the step
(R159). The bank holds the row's values from the step on, since nothing reads it before the last operation on it is complete. -/
def State.stepRow (s : State) (core op : Nat) (bank : Bool) (fa fb oa ob : Nat) (g : Option Grid) (z : Bool) (lasts : Nat) : State :=
  let k := s.core core
  let b := k.bank bank.toNat
  let int := isIntCode (slotCode (gridSlot g fa))
  let b := if z && k.nextc = 0 && k.nextrow = 0 then { b.clearSums with fmts := some (fa, fb) } else b
  let b := { b with fmts := match b.fmts with | some x => some x | none => some (fa, fb) }
  let x := chunkOf g fa fb oa ob k.nextc
  let m := k.takeIn op k.nextc k.nextrow x
  let r := rowStep m x int (z && k.nextc = 0) k.nextrow b
  let b := if k.nextrow = 127 then chunkEnd m x int r.1 else r.1
  let t := s.clk + lasts - 1
  let s := s.modCore core fun k =>
    { (k.modBank bank.toNat fun _ => b) with
      rowsAt := if k.rowsAt.1 = t then k.rowsAt else (t, k.nextc, k.nextrow)
      chunk := some (op, k.nextc)
      held := m
      rowFlags := if r.2 = 0 then k.rowFlags else k.rowFlags ++ [(t + 70, r.2)]
      nextrow := if k.nextrow = 127 then 0 else k.nextrow + 1
      nextc := if k.nextrow = 127 then k.nextc + 1 else k.nextc }
  if r.2 = 0 then s else s.post (lasts + 69) (.mmaRowStep core)

/-- Rows whose clk has come are written, and their flags raised (R143, R159). -/
def State.rowsWritten (s : State) (core : Nat) : State :=
  let k := s.core core
  let f := (k.rowFlags.filter fun x => decide (x.1 ≤ s.clk)).foldl (fun (f : BitVec 8) x => f ||| x.2) 0
  if f = 0 then s
  else (s.modCore core fun k => { k with rowFlags := k.rowFlags.filter fun x => !decide (x.1 ≤ s.clk) }).arrayFlags core f

/-- The row step that is due, and the next (R158, R159, R161). The next chunk's B is loaded in L clk from the clk after it is all present.
The number kept in line is 1 while that B is missing, or while a save holds the array at that boundary (R162). -/
def State.nextStep (s : State) (core : Nat) (o : MacroOp) : State :=
  let k := s.core core
  match o.kind with
  | .mma bank fa fb oa ob kc z stream =>
    let g := s.grid? o.grid
    let (r, l) := mmaClass g fa fb
    if k.nextc ≥ kc then s.rowsDone core o
    else if stream && !((rowLinesA (chunkOf g fa fb oa ob k.nextc) k.nextrow).all k.lineFull) then
      s.modMacro core o.id fun x => { x with waiting := true, line := 0 }
    else
      let row := k.nextrow
      let next := k.nextc + 1
      let s := s.stepRow core o.id bank fa fb oa ob g z (max 1 (r / 128))
      let left := r - rowClk r 127
      let stop := s.modMacro core o.id fun x => { x with waiting := true, line := 1 }
      if row < 127 then s.stepIn core (rowClk r (row + 1) - rowClk r row)
      else if next ≥ kc then s.stepIn core (left - 1)
      else if s.saving (coreQuad core) then stop.post 1 (.macroOperationStart core)
      else if !stream then s.stepIn core left
      else match o.since.find? fun x => x.1 = next with
        | some x => s.stepIn core (max left (x.2 + l + 1 - s.clk))
        | none => if s.mmaReady core o next then s.stepIn core (max left (l + 1)) else stop
  | _ => s

/-- mmaRowStep (R159): rows made 70 clk before are written, and a step that is due is made. -/
def execMmaRowStep (core : Nat) (s : State) : Host.Outcome State Fault Refusal :=
  let s := s.rowsWritten core
  let k := s.core core
  match k.stepDue, stepping k.queue with
  | some t, some o =>
    if t ≤ s.clk then .next ((s.modCore core fun k => { k with stepDue := none }).nextStep core o) else .next s
  | _, _ => .next s

/-- mmaComplete (R159): READERS is counted again without the operation, and a release that waits takes effect (R152). -/
def execMmaComplete (core : Nat) (s : State) : Host.Outcome State Fault Refusal :=
  match (s.core core).queue with
  | o :: rest =>
    if o.kind.isMma && o.stepsDone then
      let s := (s.opSlots o).foldl (fun (s : State) n =>
        let left := (rest.filter fun p => decide (n ∈ s.opSlots p)).length
        s.modCore core fun k =>
          let k := k.modSlot n fun x => { x with readers := left }
          if left = 0 && (k.slot n).releasing then k.freeSlot n else k) s
      .next (s.popMacro core)
    else .next s
  | [] => .next s

/-- mzeroComplete (R156): the kind that an mma with Z = 1 behind it has set stays (R157). -/
def execMzeroComplete (core : Nat) (s : State) : Host.Outcome State Fault Refusal :=
  match (s.core core).queue with
  | { kind := .zero bank int, grid := g, .. } :: rest =>
    .next ((s.modCore core fun k => k.modBank bank.toNat fun _ => { Bank.reset with int := kindIssued (s.grid? g) bank.toNat int rest }).popMacro core)
  | _ => .next s

/-! ### Checks -/

/-- An uncorrectable check (R168): the array writes nothing further, an error interrupt, and the node rolled back with its
arrays on the quad and its starter. -/
def State.checkFailed (s : State) (core : Nat) (o : MacroOp) : State :=
  let q := coreQuad core
  let s := s.recordUncorrectable o.part 2 none false
  let s := (List.range 4).foldl (fun (s : State) i =>
    if (s.core (quadCore q i)).queue.any fun x => x.node = o.node && x.part = o.part then s.killArray (quadCore q i) else s) s
  (s.rollback o.part o.node []).idleStarters [q] o.grid

/-- A correction is counted in MCORR and raises the correctable-error event (R168, R175). -/
def State.countCorrection (s : State) (core part : Nat) : State :=
  (s.modStarter (coreQuad core) fun k =>
    { k with mcorr := if k.mcorr.toNat % 65536 = 65535 then k.mcorr else k.mcorr + 1 }).correctable part 2

/-- An mchk that has made a correction marks its starter's word (R169). -/
def State.markCheck (s : State) (core id : Nat) : State :=
  s.modStarter (coreQuad core) fun k =>
    match k.wait with
    | .parked (.arrays _ 0 ids) =>
      if decide (id ∈ ids) then { k with mark := k.mark.map fun m => if m % 2 = 0 then m + 1 else m } else k
    | _ => k

/-- checkComplete (R167, R169, R172): after 140 clk, and 8 more when a correction is made, for which it comes a second time
with stepsDone set. -/
def execCheckComplete (core : Nat) (s : State) : Host.Outcome State Fault Refusal :=
  let k := s.core core
  let run := fun (o : MacroOp) (bank int : Bool) (done : State → State) =>
    match checkBank (k.bank bank.toNat) int with
    | .pass => done s
    | .bad => s.checkFailed core o
    | .corrected b =>
      if o.stepsDone then
        done (((s.modCore core fun k => k.modBank bank.toNat fun _ => b).countCorrection core o.part).markCheck core o.id)
      else (s.modMacro core o.id fun x => { x with stepsDone := true }).post 8 (.checkComplete core)
  match k.queue with
  | o :: _ =>
    match o.kind with
    | .check bank => .next (run o bank (k.bank bank.toNat).int fun s => s.popMacro core)
    | .drain bank int .. => .next (run o bank int fun s => s.post 1 (.drainLineWrite core 0))
    | _ => .next s
  | [] => .next s

/-! ### Drains -/

/-- The operands of a drain. -/
structure DrainJob where
  fo : List Word32
  fr : List Word32
  out : Nat
  res : Option Nat
  drop : Option (Nat × Dbl × Dbl)
  int : Bool
deriving DecidableEq, Repr

/-- An output field of a drain, and its flags (R172): element idx with its scales. -/
def DrainJob.field (d : DrainJob) (scratch : Memory) (b : Bank) (tile : Word32) (idx : Nat) (sa sb : FVal) :
    Nat × BitVec 8 :=
  let m := idx / 64
  let n := idx % 64
  let t := match (bankElem b d.int m n).times sa with | some v => v.times sb | none => none
  let y := (exactSum (t :: match d.res with | some r => [residualVal scratch d.fr r idx] | none => [])).round
  let v := match d.drop with
    | some (keep, key, org) =>
      let c := dropCoords org tile m n
      if dropHash key c.1 c.2 ≥ keep then 0 else y.1
    | none => y.1
  let o := cvtsEncode plainMode d.fo 0 v
  (o.1.toNat % 2 ^ tileBits (slotCode d.fo), (y.2 ||| o.2) &&& (flNV ||| flOF ||| flSAT))

/-- The elements of output line j. -/
def lineIdx (code j : Nat) : List Nat :=
  let per := 1024 / tileBits code
  (List.range per).map fun i => j * per + i

/-- A scale of a format slot for index i (R129): of the slot, or of its vector as the drain's load has read it. -/
def scaleVal (x : Option MemOp) (f : List Word32) (i : Nat) : FVal :=
  if slotSmode f = 0 then Ieee.f32.val (slotScale f).toNat
  else
    let a := scaleAddr f i
    match x with
    | some o => match o.lines.find? fun l => l.line = a / 128 with
      | some l => Ieee.f32.val (l.data.getD (a % 128 / 4) 0).toNat
      | none => .fin false 1 0
    | none => .fin false 1 0

/-- The scales of the rows of a line and of all columns (R172): 1.0 for a bank no mma has written. -/
def drainScales (x : Option MemOp) (g : Option Grid) (b : Bank) (rows : List Nat) : List FVal × List FVal :=
  match b.fmts, g with
  | some (fa, fb), some _ =>
    let f := gridSlot g fa
    let h := gridSlot g fb
    (rows.map fun m => scalePlanes f (scaleVal x f m), (List.range 64).map fun n => scalePlanes h (scaleVal x h n))
  | _, _ => (rows.map fun _ => .fin false 1 0, (List.range 64).map fun _ => .fin false 1 0)

/-- The residual lines that step j of a drain needs: line j, and those under the elements of output line j. -/
def residualLines (res codeR codeO j : Nat) (bytesO bytesR : Nat) : List Nat :=
  let mine := if 128 * j < bytesR then [res + j] else []
  if 128 * j < bytesO then
    mine ++ dedup ((lineIdx codeO j).map fun i => res + i * tileBits codeR / 1024)
  else mine

/-- The next step of a drain: its next line in the next clk, or its completion 20 clk after the last (R174). -/
def State.drainNext (s : State) (core j n : Nat) : State :=
  if j + 1 < n then s.post 1 (.drainLineWrite core (j + 1)) else s.post 20 (.drainComplete core)

/-- drainLineWrite (R172, R174). -/
def execDrainLineWrite (core line : Nat) (s : State) : Host.Outcome State Fault Refusal :=
  match (s.core core).queue with
  | o :: _ =>
    match o.kind with
    | .drain bank int fo fr out res keep resen drop _ key org =>
      let k := s.core core
      let g := s.grid? o.grid
      let base := (s.gridAlloc core o.grid).1
      let fO := gridSlot g fo
      let fR := gridSlot g fr
      let bo := tileBytes (slotCode fO)
      let br := if resen then tileBytes (slotCode fR) else 0
      let n := max bo br / 128
      let same := resen && out = res && bo = br
      let need := if resen && !same then residualLines (base / 128 + res) (slotCode fR) (slotCode fO) line bo br else []
      let x := s.ops.find? fun y => y.kind == .scale && y.a = o.id
      let missing := match x with | some y => y.lines.any fun l => l.isOpen | none => false
      if missing || need.any fun l => decide (l ∈ k.absent) then
        .next (s.modMacro core o.id fun x => { x with waiting := true, line := line })
      else if 128 * line ≥ bo then .next (s.drainNext core line n)
      else
        let b := k.bank bank.toNat
        let idx := lineIdx (slotCode fO) line
        let rows := dedup (idx.map fun i => i / 64)
        let (sa, sb) := drainScales x g b rows
        let d : DrainJob :=
          { fo := fO, fr := fR, out := base + 128 * out, res := if resen then some (base + 128 * res) else none,
            drop := if drop then some (keep, key, org) else none, int := int }
        let fields := idx.map fun i => d.field k.scratch b k.mtile i (sa.getD (i / 64 - rows.headD 0) (.fin false 1 0))
          (sb.getD (i % 64) (.fin false 1 0))
        let bytes := packFields (tileBits (slotCode fO)) (fields.map fun x => x.1)
        let flags := fields.foldl (fun (f : BitVec 8) x => f ||| x.2) 0
        let s := s.modCore core fun k => { k with scratch := k.scratch.setBytes (d.out + 128 * line) bytes }
        .next (((s.setPresent core [d.out / 128 + line]).arrayFlags core flags).drainNext core line n)
    | _ => .next s
  | [] => .next s

/-- drainComplete (R172, R174). -/
def execDrainComplete (core : Nat) (s : State) : Host.Outcome State Fault Refusal :=
  match (s.core core).queue with
  | { kind := .drain (bank := bank) (clr := clr) .., id := id, grid := g, .. } :: rest =>
    let s := { s with ops := s.ops.filter fun (o : MemOp) => !(o.kind == OpKind.scale && decide (o.a = id)) }
    let s := if clr then s.modCore core fun k => k.modBank bank.toNat fun _ => { Bank.reset with int := kindIssued (s.grid? g) bank.toNat false rest } else s
    .next (s.popMacro core)
  | _ => .next s

/-- slotScrubComplete (R178): the slot's 16 KiB are zero, no word is valid, and the slot is FREE. -/
def execSlotScrubComplete (core slot : Nat) (s : State) : Host.Outcome State Fault Refusal :=
  if ((s.core core).slot slot).state = .scrub then
    .next (s.modCore core fun k =>
      ({ k with opmem := k.opmem.clear (16384 * slot) 16384 }.clearValid slot).freeSlot slot)
  else .next s

end Sys2Proof.Machine
end

