-- ==== Sys2Proof/Machine/Pacer.lean ====
section
/-! DEFINITION. The pacer (R343 to R353): load, requests and grants, ballast, the credits of a clk, V/F steps, ramp slots and
pinned reserves. -/

namespace Sys2Proof.Machine

/-! ### Load -/

/-- Whether an array holds load (R343). -/
def Core.hasLoad (k : Core) : Bool := k.token != .none
/-- When an array's ballast began. -/
def Core.ballastSince (k : Core) : Option Nat := match k.token with | .ballast t => some t | _ => none
/-- The package load L (R343). -/
def State.load (s : State) : Nat := (s.cores.filter fun x => x.2.hasLoad).length
/-- Whether a core is in a partition. -/
def State.coreIn (s : State) (part c : Nat) : Bool := (s.corePart c).map (fun (p : Partition) => p.num) == some part
/-- The load of a partition (R343). -/
def State.partLoad (s : State) (part : Nat) : Nat :=
  (s.cores.filter fun x => x.2.hasLoad && s.coreIn part x.1).length
/-- The share of a partition (R343). -/
def State.share (s : State) (part : Nat) : Nat := kget 0 s.pacer.shares part

/-- The pacer changed. -/
def State.modPacer (s : State) (f : Pacer → Pacer) : State := { s with pacer := f s.pacer }

/-- The core of a request; a request for the reserve of grid g carries the number 1024 + g (R351). -/
def TokReq.reserveFor (r : TokReq) : Option Nat := if r.core ≥ 1024 then some (r.core - 1024) else none

/-- The head request of a partition: oldest, ties by ascending core index (R346). -/
def State.headReq (s : State) (part : Nat) : Option TokReq :=
  (sortBy (fun (r : TokReq) => r.arrived * 2 ^ 40 + r.core) (s.pacer.reqs.filter fun r => r.part = part)).head?

/-- The pinned grid whose operation a core's head is. -/
def State.pinOf (s : State) (core : Nat) : Option Nat :=
  match headOf (s.core core).queue with
  | some o => match s.grid? o.grid with | some g => if g.pin ≠ 0 then some g.id else none | none => none
  | none => none

/-- The ballast arrays of a partition that satisfy a condition on their reserve, oldest first, ties by core index. -/
def State.ballasts (s : State) (ok : Nat → Option Nat → Bool) : List (Nat × Nat) :=
  sortBy (fun (x : Nat × Nat) => x.1 * 1024 + x.2)
    (s.cores.filterMap fun x => match x.2.ballastSince with
      | some t => if ok x.1 x.2.pinned then some (t, x.1) else none
      | none => none)

/-- The ballast that moves to a requester (R346, R351): of its own grid's reserve first, else one in no reserve. -/
def State.donor (s : State) (part core : Nat) : Option Nat :=
  let own := match s.pinOf core with | some g => s.ballasts fun _ p => p = some g | none => []
  match own ++ s.ballasts (fun c p => p.isNone && s.coreIn part c) with
  | x :: _ => some x.2
  | [] => none

/-- A request is taken off and the requester's grant sent (R346); asked stays set until the grant arrives. -/
def State.serveReq (s : State) (r : TokReq) (pinned : Option Nat) : State :=
  (((s.modPacer fun p => { p with reqs := p.reqs.filter fun x => !(x == r) }).modCore r.core fun k =>
    { k with token := .work, pinned := pinned }).post 6 (.tokenGrant r.core))

/-- Whether something that arrived at a clk waits behind a V/F step that is being paid for (R348). -/
def State.behindStep (s : State) (arrived : Nat) : Bool :=
  match s.pacer.vf with | x :: _ => decide (x.arrived < arrived) | [] => false

/-- Head requests of a partition served by moving ballast, one after another (R346, step 1). -/
def State.serveMoves (part : Nat) : Nat → State → State
  | 0, s => s
  | n + 1, s =>
    match s.headReq part with
    | none => s
    | some r =>
      if r.reserveFor.isSome || s.behindStep r.arrived then s
      else match s.donor part r.core with
        | none => s
        | some d =>
          let pin := (s.core d).pinned
          State.serveMoves part n ((s.modCore d fun k => { k with token := .none, pinned := none }).serveReq r pin)

/-! ### Requests and grants -/

/-- tokenRequest (R346): a request reaches the central pacer. -/
def execTokenRequest (core : Nat) (s : State) : Host.Outcome State Fault Refusal :=
  if !(s.core core).asked then .next s
  else match s.corePart core with
    | none => .next s
    | some p =>
      .next ((s.modPacer fun x => { x with reqs := x.reqs ++ [{ core := core, part := p.num, arrived := s.clk }] }).post 0
        (.tokenServe p.num))

/-- tokenServe (R346): what moved ballast can serve is served at once; rises are made by the credit tick. -/
def execTokenServe (part : Nat) (s : State) : Host.Outcome State Fault Refusal :=
  .next (State.serveMoves part s.pacer.reqs.length s)

/-- tokenGrant (R346, R408): the array holds a token, and its operation may start in the clk after; an in-field test that waited for it
runs (R383). -/
def execTokenGrant (core : Nat) (s : State) : Host.Outcome State Fault Refusal :=
  if (s.core core).asked && (s.core core).token == .work then
    .next (((s.modCore core fun k => { k with asked := false }).runTest (coreQuad core)).poke core)
  else .next s

/-! ### Credits (R344) -/

/-- The core on which a reserve's next token runs as ballast (R351): the lowest with no load and an empty queue. -/
def State.reserveCore (s : State) (part : Nat) : Option Nat :=
  (s.partCores part).find? fun c => !(s.core c).hasLoad && (s.core c).queue.isEmpty

/-- The request for which a rise is due (R346, step 2), if there is one. -/
def State.riseReq (s : State) : Option TokReq :=
  let heads := s.parts.filterMap fun p =>
    match s.headReq p.num with
    | some r =>
      if decide (s.partLoad p.num < s.share p.num) && !s.behindStep r.arrived
          && (r.reserveFor.isNone || (s.reserveCore p.num).isSome) then some r
      else none
    | none => none
  if s.load < 768 then (sortBy (fun (r : TokReq) => r.arrived * 2 ^ 40 + r.core) heads).head? else none

/-- A request served by a rise of L. -/
def State.serveRise (s : State) (r : TokReq) : State :=
  match r.reserveFor with
  | none => s.serveReq r none
  | some g =>
    match s.reserveCore r.part with
    | none => s
    | some c =>
      ((s.modPacer fun p => { p with reqs := p.reqs.filter fun x => !(x == r) }).modCore c fun k =>
        { k with token := .ballast s.clk, pinned := some g }).post 1 (.pinnedReserveBuild r.part g)

/-- One change of a V/F step paid for; the step is taken with its last (R348). -/
def State.payStep (s : State) : State :=
  s.modPacer fun p => { p with vf := match p.vf with
    | x :: t => if x.left ≤ 1 then t else { x with left := x.left - 1 } :: t
    | [] => [] }

/-- A credit after a clk (R344): spent if a change was made, raised by RAMP, cut if no change was due. -/
def creditAfter (credit ramp : Nat) (due : Bool) : Nat :=
  let c := if due && decide (credit ≥ 1250) then credit - 1250 else credit
  if due then c + ramp else min 1250 (c + ramp)

/-- The rise of a clk. -/
def State.tickRise (s : State) : State :=
  let can := decide (s.pacer.rise ≥ 1250)
  let pay := fun (due : Bool) (t : State) => t.modPacer fun p => { p with rise := creditAfter s.pacer.rise p.ramp due }
  match s.riseReq with
  | some r => pay true (if can then s.serveRise r else s)
  | none =>
    match s.pacer.vf with
    | x :: _ => if x.up then pay true (if can then s.payStep else s) else pay false s
    | [] => pay false s

/-- The fall of a clk (R347). -/
def State.tickFall (s : State) : State :=
  let can := decide (s.pacer.fall ≥ 1250)
  let pay := fun (due : Bool) (t : State) => t.modPacer fun p => { p with fall := creditAfter s.pacer.fall p.ramp due }
  match (s.ballasts fun _ p => p.isNone).find? fun x => !s.behindStep x.1 with
  | some x => pay true (if can then s.modCore x.2 fun k => { k with token := .none } else s)
  | none =>
    match s.pacer.vf with
    | x :: _ => if x.up then pay false s else pay true (if can then s.payStep else s)
    | [] => pay false s

/-- The counters of a clk (R353). -/
def State.tickCount (s : State) : State :=
  let stall := s.pacer.reqs.filter fun r => r.reserveFor.isNone && s.headReady r.core
  let bal := s.cores.filterMap fun x => if x.2.ballastSince.isSome then (s.corePart x.1).map fun (p : Partition) => p.num
    else none
  s.modPacer fun p =>
    { p with
      stall := stall.foldl (fun l r => kset l r.part ((kget 0 l r.part + 1) % 2 ^ 64)) p.stall
      ballast := bal.foldl (fun l n => kset l n ((kget 0 l n + 1) % 2 ^ 64)) p.ballast }

/-- The Haled ports as a clk begins: one that has received nothing for 2 µs is down (R376). -/
def portsAt (clk : Nat) (l : List (Nat × Port)) : List (Nat × Port) :=
  l.map fun x => (x.1, { x.2 with down := x.2.down || decide (clk ≥ x.2.heard + 2500) })

/-- A patrol scrub reads a line of each stack: 2^29 lines of two sectors in 24 hours, one in 201,165 clk (R373), as a request that starts
at the controller; no core's bucket pays for it (log entry 60). -/
def State.patrolDue (s : State) : State :=
  let k := s.clk / 201165 % 2 ^ 29
  (List.range 8).foldl (fun (s : State) st =>
    let pa := (2 * st + k / 2 ^ 28) * 2 ^ 35 + k % 2 ^ 28 * 128
    let part := match s.sectorPart (paSector pa) with | some p => p.num | none => 0
    let o := bareOp s .patrol 4096 part 0 { func := 0, s1 := 0, s2 := 0 } 0 0 [{ lineReq (pa / 128) pa (some pa) [] with st := .serving }]
    (s.addOp o).post 0 (.hbmRequestArrival o.id (pa / 128))) s

/-- pacerCreditTick (R344): moves, one rise, one fall, the counters, and the next clk; a ramp slot begins each 1,250 clk, and a patrol
read falls due (R373). -/
def execPacerCreditTick (s : State) : Host.Outcome State Fault Refusal :=
  let s := s.parts.foldl (fun (s : State) p => State.serveMoves p.num s.pacer.reqs.length s) s
  let s := s.tickRise.tickFall.tickCount.modPacer fun p => { p with ramp := p.rampNext }
  let s : State := { s.ageFlags with clk := s.clk + 1, ports := portsAt (s.clk + 1) s.ports }
  let s := if s.clk % 201165 = 0 then s.patrolDue else s
  .next (if (s.clk - s.pacer.slotBase) % 1250 = 0 then s.post 0 .rampSlotStart else s)

/-- The arrays of a V/F island (R24, R348): compute islands 24d to 24d + 23 are the pairs of consecutive quads of die d (log entry 13);
islands 96 to 127 are those of the slices, the HBM controllers, the networks and the engines, and hold no array. -/
def islandCores (island : Nat) : List Nat :=
  if island < 96 then (List.range 8).map fun i => quadCore (2 * island + i / 4) (i % 4) else []

/-- vfStep (R348): H changes of L have to be paid for; with H = 0 the step costs nothing. -/
def State.askStep (s : State) (island : Nat) (up : Bool) : State :=
  let h := ((islandCores island).filter fun c => (s.core c).hasLoad).length
  if h = 0 then s
  else s.modPacer fun p => { p with vf := p.vf ++ [{ island := island, up := up, left := h, arrived := s.clk }] }
def execVfStep (island : Nat) (up : Bool) (s : State) : Host.Outcome State Fault Refusal := .next (s.askStep island up)

/-! ### Ramp slots and reserves (R349, R351) -/

/-- rampSlotStart (R349): the slot's costs begin at 0, and waiting waves may open. -/
def execRampSlotStart (s : State) : Host.Outcome State Fault Refusal :=
  let s := s.modPacer fun p => { p with slotNow := (s.clk - p.slotBase) / 1250, costs := [] }
  .next (s.parts.foldl (fun (s : State) p => s.post 0 (.batonPlacement p.num)) s)

/-- The tokens of a pinned grid's reserve (R351). -/
def State.reserveCount (s : State) (grid : Nat) : Nat := (s.cores.filter fun x => x.2.pinned = some grid && x.2.hasLoad).length

/-- pinnedReserveBuild (R351): the next token of a reserve is asked for; a complete one lets the first wave take its slot. -/
def execPinnedReserveBuild (part grid : Nat) (s : State) : Host.Outcome State Fault Refusal :=
  match s.grid? grid with
  | none => .next s
  | some g =>
    if s.reserveCount grid ≥ g.pin then .next (s.placeSoon part)
    else if s.pacer.reqs.any fun r => r.core = 1024 + grid then .next s
    else .next (s.modPacer fun p => { p with reqs := p.reqs ++ [{ core := 1024 + grid, part := part, arrived := s.clk }] })

/-- The reserve of a grid that ends becomes ordinary ballast (R351). -/
def State.dropReserve (s : State) (grid : Nat) : State :=
  let s := { s with cores := s.cores.map fun (x : Nat × Core) =>
      (x.1, if x.2.pinned = some grid then { x.2 with pinned := none } else x.2) }
  s.modPacer fun p => { p with reqs := p.reqs.filter fun r => r.core ≠ 1024 + grid }

end Sys2Proof.Machine
end

