-- ==== Sys2Proof/Machine/Spawn.lean ====
section
/-! DEFINITION. The task words spawn, done, tbfull, tbempty, tbwait and heatid (R297 to R301), chkpt (R222), and the events of
spawns, join counters and waiters (R299, R300, R312). -/

namespace Sys2Proof.Machine

/-! ### Memory as the hub and the dispatcher read it -/

/-- n consecutive words of memory by a translation of their addresses. -/
def State.wordsBy (s : State) (at_ : Nat → Nat ⊕ (Nat × Nat)) (va : Nat) : Nat → List Word32 ⊕ (Nat × Nat × Nat)
  | 0 => .inl []
  | n + 1 =>
    match s.wordsBy at_ va n with
    | .inr e => .inr e
    | .inl l => match at_ (va + 4 * n) with
      | .inl pa => .inl (l ++ [s.homeWord pa])
      | .inr (st, page) => .inr (va + 4 * n, st, page)

/-- n consecutive words of generic memory, and of a queue's for the command complex. -/
def State.readWords (s : State) (core : Nat) (c : Ctx) (va n : Nat) : List Word32 ⊕ (Nat × Nat × Nat) :=
  s.wordsBy (fun a => s.translate core c a 0) va n
def State.hubWords (s : State) (core : Nat) (c : Ctx) (va n : Nat) : List Word32 ⊕ (Nat × Nat × Nat) :=
  s.wordsBy (fun a => s.hubAddr core c a 0) va n

/-- Address and byte length of an overlay of a grid's kernel (R287). -/
def State.overlayOf (s : State) (core : Nat) (g : Grid) (n : Nat) : (Nat × Nat) ⊕ (Nat × Nat × Nat) :=
  match s.readWords core g.ctx (g.kernel + 16 * n) 3 with
  | .inl [lo, hi, len] => .inl ((hi ++ lo).toNat, len.toNat)
  | .inl _ => .inl (0, 0)
  | .inr e => .inr e

/-! ### spawn -/

/-- The conditions of a baton: kind and index, in condition order, kind 0 left out (R298). -/
def condsOf (cond : Dbl) : List (Nat × Nat) :=
  ((List.range 4).map fun i => (natBits cond.toNat (16 * i + 15) (16 * i + 14), natBits cond.toNat (16 * i + 13) (16 * i))).filter
    fun x => x.1 ≠ 0

/-- Whether two conditions name one index. -/
def condsClash (l : List (Nat × Nat)) : Bool := decide ((dedup (l.map fun x => x.2)).length < l.length)

/-- The virtual address of a condition's tile buffer (R298). -/
def Grid.bufferAddr (g : Grid) (index : Nat) : Nat := g.tbbase + 32 * index

/-- ENTRY and OVL of a code word (R298). -/
def codeEntry (code : Dbl) : Nat := natBits code.toNat 15 0
def codeOvl (code : Dbl) : Nat := natBits code.toNat 23 16

/-- A join-counter address that is accepted (R289, R298): 0, or canonical and a multiple of 4; else its cause. -/
def waitjCause (waitj : Dbl) : Option Nat :=
  if waitj = 0 then none else if waitj.toNat % 4 ≠ 0 then some 1 else if !canonical waitj.toNat then some 2 else none

/-- What names the next baton that a crew spawns in paired mode (R246): the crew, and its count, which goes on. -/
def State.spawnKey (s : State) (w : Wg) (crew : Nat) : Nat × Nat :=
  (w.hcore * w.crews.length + crew, match w.crew? crew with | some c => if s.isPaired w.id then c.seq else 0 | none => 0)
def State.spawnCounted (s : State) (w : Wg) (crew : Nat) : State :=
  if s.isPaired w.id then s.modWg w.id fun x => x.modCrew crew fun c => { c with seq := c.seq + 1 } else s

/-- spawn (R298): the checks at issue, then the baton travels to the dispatcher for 40 clk. -/
def execSpawn (g : BitVec 3) (w : Bool) (d : BitVec 5) (a : BitVec 7) (b : BitVec 7) (s : State) :
    Host.Outcome State Fault Refusal :=
  withGroup s fun is wg =>
    if active is wg g = [] then s.retire is wg.id
    else
      let r := fun (i : Nat) => uniS is wg (a.toNat - 64 + i)
      let conds := condsOf (r 3)
      match s.grid? wg.grid with
      | none => s.retire is wg.id
      | some gr =>
        if natBits (r 0).toNat 63 24 ≠ 0 ∨ codeEntry (r 0) % 12 ≠ 0 ∨ condsClash conds then
          s.trapHere is wg.id (trapping is wg g) .illop
        else if codeOvl (r 0) > gr.novl then s.memFaultOnce is wg g .memfault 3 false (r 0).toNat
        else if conds.any fun x => decide (x.2 ≥ gr.tbcount) then s.memFaultOnce is wg g .memfault 3 false (r 3).toNat
        else if (match s.overlayOf wg.core gr (codeOvl (r 0)) with
            | .inl x => decide (codeEntry (r 0) ≥ x.2)
            | .inr _ => false) then s.memFaultOnce is wg g .memfault 3 false (r 0).toNat
        else match waitjCause (r 2) with
          | some c => s.memFaultOnce is wg g .memfault c false (r 2).toNat
          | none =>
            let o := { onceOp s is wg g .spawn 0 with
              lines := [], sdst := some d.toNat, wb := !w, a := (r 0).toNat, b := (r 1).toNat, c := (r 2).toNat,
              n := (r 3).toNat, m := (uniSrc s is wg b.toNat).toNat % 2 ^ 32, ranges := [s.spawnKey wg (wg.crewOf (is.threads.headD 0))] }
            ((((s.addOp o).spawnCounted wg (wg.crewOf (is.threads.headD 0))).post (40 + s.comparator wg.part) (.spawnEntry o.id)).retire is
              wg.id)

/-- The ring entries in use of a queue of a partition (R290). -/
def State.ringUsed (s : State) (part queue : Nat) : Nat :=
  (s.batons.filter fun b => b.part = part && b.ring
    && (match s.grid? b.grid with | some g => g.queue = queue | none => false)).length

/-- The position that a spawned baton takes in the ring of a queue: the lowest that no waiting baton holds (log entry 81). -/
def State.ringPlaceOf (s : State) (part queue : Nat) : Nat :=
  let used := (s.batons.filter fun b => b.part = part && b.ring
    && (match s.grid? b.grid with | some g => g.queue = queue | none => false)).map fun b => b.ringAt
  ((List.range (used.length + 1)).find? fun n => !decide (n ∈ used)).getD 0

/-- The sixteen words of a baton's ring entry (R290). -/
def Baton.entry (b : Baton) : List Word32 :=
  let d := fun (x : Dbl) => [x.extractLsb' 0 32, x.extractLsb' 32 32]
  d b.code ++ d b.frame ++ d b.waitj ++ d b.cond
    ++ [BitVec.ofNat 32 b.node, (match b.spnode with | some n => BitVec.ofNat 32 n | none => 0xFFFFFFFF), BitVec.ofNat 32 b.wg,
        BitVec.ofNat 32 (b.resumable.toNat + b.rewritten.toNat * 2), BitVec.ofNat 32 b.grid, 0, 0, 0]

/-- A baton's entry written at its position in the ring of its queue, in partition memory (R290). -/
def State.writeEntry (s : State) (b : Baton) : State :=
  match s.part? b.part, s.grid? b.grid with
  | some p, some g =>
    let at_ := p.bqbase + 64 * (g.queue * p.bqcap + b.ringAt)
    ((List.range 16).zip b.entry).foldl (fun (s : State) x => s.setHome (at_ + 4 * x.1) x.2) s
  | _, _ => s

/-- The taints of a node that a spawn of another node would leave (R299). -/
def State.spawnTaints (s : State) (part own node : Nat) : List Nat :=
  let old := match s.node? part node with | some n => n.taints | none => []
  if node ≠ own && (s.node? part own).isSome then dedup (old ++ [own]) else old

/-- The status of a spawn (R299), in the table's order. -/
def State.spawnResult (s : State) (part own node : Nat) (g : Grid) : Nat :=
  let cap := match s.part? part with | some p => p.bqcap | none => 0
  if s.ringUsed part g.queue ≥ cap then 1
  else if (match s.node? part node with | some n => decide (n.live = 0) | none => false) then 2
  else if (s.node? part node).isNone && decide ((s.nodes.filter fun n => n.part = part).length ≥ 4096) then 3
  else if node ≠ own ∧ (s.spawnTaints part own node).length > 4 then 4
  else 0

/-- One more baton of a node, which becomes live with it (R304). -/
def State.addLive (s : State) (part node n : Nat) (taints : List Nat) : State :=
  match s.node? part node with
  | some _ => s.modNode part node fun x => { x with live := x.live + n, taints := taints }
  | none =>
    let x : Node := { part := part, num := node, live := n, taints := taints, finished := none, aborts := [] }
    { s with nodes := s.nodes ++ [x] }

/-- The name of a spawned baton: its spawner's, and what names it among the spawner's. -/
def State.spawnName (s : State) (w : Wg) (o : MemOp) : List Nat :=
  (match s.baton? w.baton with | some b => b.name | none => []) ++ o.ranges.flatMap fun x => [x.1, x.2]

/-- spawnEntry (R299): the baton is queued or refused; the status reaches the core 40 clk later (R312). -/
def execSpawnEntry (op : Nat) (s : State) : Host.Outcome State Fault Refusal :=
  match s.op? op with
  | none => .next s
  | some o =>
    match s.wg? o.wg with
    | none => .next s
    | some w =>
      match s.grid? w.grid with
      | none => .next s
      | some g =>
        let st := s.spawnResult w.part w.node o.m g
        let s' := s.post 40 (.spawnStatus op st)
        if st ≠ 0 then .next s'
        else
          let b : Baton :=
            { id := s.ids, part := w.part, grid := g.id, code := BitVec.ofNat 64 o.a, frame := BitVec.ofNat 64 o.b,
              waitj := BitVec.ofNat 64 o.c, cond := BitVec.ofNat 64 o.n, node := o.m, spnode := some w.node,
              spawner := some w.baton, wg := w.index, resumable := false, rewritten := false, ring := true,
              ringAt := s.ringPlaceOf w.part g.queue, st := .queued,
              woken := decide (o.c = 0), level := 0, eligible := none, pageWait := none, kills := [], filled := [],
              consumed := [], waits := none, name := s.spawnName w o, starts := 0, place := [] }
          let s := ({ s' with batons := s'.batons ++ [b] }.takeId).writeEntry b
          let s := s.addLive w.part o.m 1 (s.spawnTaints w.part w.node o.m)
          .next (if o.c = 0 then s.placeSoon w.part else s.post 40 (.waiterRegistration w.part b.id))

/-- spawnStatus (R299): s_D takes the status. -/
def execSpawnStatus (op status : Nat) (s : State) : Host.Outcome State Fault Refusal :=
  match s.op? op with
  | none => .next s
  | some o => .next ((s.opWriteS o (BitVec.ofNat 64 status)).opEnded o.core o.wg)

/-! ### Join counters -/

/-- done (R300): one lane acts for the group, deduplicated as an atomic is. -/
def execDone (g : BitVec 3) (w : Bool) (d : BitVec 5) (a : BitVec 7) (s : State) : Host.Outcome State Fault Refusal :=
  withGroup s fun is wg =>
    match active is wg g with
    | [] => s.retire is wg.id
    | act =>
      updateWord s is wg g .done (act.map fun t => laneAcc t (uniSrc s is wg a.toNat).toNat 0 0) none (some d.toNat) (!w) []

/-- The baton or unexpanded grid that waits on a counter is woken (R300). -/
def State.wakeWaiter (s : State) (w : Waiter) : State :=
  (s.modBaton w.baton fun b => { b with woken := true }).modGrid w.baton fun g => { g with woken := true }

/-- joinWake (R300): the dispatcher learns that a counter has reached 0; it wakes the waiters that this was told for. -/
def execJoinWake (part counter : Nat) (s : State) : Host.Outcome State Fault Refusal :=
  let told := fun (w : Waiter) => w.pa = counter && w.part = part && (match w.due with | some t => decide (t ≤ s.clk) | none => false)
  let s' := (s.waiters.filter told).foldl (fun (s : State) w => s.wakeWaiter w) s
  .next ({ s' with waiters := s'.waiters.filter fun w => !told w }.placeSoon part)

/-- The core through whose walker the dispatcher and the command complex translate for a partition. -/
def State.hubCore (s : State) (part : Nat) : Nat := (s.partCores part).headD 0

/-- waiterRegistration (R300, R312): a waiter is registered at its counter's slice; a counter that holds 0 wakes it. A page
that is missing is asked for, and the registration comes again. -/
def execWaiterRegistration (part baton : Nat) (s : State) : Host.Outcome State Fault Refusal :=
  let who := match s.baton? baton with
    | some b => (match s.grid? b.grid with | some g => some (g.ctx, b.waitj) | none => none)
    | none => (s.grid? baton).map fun (g : Grid) => (g.ctx, g.waitj)
  match who with
  | none => .next s
  | some (c, waitj) =>
    let core := s.hubCore part
    match s.translate core c waitj.toNat 0 with
    | .inr (st, page) => .next ((s.pageFor core c 0 st page).2.post 20 (.waiterRegistration part baton))
    | .inl pa =>
      let w : Waiter := { pa := pa, part := part, baton := baton, due := if s.homeWord pa = 0 then some (s.clk + 40) else none }
      let s := { s with waiters := (s.waiters.filter fun x => x.baton ≠ baton) ++ [w] }
      .next (if s.homeWord pa = 0 then (s.joinTaints w).post 40 (.joinWake part pa) else s)

/-! ### Tile buffers -/

/-- A starter's tile-buffer word (R301): the address checked and translated, then f on the buffer. A page that is missing is
walked for while the starter stalls; its failure takes MEMFAULT. -/
def starterBuffer (s : State) (is : Issue) (q : Nat) (k : Starter) (g : BitVec 3) (a : BitVec 7)
    (f : State → SyncObj → State) : State :=
  if !guardOn k.p g then s.starterRetire is q
  else
    let ea := (starterSrc s is q k a.toNat).toNat
    let bad := fun (s : State) (cause : Nat) =>
      (s.modStarter q fun k => { k with mfinfo := mfinfoOf cause false, mfaddr := BitVec.ofNat 64 ea, mflanes := 0 }).starterTrapHere
        is q .memfault
    let core := quadCore q 0
    match s.starterGrid k with
    | none => s.starterRetire is q
    | some gr =>
      if objAddrBad ea then bad s 14
      else match (match k.mark with | some m => s.op? m | none => none) with
        | some { fail := some cause, id := id, .. } => bad (s.dropOp id) cause
        | _ =>
          match s.translate core gr.ctx ea 0 with
          | .inl pa =>
            match s.obj? pa with
            | some o => if o.tile then f s o else bad s 14
            | none => bad s 14
          | .inr _ =>
            let o := bareOp s (.acq true) core gr.part gr.node gr.ctx ea 0 []
            ((s.addOp o).startWalk core gr.ctx ea 0 (.range o.id (ea / 4096))).starterPark is q (.opEnd o.id) (some o.id)

/-- tbfull (R301): a release, then FULL; in a starter VER is stepped and FULL set. -/
def execTbfull (g : BitVec 3) (a : BitVec 7) (s : State) : Host.Outcome State Fault Refusal :=
  withEither s (fun is w => s.objectSend is w g a (.rel true))
    (fun is q k => starterBuffer s is q k g a fun s o =>
      ((s.modObj o.pa fun o => { o with ver := o.ver + 1 }).setFull o.pa true).starterRetire is q)

/-- tbempty (R301). -/
def execTbempty (g : BitVec 3) (a : BitVec 7) (s : State) : Host.Outcome State Fault Refusal :=
  withEither s (fun is w => s.objectSend is w g a .empty)
    (fun is q k => starterBuffer s is q k g a fun s o => (s.setFull o.pa false).starterRetire is q)

/-- tbwait (R301): the threads park until FULL, then acquire. -/
def execTbwait (g : BitVec 3) (a : BitVec 7) (s : State) : Host.Outcome State Fault Refusal :=
  match s.cur with
  | some { who := .starter _, .. } =>
    withStarter s fun is q k => starterBuffer s is q k g a fun s o =>
      if o.full then s.starterRetire is q else s.starterPark is q (.full o.pa) none
  | _ =>
    regionWord s g (.acq true) (fun w is => s.objectStep w (uniSrc s is w a.toNat).toNat)
      (fun is w m pa _ =>
        match m with
        | some o => s.park is w.id (.opEnd o.id)
        | none =>
          match s.obj? pa with
          | some o =>
            if !o.tile then s.memFaultOnce is w g .memfault 14 false (uniSrc s is w a.toNat).toNat
            else if o.full then s.objectSend is w g a (.acq true)
            else s.park is w.id (.full pa)
          | none => s.memFaultOnce is w g .memfault 14 false (uniSrc s is w a.toNat).toNat)

/-! ### heatid -/

/-- heatid (R297). -/
def execHeatid (g : BitVec 3) (w : Bool) (d : BitVec 5) (a : BitVec 7) (s : State) : Host.Outcome State Fault Refusal :=
  withGroup s fun is wg =>
    if active is wg g = [] then s.retire is wg.id
    else
      let h := (uniSrc s is wg a.toNat).toNat
      let cols := match wg.heat, s.grid? wg.grid with | some _, some gr => gr.hcols | _, _ => 1
      let rows := match wg.heat, s.grid? wg.grid with | some _, some gr => gr.hrows | _, _ => 1
      if h ≥ cols * rows then s.memFaultOnce is wg g .memfault 3 false h
      else
        let core := match (s.together wg).find? fun x => x.hcore = h with | some x => x.core | none => wg.core
        let v := h + h % cols * 2 ^ 5 + h / cols * 2 ^ 9 + (cols - 1) * 2 ^ 13 + (rows - 1) * 2 ^ 17
          + (s.coreid core).toNat * 2 ^ 32
        s.finish is wg { s := if w then [] else (activeCrews is wg g).map fun c => (c, d.toNat, BitVec.ofNat 64 v) } 1

/-! ### chkpt -/

/-- chkpt (R222): the threads park with a and s_n kept; once the checkpoint has been made they go on. -/
def execChkpt (g : BitVec 3) (n : BitVec 5) (a : BitVec 7) (s : State) : Host.Outcome State Fault Refusal :=
  withGroup s fun is w =>
    if active is w g = [] then s.retire is w.id
    else
      let again := match issueMark is w with | some m => s.op? m | none => none
      match again with
      | some o => if o.phase = 1 then (s.dropOp o.id).retire is w.id else s.park is w.id .checkpoint
      | none =>
        let code := (uniSrc s is w a.toNat).toNat
        if (s.goodTarget w.core is.addr.frame (codeTarget (BitVec.ofNat 64 code) 16)).isNone then
          s.trapHere is w.id (trapping is w g) .illop
        else
          let o := { onceOp s is w g .chkpt 0 with lines := [], a := code, b := (uniS is w n.toNat).toNat }
          (s.addOp o).parkMark is w.id .checkpoint o.id

/-- The operations of a workgroup's checkpoint in progress, of its heat. -/
def State.chkptOps (s : State) (w : Wg) : List MemOp :=
  s.ops.filter fun o => o.kind == .chkpt && (s.together w).any fun x => x.id = o.wg

/-- Whether a checkpoint is to be made: every live thread is parked for it with one address, and the node has no taints. -/
def State.chkptReady (s : State) (w : Wg) : Bool :=
  let ops := s.chkptOps w
  ops.all (fun o => o.phase = 0 && o.a = (ops.map fun x => x.a).headD 0)
    && crewsParked (s.together w) .checkpoint (fun _ _ => false)
    && (match s.node? w.part w.node with | some n => n.taints.isEmpty | none => true)

/-- The clk in which the last of the workgroups' threads parked for a checkpoint, if the checkpoint is made in the next; else that in
which it is made, the node having had taints until then (R222, R224). -/
def State.chkptFrom (s : State) (w : Wg) : Nat :=
  let last := (s.together w).foldl (fun n x => x.threads.foldl (fun n t => if t.wait == .parked .checkpoint then max n t.since else n) n) 0
  if last + 1 = s.clk then last else s.clk

/-- The checkpoint itself (R222): the node's records in the logs of the workgroup's cores are committed, the baton is rewritten with the s_n
of the crew that parked first (the rule names no crew; log entry 91), and the crews go on 60 clk later (R224), their words issuing again in
the clk before. In paired mode the rewritten baton has another name, and its crews' counts begin anew (R246). -/
def State.checkpoint (s : State) (w : Wg) : State :=
  match s.chkptOps w with
  | [] => s
  | o :: _ =>
    let cores := dedup ((s.together w).map fun x => x.core)
    let ovl := (s.frameOvl w.core o.addr.frame).toNat
    let due := s.chkptFrom w + 59
    let s := (s.commitRecords cores w.part w.node).startCompaction cores w.node
    let s := s.modBaton w.baton fun b =>
      { b with code := BitVec.ofNat 64 (o.a + ovl * 65536), frame := BitVec.ofNat 64 o.b, cond := 0, rewritten := true, name := b.name ++ [0] }
    let s := (s.together w).foldl (fun (s : State) x =>
      s.modWg x.id fun y => { y with crews := y.crews.map fun c => { c with seq := 0 } }) s
    let ids := (s.chkptOps w).map fun x => x.id
    ids.foldl (fun (s : State) i => s.modOp i fun x => { x with phase := 1, since := due }) s

end Sys2Proof.Machine
end

