-- ==== Sys2Proof/Machine/Placing.lean ====
section
/-! DEFINITION. The dispatcher (R290 to R296, R302 to R308, R349): room, candidates and their order, waves, heats, the start and
the finish of batons, starters begun, and time slices. -/

namespace Sys2Proof.Machine

/-! ### Room (R292) -/

/-- Threads of a workgroup of a grid. -/
def Grid.threads (g : Grid) : Nat := g.crews * g.width

/-- Batons placed on a core and not yet started, with their grids and places. -/
def State.placedOn (s : State) (core : Nat) : List (Grid × Nat × Nat) :=
  s.batons.flatMap fun b =>
    if b.st == .placed then
      match s.grid? b.grid with
      | some g => (b.place.filter fun x => x.1 = core).map fun x => (g, x.2.1, x.2.2)
      | none => []
    else []

/-- The workgroups resident on a core. -/
def State.onCore (s : State) (core : Nat) : List Wg := s.wgs.filter fun w => w.core = core

/-- A sum over a list. -/
def sumOf {α : Type} (f : α → Nat) (l : List α) : Nat := l.foldl (fun n x => n + f x) 0

/-- Free threads and register words of a core, of 2,048 and 65,536 (R24). -/
def State.freeThreads (s : State) (core : Nat) : Nat :=
  2048 - (sumOf (fun (w : Wg) => w.threads.length) (s.onCore core)
    + sumOf (fun (x : Grid × Nat × Nat) => x.1.threads) (s.placedOn core))
def State.freeRegs (s : State) (core : Nat) : Nat :=
  65536 - (sumOf (fun (w : Wg) => w.threads.length * w.nregs) (s.onCore core)
    + sumOf (fun (x : Grid × Nat × Nat) => x.1.threads * x.1.nregs) (s.placedOn core))

/-- Scratchpad ranges in use on a core, but for one that its own grid has kept. -/
def State.scratchUsed (s : State) (core grid : Nat) : List (Nat × Nat) :=
  ((s.onCore core).map fun w => (w.scratchBase, w.scratchBytes))
    ++ ((s.placedOn core).map fun x => (x.2.1, x.1.scratch))
    ++ (((s.core core).kept.filter fun x => x.1 ≠ grid).map fun x => (x.2.1, x.2.2))

/-- The base a new allocation takes: the grid's kept one, else the lowest that fits in one piece (log entry 14). -/
def State.scratchBase (s : State) (core grid bytes : Nat) : Option Nat :=
  let used := s.scratchUsed core grid
  let fits := fun (a : Nat) => decide (a + bytes ≤ 262144) && used.all fun u => u.2 = 0 || decide (a + bytes ≤ u.1)
    || decide (u.1 + u.2 ≤ a)
  let mine := ((s.core core).kept.filter fun x => x.1 = grid && x.2.2 = bytes).map fun x => x.2.1
  (mine ++ sortBy (fun a => a) (0 :: used.map fun u => u.1 + u.2)).find? fits

/-- The contexts saved for a baton. -/
def State.contextsOf (s : State) (baton : Nat) : List (Nat × SavedCtx) :=
  s.quads.flatMap fun (x : Nat × Quad) => (x.2.shadow.filter fun c => c.baton = baton).map fun c => (x.1, c)

/-- The saved workgroups of a baton, in heat core order. -/
def State.savedWgs (s : State) (baton : Nat) : List Wg :=
  sortBy (fun (w : Wg) => w.hcore) ((s.contextsOf baton).flatMap fun c => c.2.wgs)

/-- Whether a live thread of a workgroup stands in a frame. -/
def Wg.standsIn (w : Wg) (f : Nat) : Bool := w.threads.any fun t => !t.exited && t.pc.frame.toNat = f

/-- Whether a baton placed on a core and not yet started claims a frame: the frame it is to start in, or one that a thread it is to
resume stands in; the claims of one baton are left out. -/
def State.frameClaimed (s : State) (core f : Nat) (but : Option Nat) : Bool :=
  s.batons.any fun b =>
    b.st == .placed && some b.id ≠ but &&
      match s.savedWgs b.id with
      | [] => b.place.any fun x => x.1 = core && x.2.2 = f
      | ws => (ws.zip b.place).any fun x => x.2.1 = core && x.1.standsIn f

/-- Whether a frame holds the program counter of a resident thread, is claimed by a baton about to start, or is being filled by an
overlay load. -/
def State.frameHeld (s : State) (core f : Nat) (but : Option Nat) : Bool :=
  ((s.onCore core).any fun w => w.standsIn f) || s.frameClaimed core f but
    || (s.words.any fun e => e.kind == .ovl && e.core = core && e.ctl % 2 = f && natBit e.ctl 63)

/-- The same, or an overlay load waits for it. -/
def State.frameBusy (s : State) (core f : Nat) (but : Option Nat) : Bool :=
  s.frameHeld core f but || (s.words.any fun e => e.kind == .ovl && e.core = core && e.ctl % 2 = f)

/-- Whether a frame of a core holds an overlay of a kernel, or the dispatcher loads it there (R292). -/
def State.frameGets (s : State) (core f kernel ovl : Nat) : Bool :=
  match (s.core core).frames[f]? with | some x => x.ovl = some (kernel, ovl) | none => false
/-- Whether it holds it already. -/
def State.frameHas (s : State) (core f kernel ovl : Nat) : Bool := (s.frame core (f = 1)).ovl = some (kernel, ovl)

/-- Whether an overlay load waits for a frame or fills it. -/
def State.frameAsked (s : State) (core f : Nat) : Bool := s.words.any fun e => e.kind == .ovl && e.core = core && e.ctl % 2 = f

/-- The frame that a baton's overlay takes on a core, and whether it has to be loaded or is still being loaded for another baton; a
frame that another overlay load is to fill is not one that holds it (R65, R292). -/
def State.frameFor (s : State) (core : Nat) (g : Grid) (ovl : Nat) : Option (Nat × Bool) :=
  if s.frameGets core 0 g.kernel ovl && !s.frameAsked core 0 then some (0, !s.frameHas core 0 g.kernel ovl)
  else if s.frameGets core 1 g.kernel ovl && !s.frameAsked core 1 then some (1, !s.frameHas core 1 g.kernel ovl)
  else if !s.frameBusy core 0 none then some (0, true)
  else if !s.frameBusy core 1 none then some (1, true)
  else none

/-- Whether a quad takes batons: no test due or under way, not blocked or failed (R383). -/
def Quad.open (q : Quad) : Bool := q.testDue.isNone && !q.testing && !q.blocked && !q.failed

/-- Whether a quad's starter suits a grid (R292, R294). -/
def State.starterFits (s : State) (q : Nat) (g : Grid) : Bool :=
  g.starter = 0 ||
    ((match (s.starter q).run with | some (x, _) => decide (x = g.id) | none => true) && (s.starter q).stopped.isNone
      && (List.range 4).all fun i => (s.placedOn (quadCore q i)).all fun x => x.1.starter = 0 || x.1.id = g.id)

/-- Whether a core may take a workgroup of a grid at all: its quad is open and, in paired mode, a primary (R384); no heat and
no other grid's reservation has it (R295). -/
def State.coreOpen (s : State) (core : Nat) (g : Grid) : Bool :=
  let q := coreQuad core
  (s.quad q).open && s.starterFits q g
    && (!(s.relPart g.part).paired || q % 2 = 0)
    && !((s.onCore core).any fun w => w.heat.isSome) && !((s.placedOn core).any fun x => x.1.hcols ≠ 0)
    && (match s.part? g.part with
      | some { reserve := some (r, cores), .. } => r = g.id || !decide (core ∈ cores)
      | _ => true)

/-- What a core offers a workgroup of a grid with an overlay: base, frame, whether the overlay has to be loaded. -/
def State.roomOn (s : State) (core : Nat) (g : Grid) (ovl : Nat) : Option (Nat × Nat × Bool) :=
  if s.coreOpen core g && decide (g.threads ≤ s.freeThreads core) && decide (g.threads * g.nregs ≤ s.freeRegs core) then
    match s.scratchBase core g.id g.scratch, s.frameFor core g ovl with
    | some b, some (f, load) => some (b, f, load)
    | _, _ => none
  else none

/-- The core that a workgroup is placed on (R292): most free threads, then an overlay already there, then lowest index. -/
def State.bestCore (s : State) (part : Nat) (room : Nat → Option (Nat × Nat × Bool)) : Option (Nat × Nat × Nat × Bool) :=
  (s.partCores part).foldl (fun best c =>
    match room c with
    | none => best
    | some (b, f, load) =>
      match best with
      | none => some (c, b, f, load)
      | some (d, _, _, l) =>
        let x := s.freeThreads c
        let y := s.freeThreads d
        if x > y ∨ (x = y ∧ l ∧ !load) then some (c, b, f, load) else best) none

/-! ### Heats (R295) -/

/-- The cores of a rectangle, in heat core order (R296). -/
def rectCores (die row col rows cols : Nat) : List Nat :=
  (List.range (rows * cols)).map fun i => coreIndex die (row + i / cols) (col + i % cols)

/-- The rectangles of a heat in scan order: dies from the preferred one, rows, then columns, both even. -/
def heatRects (g : Grid) : List (List Nat) :=
  let first := g.die - 1
  (List.range 4).flatMap fun i =>
    (List.range 8).flatMap fun r =>
      (List.range 6).filterMap fun c =>
        if 2 * r + g.hrows ≤ 16 ∧ 2 * c + g.hcols ≤ 12 then
          some (rectCores ((first + i) % 4) (2 * r) (2 * c) g.hrows g.hcols)
        else none

/-- Whether a rectangle lies in a partition. -/
def State.rectInside (s : State) (part : Nat) (cores : List Nat) : Bool := cores.all fun c => s.coreIn part c

/-- The places of a heat: the reserved rectangle, or the first one of empty cores with room. -/
def State.heatPlace (s : State) (g : Grid) (room : Nat → Nat → Option (Nat × Nat × Bool)) :
    Option (List (Nat × Nat × Nat × Bool)) :=
  let rects := match s.part? g.part with
    | some { reserve := some (r, cores), .. } => if r = g.id then [cores] else heatRects g
    | _ => heatRects g
  rects.findSome? fun cores =>
    if s.rectInside g.part cores && cores.all fun c => (s.onCore c).isEmpty && (s.placedOn c).isEmpty then
      let places := ((List.range cores.length).zip cores).filterMap fun x => (room x.1 x.2).map fun r => (x.2, r)
      if places.length = cores.length then some places else none
    else none

/-! ### Overlay loads -/

/-- The clk a line read takes on the engine path from a quad (R280). -/
def State.readTime (s : State) (core pa : Nat) : Nat :=
  let h := paSlice pa
  (if coreDie core = sliceDie h then 79 else 159) + (if decide (pa / 128 ∈ (s.slice h).lines) then 0 else 220)

/-- The code of an overlay and the clk its copy takes (R280), or the address that could not be translated. -/
def State.overlayCode (s : State) (core : Nat) (g : Grid) (ovl : Nat) : (List Word32 × Nat) ⊕ (Nat × Nat × Nat) :=
  match s.overlayOf core g ovl with
  | .inr e => .inr e
  | .inl (va, len) =>
    let pages := (List.range ((len + 127) / 128)).map fun j => (va + 128 * j, s.translate core g.ctx (va + 128 * j) 2)
    match pages.find? fun x => match x.2 with | .inr _ => true | .inl _ => false with
    | some (a, .inr (st, page)) => .inr (a, st, page)
    | _ =>
      let pas := pages.map fun x => match x.2 with | .inl pa => pa | .inr _ => 0
      let words := (pas.flatMap fun pa => (List.range 32).map fun k => s.homeWord (pa + 4 * k)).take (len / 4)
      let last := ((List.range pas.length).zip pas).foldl (fun n x => max n (x.1 + s.readTime core x.2)) 0
      .inl (words, last + 4)

/-- An overlay stands in a frame of a core. -/
def State.setFrame (s : State) (core f : Nat) (x : Frame) : State :=
  s.modCore core fun k => { k with frames := k.frames.set f x }

/-- The overlays of a placement loaded where they have to be, from 4 clk after the choice, and the clk until the last of them is there,
loaded for this baton or for one placed before it; or the page that is missing (R292). -/
def State.loadPlaces (s : State) (g : Grid) (ovl : Nat) :
    List (Nat × Nat × Nat × Bool) → Nat → (State × Nat) ⊕ (Nat × Nat × Nat)
  | [], d => .inl (s, d)
  | (c, _, f, load) :: t, d =>
    if !load then s.loadPlaces g ovl t d
    else if s.frameGets c f g.kernel ovl then
      s.loadPlaces g ovl t (max d ((((s.core c).frames[f]?).getD Frame.reset).ready - s.clk))
    else match s.overlayCode c g ovl with
      | .inr e => .inr e
      | .inl (code, n) =>
        State.loadPlaces (s.setFrame c f { ovl := some (g.kernel, ovl), code := code, ready := s.clk + 4 + n }) g ovl t (max d (4 + n))

/-! ### Candidates (R291, R302) -/

/-- A candidate: a baton, or the next initial baton of a grid. -/
inductive Cand where
  | baton (b : Baton)
  | initial (g : Grid)
deriving DecidableEq, Repr

/-- The buffers of a list of conditions, each with its kind; none while one cannot be translated. -/
def State.buffers (s : State) (g : Grid) (cond : Dbl) : Option (List (Nat × Nat)) :=
  let l := (condsOf cond).map fun x => (x.1, s.translate (s.hubCore g.part) g.ctx (g.bufferAddr x.2) 0)
  if l.all fun x => match x.2 with | .inl _ => true | .inr _ => false then
    some (l.map fun x => (x.1, match x.2 with | .inl pa => pa | .inr _ => 0))
  else none

/-- Whether buffers allow a start (R302); a baton's own claim does not stand in its way. -/
def State.buffersOk (s : State) (l : List (Nat × Nat)) (self : Option Nat) : Bool :=
  l.all fun x => match s.obj? x.2 with
    | some o =>
      if !o.tile then false
      else if x.1 = 3 then !o.full && (o.claimed.isNone || o.claimed = self) else o.full
    | none => false

/-- The taints of a baton that acquires its inputs (R215, R302). -/
def State.startTaints (s : State) (part node : Nat) (l : List (Nat × Nat)) : List Nat :=
  let own := match s.node? part node with | some n => n.taints | none => []
  dedup (own ++ (l.filter fun x => x.1 ≠ 3).flatMap fun x =>
    match s.obj? x.2 with | some o => s.producers o node | none => [])

/-- Whether a queued baton's or grid's conditions hold (R302). -/
def State.condsHold (s : State) (g : Grid) (node : Nat) (cond : Dbl) (woken : Bool) : Bool :=
  woken && (match s.buffers g cond with
    | some l => s.buffersOk l none && decide ((s.startTaints g.part node l).length ≤ 4)
    | none => false)

/-- Whether a candidate is eligible. -/
def State.eligible (s : State) (c : Cand) : Bool :=
  match c with
  | .baton b =>
    match s.grid? b.grid with
    | none => false
    | some g =>
      b.pageWait.isNone && (match b.st with
        | .queued => s.condsHold g b.node b.cond (b.woken || b.waitj = 0)
        | .vacated => true
        | _ => false)
  | .initial g =>
    decide (g.nextWg < g.count) && s.condsHold g g.node g.cond (g.woken || g.waitj = 0)
      && (g.pin = 0 || decide (g.nextWg > 0) || decide (s.reserveCount g.id ≥ g.pin))

/-- A candidate's placement level (R291). -/
def State.levelOf (s : State) (c : Cand) : Nat :=
  match c with
  | .baton b => min 7 ((match s.grid? b.grid with | some g => g.queue | none => 0) + b.level)
  | .initial g => min 7 (g.queue + g.level)

/-- Since when a candidate has been eligible, as the dispatcher has noted it. -/
def Cand.since (c : Cand) : Option Nat := match c with | .baton b => b.eligible | .initial g => g.waiting

/-- Whether a core may be chosen for a candidate: 10 clk after it has become eligible (R312). -/
def State.ready (s : State) (c : Cand) : Bool := match c.since with | some t => decide (t + 10 ≤ s.clk) | none => false

/-- The queued batons and the grids of a partition as candidates. -/
def State.allCands (s : State) (part : Nat) : List Cand :=
  ((s.batons.filter fun b => b.part = part).map Cand.baton) ++ ((s.grids.filter fun g => g.part = part).map Cand.initial)

/-- The candidates of a partition whose function is not frozen or being reset, in the order they are placed (R291). -/
def State.candidates (s : State) (part : Nat) : List Cand :=
  let off := match s.part? part with | some p => (s.func p.func).frozen || (s.func p.func).resetting | none => true
  if off then []
  else
      sortBy (fun c => (7 - s.levelOf c) * 3 + (match c with
      | .baton b => if b.st == .vacated then 0 else 1
      | .initial _ => 2)) ((s.allCands part).filter fun c => s.eligible c)

/-! ### Waves (R349) -/

/-- The cost of placing on cores: 4 for each quad whose starter begins the grid with it: no baton of the grid that is about to start
there, or has started and waits for its starter's code, will have begun it. -/
def State.waveCost (s : State) (g : Grid) (cores : List Nat) : Nat :=
  let begins := fun (q : Nat) => s.agenda.any fun e => match e.2 with
    | .starterBegin x wg => x = q && (match s.wg? wg with | some w => decide (w.grid = g.id) | none => false)
    | _ => false
  if g.starter = 0 then 0
  else 4 * ((dedup (cores.map coreQuad)).filter fun q => (s.starter q).run.isNone && !begins q
    && (List.range 4).all fun i => (s.placedOn (quadCore q i)).all fun x => x.1.id ≠ g.id).length

/-- The cores a wave holds at most (R350). -/
def Grid.waveMax (g : Grid) : Nat := if g.wave = 0 then 64 else 4 * g.wave

/-- The cost placed in the current slot. -/
def State.slotCost (s : State) : Nat := kget 0 s.pacer.costs s.pacer.slotNow

/-- Whether a grid's wave takes cores in the current slot, cost apart: it is open or may open, and has room. -/
def State.waveRoom (s : State) (g : Grid) (n : Nat) : Bool :=
  let opened := g.waveSlot = some s.pacer.slotNow
  let used := if opened then g.waveCores else 0
  g.waveShut ≠ some s.pacer.slotNow && (opened || decide (s.slotCost < 48)) && (used = 0 || decide (used + n ≤ g.waveMax))

/-- Whether a placement would carry the slot's cost above 48: it is not made in the slot, and its baton passes to the grid's next
wave. -/
def State.waveOver (s : State) (g : Grid) (cores : List Nat) : Bool := decide (s.slotCost + s.waveCost g cores > 48)

/-- An initial baton's placement counted in its wave and slot. -/
def State.chargeWave (s : State) (g : Grid) (cores : List Nat) : State :=
  let opened := g.waveSlot = some s.pacer.slotNow
  let cost := s.slotCost + s.waveCost g cores
  let s := s.modPacer fun p =>
    { p with costs := kset p.costs p.slotNow cost
             waves := if opened then p.waves else kset p.waves g.part (kget 0 p.waves g.part + 1) }
  s.modGrid g.id fun x =>
    { x with waveSlot := some s.pacer.slotNow, waveCores := (if opened then x.waveCores else 0) + cores.length,
             nextWg := x.nextWg + 1, placedAt := s.clk, level := 0 }

/-! ### Resumed contexts -/

/-- The frames saved for a workgroup's core. -/
def State.savedFrames (s : State) (baton core : Nat) : List Frame :=
  ((s.contextsOf baton).flatMap fun c => (c.2.frames.filter fun f => f.1 = core).flatMap fun f => f.2)

/-- Whether a core's frames suit a saved workgroup: each frame one of its threads stands in holds the same overlay, or is
free for it (log entry 83). -/
def State.framesFit (s : State) (core : Nat) (w : Wg) (saved : List Frame) : Bool :=
  (List.range 2).all fun f =>
    !w.standsIn f || !s.frameHeld core f (some w.baton)
      || (match (s.core core).frames[f]?, saved[f]? with | some a, some b => a.ovl = b.ovl | _, _ => false)

/-- What a core offers a saved workgroup (R311): room and frames; with a saved starter, the same place in an idle quad. -/
def State.resumeRoom (s : State) (g : Grid) (w : Wg) (withStarter : Bool) (core : Nat) : Option (Nat × Nat × Bool) :=
  if s.coreOpen core g && decide (g.threads ≤ s.freeThreads core) && decide (g.threads * g.nregs ≤ s.freeRegs core)
      && s.framesFit core w (s.savedFrames w.baton w.core)
      && (!withStarter || ((s.starter (coreQuad core)).run.isNone && coreArray core = coreArray w.core)) then
    (s.scratchBase core g.id g.scratch).map fun b => (b, 0, false)
  else none

/-! ### Placement -/

/-- The clk that the next context takes through a shadow store's port (R340). -/
def State.portClk (s : State) : Nat := Config.portClk s.free % 29001

/-- A baton placed: its cores are taken, and it starts or resumes after a time. -/
def State.place (s : State) (b : Baton) (places : List (Nat × Nat × Nat × Bool)) (delay : Nat) (resume : Bool) : State :=
  let cores := places.map fun x => x.1
  let s := s.modBaton b.id fun x =>
    { x with st := .placed, starts := s.clk + delay, place := places.map fun y => (y.1, y.2.1, y.2.2.1), eligible := none, level := 0 }
  let s := s.modPart b.part fun p => match p.reserve with
    | some (g, _) => if g = b.grid then { p with reserve := none } else p
    | none => p
  s.post delay (if resume then .batonResume b.part b.id cores else .batonStart b.part b.id cores)

/-- The places a baton of a grid would take. -/
def State.findPlaces (s : State) (g : Grid) (ovl : Nat) : Option (List (Nat × Nat × Nat × Bool)) :=
  if g.hcols = 0 then (s.bestCore g.part fun c => s.roomOn c g ovl).map fun x => [x]
  else s.heatPlace g fun _ c => s.roomOn c g ovl

/-- The next initial baton of a grid, formed (R290). -/
def Grid.form (g : Grid) (id : Nat) : Baton :=
  { id := id, part := g.part, grid := g.id, code := 0, frame := g.args, waitj := g.waitj, cond := g.cond, node := g.node,
    spnode := none, spawner := none, wg := g.nextWg, resumable := false, rewritten := false, ring := false, ringAt := 0, st := .queued,
    woken := true, level := 0, eligible := none, pageWait := none, kills := [], filled := [], consumed := [], waits := none,
    name := [g.id, g.nextWg], starts := 0, place := [] }

/-- The room that a candidate finds (R291 to R295, R311): its cores, with what each offers. -/
def State.candPlaces (s : State) (c : Cand) : Option (List (Nat × Nat × Nat × Bool)) :=
  match c with
  | .initial g => s.findPlaces g 0
  | .baton b =>
    match s.grid? b.grid with
    | none => none
    | some g =>
      if b.st == .vacated then
        let ws := s.savedWgs b.id
        let starter := (s.contextsOf b.id).any fun x => x.2.starter.isSome
        let room := fun (i : Nat) (c : Nat) => match ws[i]? with | some w => s.resumeRoom g w starter c | none => none
        if g.hcols = 0 then (s.bestCore g.part (room 0)).map fun x => [x] else s.heatPlace g room
      else s.findPlaces g (codeOvl b.code)

/-- A candidate placed, if it finds room: none when it does not; one that its slot's cost turns away closes the grid's wave (R349). -/
def State.tryPlace (s : State) (c : Cand) : Option State :=
  match s.candPlaces c with
  | none => none
  | some places =>
    match c with
    | .initial g =>
      let cores := places.map fun x => x.1
      if !s.waveRoom g cores.length then none
      else if s.waveOver g cores then some (s.modGrid g.id fun x => { x with waveShut := some s.pacer.slotNow })
      else match s.loadPlaces g 0 places 0 with
        | .inr _ => none
        | .inl (s', d) =>
          let b := g.form s'.ids
          some ((({ s' with batons := s'.batons ++ [b] }.takeId).chargeWave g cores).place b places (d + 60) false)
    | .baton b =>
      if b.st == .vacated then
        let spilled := (s.contextsOf b.id).any fun x => x.2.spilled.isSome
        some (s.takeFree.place b places ((if spilled then 60 + 24576 else 60) + s.portClk) true)
      else match s.grid? b.grid with
        | none => none
        | some g =>
          match s.loadPlaces g (codeOvl b.code) places 0 with
          | .inr _ => none
          | .inl (s', d) => some (s'.place b places (d + 60) false)

/-- Candidates placed one after another while one finds room. -/
def State.placeAll (part : Nat) : Nat → State → State
  | 0, s => s
  | n + 1, s =>
    match ((s.candidates part).filter s.ready).findSome? s.tryPlace with
    | some s' => State.placeAll part n s'
    | none => s

/-- The pages missing for a candidate's overlay or buffers are asked for (R199). -/
def State.askPages (s : State) (c : Cand) : State :=
  let go := fun (g : Grid) (ovl : Nat) (cond : Dbl) =>
    let core := s.hubCore g.part
    let s := (condsOf cond).foldl (fun (s : State) x => match s.translate core g.ctx (g.bufferAddr x.2) 0 with
      | .inr (st, page) => (s.pageFor core g.ctx 0 st page).2
      | .inl _ => s) s
    match s.overlayCode core g ovl with
    | .inr (_, st, page) => (s.pageFor core g.ctx 2 st page).2
    | .inl _ => s
  match c with
  | .initial g => if g.nextWg < g.count then go g 0 g.cond else s
  | .baton b => if b.st == .queued then (match s.grid? b.grid with | some g => go g (codeOvl b.code) b.cond | none => s) else s

/-- A candidate noted as eligible from now, or no longer; one that has become eligible is looked at 10 clk later (R312). -/
def State.noteEligible (s : State) (part : Nat) (c : Cand) : State :=
  let on := s.eligible c
  let set := fun (t : Option Nat) => match c with
    | .baton b => s.modBaton b.id fun x => { x with eligible := t }
    | .initial g => s.modGrid g.id fun x => { x with waiting := t }
  match on, c.since with
  | true, none => (set (some s.clk)).post 10 (.batonPlacement part)
  | false, some _ => set none
  | _, _ => s

/-- The clk from which a candidate's waiting is counted (R291): it became eligible, or its grid last placed a baton. -/
def Cand.from_ (c : Cand) : Option Nat :=
  match c with
  | .baton b => b.eligible
  | .initial g => g.waiting.map fun t => max t g.placedAt

/-- A candidate that found no room waits on: its level rises after each 1,000 µs that it has waited (R291), and a heat's
reservation falls due after HEATWAIT µs (R295). A µs is 1,250 clk. -/
def State.noteWaiting (s : State) (c : Cand) : State :=
  let go := fun (id : Nat) (g : Grid) (since : Nat) =>
    let timed := s.agenda.any fun e => e.2 == .placementLevelAging g.part id && e.1 > s.clk && (e.1 - since) % 1250000 = 0
    let s := if timed then s else s.post (since + ((s.clk - since) / 1250000 + 1) * 1250000 - s.clk) (.placementLevelAging g.part id)
    let t := since + g.heatwait * 1250
    let held : Bool := match s.part? g.part with | some { reserve := some (x, _), .. } => decide (x = g.id) || decide (t ≤ s.clk) | _ => false
    if g.hcols = 0 ∨ g.heatwait = 0 ∨ held ∨ s.agenda.any (fun e => e.2 == .heatReservation g.part g.id && e.1 = max t s.clk) then s
    else s.post (t - s.clk) (.heatReservation g.part g.id)
  match c, c.from_ with
  | .initial g, some t => go g.id g t
  | .baton b, some t => match s.grid? b.grid with | some g => go b.id g t | none => s
  | _, none => s

/-- batonPlacement (R291, R292). -/
def execBatonPlacement (part : Nat) (s : State) : Host.Outcome State Fault Refusal :=
  let s := (s.allCands part).foldl (fun (s : State) c => s.askPages c) s
  let s := (s.allCands part).foldl (fun (s : State) c => s.noteEligible part c) s
  let s := State.placeAll part 1024 s.startTests
  .next (((s.candidates part).filter s.ready).foldl (fun (s : State) c => s.noteWaiting c) s)

/-- placementLevelAging (R291): a candidate, a baton or a grid by its number, gains a level, up to 7. -/
def execPlacementLevelAging (part baton : Nat) (s : State) : Host.Outcome State Fault Refusal :=
  let due := fun (t : Option Nat) => match t with | some t => decide (s.clk > t) && (s.clk - t) % 1250000 = 0 | none => false
  let again := fun (s : State) => (s.post 1250000 (.placementLevelAging part baton)).placeSoon part
  match s.baton? baton with
  | some b =>
    if due (Cand.baton b).from_ then .next (again (s.modBaton baton fun x => { x with level := min 7 (x.level + 1) })) else .next s
  | none =>
    match s.grid? baton with
    | some g =>
      if due (Cand.initial g).from_ then .next (again (s.modGrid baton fun x => { x with level := min 7 (x.level + 1) })) else .next s
    | none => .next s

/-- heatReservation (R295): the first rectangle in scan order that lies in the partition is reserved for a heat that has waited
HEATWAIT; while another reservation stands, the heat waits for it. -/
def execHeatReservation (part grid : Nat) (s : State) : Host.Outcome State Fault Refusal :=
  match s.grid? grid, s.part? part with
  | some g, some p =>
    let late := fun (c : Cand) => match c.from_ with | some t => decide (t + g.heatwait * 1250 ≤ s.clk) | none => false
    let waits := late (.initial g) || s.batons.any fun b => b.grid = grid && late (.baton b)
    if !waits || p.reserve.isSome then .next s
    else match (heatRects g).find? fun r => s.rectInside part r with
      | some r => .next ((s.modPart part fun p => { p with reserve := some (grid, r) }).placeSoon part)
      | none => .next s
  | _, _ => .next s

/-! ### Start (R293, R294, R302) -/

/-- A thread as a baton starts (R293). -/
def freshThread (clk nregs : Nat) (pc : Pc) : Thread :=
  { pc := pc, exited := false, wait := .ready, p := 0, v := List.replicate nregs 0, latches := [], rstack := [],
    since := clk, stalled := false, notBefore := clk, mark := none, notes := [] }

/-- The lowest workgroup slot of a core that is free. -/
def State.freeWgSlot (s : State) (core : Nat) : Nat :=
  ((List.range 2048).find? fun n => !((s.onCore core).any fun w => w.slot = n)).getD 2048

/-- A workgroup begins a baton on a core (R293): its allocation is present throughout (R188). -/
def State.beginWg (s : State) (b : Baton) (g : Grid) (core base frame hcore : Nat) (heat : Option Nat) : State :=
  let pc := pcOf (frame = 1) (codeEntry b.code)
  let crew := { Crew.reset with members := laneMask g.width }.setS 30 b.frame
  let w : Wg :=
    { id := s.ids, core := core, slot := s.freeWgSlot core, part := g.part, grid := g.id, baton := b.id, index := b.wg,
      node := b.node, heat := heat, hcore := hcore, width := g.width, nregs := g.nregs, scratchBase := base,
      scratchBytes := g.scratch, ctx := g.ctx, threads := List.replicate g.threads (freshThread s.clk g.nregs pc),
      crews := List.replicate g.crews crew, pend := [], written := [], remain := g.slice, debt := 0, due := none, started := s.clk,
      served := s.clk, stopped := none, collCount := [], barCount := [], collFailed := false, begun := s.clk,
      evict := false, saving := none }
  let s := { s with wgs := s.wgs ++ [w] }.takeId
  let s := s.setPresent core ((List.range (g.scratch / 128)).map fun i => base / 128 + i)
  let s := if g.starter ≠ 0 ∧ (s.starter (coreQuad core)).run.isNone then s.post 0 (.starterBegin (coreQuad core) w.id) else s
  if g.slice ≠ 0 ∧ hcore = 0 then s.post (g.slice * 1250) (.timeSliceExpiry w.id) else s

/-- Inputs acquired at package scope into every core a baton starts on (R302); none when an acquire table has no place. -/
def State.acquireInputs (s : State) (l : List (Nat × Nat)) (wg : Nat) : List Nat → Option State
  | [] => some s
  | c :: t =>
    match (l.filter fun x => x.1 ≠ 3).foldl (fun (st : Option State) x =>
        match st with
        | none => none
        | some s =>
          match s.obj? x.2 with
          | none => some s
          | some o =>
            match s.acqFill (s.core c).acq o.pa o.ver wg with
            | none => none
            | some (tbl, gone) =>
              let more := match gone with | some g => (match s.obj? g with | some b => b.ranges | none => []) | none => []
              some ((s.dropView c (o.ranges ++ more)).modCore c fun k => { k with acq := tbl })) (some s) with
    | none => none
    | some s => s.acquireInputs l wg t

/-- A start that fails: its claims are dropped and the baton waits again (R302). -/
def State.startFails (s : State) (b : Baton) : State :=
  ((s.dropClaims b.id).modBaton b.id fun x => { x with st := .queued, place := [] }).placeSoon b.part

/-- Whether the frames that a baton was placed with hold its overlay still (R65). -/
def State.framesReady (s : State) (b : Baton) (g : Grid) : Bool :=
  b.place.all fun x => s.frameHas x.1 x.2.2 g.kernel (codeOvl b.code)

/-- batonStart (R293, R302): all or nothing; the result buffers claimed, the inputs acquired, the crews begun. -/
def execBatonStart (part baton : Nat) (cores : List Nat) (s : State) : Host.Outcome State Fault Refusal :=
  match s.baton? baton with
  | none => .next s
  | some b =>
    match b.st, s.grid? b.grid with
    | .placed, some g =>
      if s.clk < b.starts then .next s
      else match s.buffers g b.cond with
      | none => .next (s.startFails b)
      | some l =>
        let taints := s.startTaints part b.node l
        if !s.buffersOk l (some baton) || decide (taints.length > 4) || !s.framesReady b g then .next (s.startFails b)
        else
          let claim := fun (s : State) (x : Nat × Nat) =>
            if x.1 = 3 then s.modObj x.2 fun o => { o with claimed := some baton } else s
          let s' := l.foldl claim s
          match s'.acquireInputs l s.ids cores with
          | none => .next (s'.post 1 (.batonStart part baton cores))
          | some s' =>
            let s' := s'.modNode part b.node fun n => { n with taints := taints }
            let heat := if g.hcols = 0 then none else some baton
            let s' := ((List.range b.place.length).zip b.place).foldl (fun (s : State) x =>
              s.beginWg b g x.2.1 x.2.2.1 x.2.2.2 x.1 heat) s'
            .next (s'.modBaton baton fun x => { x with st := .running, ring := false, place := [], filled := [], consumed := [] })
    | _, _ => .next s

/-- starterBegin (R294): an idle starter begins a grid's code, of 32 KiB from STARTER, at offset 0 (log entry 47). The code is read
with R permission (log entry 72). A page that is missing is asked for, and the beginning comes again; code outside the granted memory
freezes the starter (R378). -/
def execStarterBegin (quad wg : Nat) (s : State) : Host.Outcome State Fault Refusal :=
  match s.wg? wg with
  | none => .next s
  | some w =>
    match s.grid? w.grid with
    | none => .next s
    | some g =>
      if (s.starter quad).run.isSome || g.starter = 0 then .next s
      else if (s.starter quad).frozen then .next (s.post 20 (.starterBegin quad wg))
      else match s.readWords w.core g.ctx g.starter 8192 with
        | .inr (_, 3, _) => .next ((s.violate 1 g.ctx.func w.core 127 (.starter quad)).post 20 (.starterBegin quad wg))
        | .inr (_, st, page) => .next ((s.pageFor w.core g.ctx 0 st page).2.post 20 (.starterBegin quad wg))
        | .inl code =>
          let s := (List.range 4).foldl (fun (s : State) i => s.modCore (quadCore quad i) fun k => { k with mtile := 0 }) s
          let first := if w.heat.isSome then s.wgs.find? fun x => x.heat = w.heat && x.core = quadCore quad 0 else none
          .next (s.modStarter quad fun _ =>
            { Starter.reset with
              run := some (g.id, wg), kwg := w.index, knode := w.node, kheat := (first.map fun x => x.hcore).getD 0, code := code,
              s := Starter.reset.s.set 30 g.args, notBefore := s.clk })

/-! ### Finish (R303) -/

/-- The result buffers and consumed inputs of a baton that finishes, in condition order: a release and FULL, or EMPTY; none
when a release has to come again. -/
def State.finishBuffers (s : State) (b : Baton) (core : Nat) (failed : Bool) : List (Nat × Nat) → Option State
  | [] => some s
  | (k, pa) :: t =>
    if k = 3 then
      if failed then (s.modObj pa fun o => { o with claimed := none }).finishBuffers b core failed t
      else match s.obj? pa with
        | none => s.finishBuffers b core failed t
        | some o =>
          match publish o core (s.log core).head (s.log core).tail with
          | none => none
          | some o' =>
            let s := (s.modObj pa fun _ => { o' with claimed := none, full := true }).settlePubs
            (s.modBaton b.id fun x => { x with filled := x.filled ++ [pa] }).finishBuffers b core failed t
    else if k = 2 then
      ((s.setFull pa false).modBaton b.id fun x => { x with consumed := x.consumed ++ [pa] }).finishBuffers b core failed t
    else s.finishBuffers b core failed t

/-- A workgroup that ends leaves its core. -/
def State.endWg (s : State) (w : Wg) : State :=
  let s := s.keepAlloc w
  State.preemptDone { s with
    wgs := s.wgs.filter fun x => x.id ≠ w.id
    flits := s.flits.filter fun f => f.wg ≠ w.id
    runs := s.runs.filter fun r => r.who ≠ .group w.id }

/-- batonFinish (R303): buffers, the live count, the cores freed. A release waits for the log buffer to drain (R214) and
comes again when the buffer's publication list is full. -/
def execBatonFinish (part baton : Nat) (s : State) : Host.Outcome State Fault Refusal :=
  match s.baton? baton with
  | none => .next s
  | some b =>
    match sortBy (fun (w : Wg) => w.hcore) (s.wgs.filter fun w => w.baton = baton), s.grid? b.grid with
    | w :: ws, some g =>
      if !s.batonOver w then .next s
      else
        let core := w.core
        let bufs := (s.buffers g b.cond).getD []
        if bufs.any (fun x => x.1 = 3) && decide ((s.log core).drained < (s.log core).tail) then
          .next (s.post 1 (.batonFinish part baton))
        else match s.finishBuffers b core ((w :: ws).any fun x => x.collFailed) bufs with
          | none => .next (s.post 64 (.batonFinish part baton))
          | some s =>
            let s := (w :: ws).foldl (fun (s : State) x => s.endWg x) s
            let s := s.modBaton baton fun x => { x with st := .finished }
            let s := s.modNode part b.node fun n => { n with live := n.live - 1, finished := some s.clk }
            .next ((s.commitDue part b.node).placeSoon part)
    | _, _ => .next s

/-! ### Time slices (R307, R308) -/

/-- Whether a thread is parked at a safe point (R308). -/
def Thread.safe (t : Thread) : Bool :=
  !t.exited && match t.wait with
    | .parked (.settled ..) | .parked (.full _) | .parked (.rxFlit _) | .parked (.episode _) | .parked (.object ..)
    | .parked .checkpoint => true
    | _ => false

/-- Crews of a workgroup that stand at a safe point, or have exited, are vacated when the workgroup is due. -/
def State.vacateSafe (s : State) (w : Wg) : State :=
  (List.range w.crews.length).foldl (fun (s : State) c =>
    if (w.live c).any fun t => match w.thread? t with | some x => x.safe | none => false then s.post 0 (.crewVacate w.id c)
    else s) s

/-- Whether an eligible candidate of a level or a higher one waits in a partition and finds no room (R308); one that waits for its
ramp slot alone has room. -/
def State.someoneWaits (s : State) (part level : Nat) : Bool :=
  (s.candidates part).any fun c => decide (s.levelOf c ≥ level) && s.ready c && (s.candPlaces c).isNone

/-- timeSliceExpiry (R308): REMAIN has reached 0; the workgroup is due, or its slice reloads. A heat is taken whole. -/
def execTimeSliceExpiry (wg : Nat) (s : State) : Host.Outcome State Fault Refusal :=
  match s.wg? wg with
  | none => .next s
  | some w =>
    let g := s.grid? w.grid
    let slice := match g with | some g => g.slice | none => 0
    if decide (s.clk < w.started + w.remain * 1250) || w.due.isSome || w.evict || slice = 0 then .next s
    else if s.someoneWaits w.part (match g with | some g => g.queue | none => 0) then
      let ws := s.together w
      let s := ws.foldl (fun (s : State) x => s.modWg x.id fun y => { y with due := some s.clk }) s
      .next (ws.foldl (fun (s : State) x => s.vacateSafe x) s)
    else
      let s := (s.together w).foldl (fun (s : State) x => s.modWg x.id fun y => { y with started := s.clk, remain := slice }) s
      .next (s.post (slice * 1250) (.timeSliceExpiry wg))

/-- TSLICE of a workgroup (R307): whole µs left, and DEBT saturating. -/
def State.tslice (s : State) (w : Wg) : Word32 :=
  BitVec.ofNat 32 ((w.remain - (s.clk - w.started) / 1250) % 65536 + min w.debt 65535 * 65536)

end Sys2Proof.Machine
end

