-- ==== Sys2Proof/Machine/Context.lean ====
section
/-! DEFINITION. Contexts (R339, R340): crews vacated at safe points and boundaries (R308, R309), the save into a shadow
store, spills (R310), resumption (R311), and spatial pre-emption (R309). -/

namespace Sys2Proof.Machine

/-! ### Which workgroups leave together -/

/-- The quads whose starter runs the grid of some of given workgroups. -/
def State.runQuads (s : State) (ws : List Wg) : List Nat :=
  dedup ((ws.filter fun w => match (s.starter (coreQuad w.core)).run with | some (g, _) => decide (g = w.grid) | none => false).map
    fun w => coreQuad w.core)

/-- Workgroups without repeats. -/
def dedupWgs (l : List Wg) : List Wg := l.foldl (fun acc w => if acc.any fun x => x.id = w.id then acc else acc ++ [w]) []

/-- One round of growing a set of victims (R309): heats whole, and every workgroup on a quad whose starter runs the grid of one. -/
def State.growVictims (s : State) (ws : List Wg) : List Wg :=
  let qs := s.runQuads ws
  let more := s.wgs.filter fun w => decide (coreQuad w.core ∈ qs)
  dedupWgs ((ws ++ more).flatMap fun w => s.together w)

/-- The victims that go with a workgroup in a spatial pre-emption, by enough rounds to reach every one. -/
def State.victimsWith (s : State) : Nat → List Wg → List Wg
  | 0, ws => ws
  | n + 1, ws =>
    let more := s.growVictims ws
    if more.length = ws.length then ws else s.victimsWith n more

/-- The workgroups that are saved at once with one that leaves: victims of a pre-emption all together, those of an ended
slice by themselves or with their heat. -/
def State.leaving (s : State) (w : Wg) : List Wg :=
  if w.evict then (s.victimsWith s.wgs.length [w]).filter fun x => x.evict else s.together w

/-! ### What a vacate waits for -/

/-- Whether an operation asked for a walk. -/
def Asker.isOp (a : Asker) (op : Nat) : Bool :=
  match a with
  | .line o _ => o = op
  | .range o _ => o = op
  | _ => false

/-- Whether an operation waits for a translation (R203, R245). -/
def State.inTranslation (s : State) (op : Nat) : Bool :=
  (s.walks ++ s.pageReqs.flatMap fun r => r.walks).any fun w => w.who.any fun a => a.isOp op

/-- An operation that a vacate discards, its word to issue again (R203, R245, R412): one in translation, one whose failure has not
been taken, and one that has only parked. -/
def State.discards (s : State) (o : MemOp) : Bool :=
  s.inTranslation o.id || o.fail.isSome
    || (match o.kind with
      | .chkpt | .image _ => o.phase = 0
      | .bind | .unbind | .sealOp => o.phase = 4
      | _ => false)

/-- An operation whose effect is made and whose word has yet to go on; the saved thread keeps its number. -/
def MemOp.kept (o : MemOp) : Bool :=
  match o.kind with
  | .sealOp | .chkpt => o.phase = 1 || o.phase = 3
  | .orinit => o.phase = 3
  | _ => o.phase = 3 && o.lines = []

/-- The operations of a workgroup that a vacate discards are dropped, and their threads stand at the word again. -/
def State.discardOps (s : State) (w : Wg) : State :=
  let gone := s.ops.filter fun o => o.wg = w.id && s.discards o
  let s := gone.foldl (fun (s : State) o =>
    let back := fun (t : Thread) =>
      if (t.wait == .blocked o.id) = true then { t with pc := o.addr, wait := .ready }
      else if t.mark = some o.id then { t with mark := none }
      else t
    ((s.takeBackRepeat o).dropOp o.id).modWg w.id fun x => { x with threads := x.threads.map back }) s
  if gone.any fun o => o.kind.isImage then s.lookAtWords else s

/-- Whether an h register refers to an engine word that is not complete (R262). -/
def Core.pending (k : Core) : HReg → Bool
  | .ref e g => k.ct.any fun x => x.entry = e && x.gen = g && x.busy
  | _ => false

/-- Whether a run is one of several packets, which no pre-emption interrupts (R37): not a repeat sequence, and not the rest of one clk. -/
def Run.inRun (r : Run) : Bool := r.packets ≠ 0 && !(r.base.isSome && r.packets = 1)

/-- Whether the ring writes of a core's log that have left its buffer are all in the ring. -/
def State.ringsWritten (s : State) (core : Nat) : Bool := !(s.ops.any fun o => o.kind == .ring && o.core = core)

/-- Whether nothing of a workgroup is left in the machine but what its context keeps (R203, R225, R262): its own engine words are
complete, and those that its h registers refer to. -/
def State.quiet (s : State) (w : Wg) : Bool :=
  w.pend = [] && !(s.words.any fun e => e.wg = w.id) && !(s.runs.any fun r => r.who == .group w.id && r.inRun)
    && !(w.crews.any fun c => c.h.any (s.core w.core).pending)
    && decide ((s.log w.core).drained = (s.log w.core).tail) && s.ringsWritten w.core
    && (s.ops.filter fun o => o.wg = w.id).all fun o => o.kept || s.discards o

/-- Whether an array stands at a step boundary in a clk (R162): its queue is empty, or its head is an mma that has not started or
waits before a chunk's B load or a row step. A drain, a check, a tile position or a clear ahead of it runs to its end (R174), an
mma in its tail too, and every row stepped has been written. -/
def Core.atBoundary (k : Core) (clk : Nat) : Bool :=
  match k.queue with
  | [] => true
  | o :: _ => o.kind.isMma && !o.stepsDone && (o.started.isNone || (o.waiting && decide (k.rowsAt.1 + 70 ≤ clk)))

/-- Whether a run of a quad's starter is under way (R37). -/
def State.starterRuns (s : State) (q : Nat) : Bool :=
  s.runs.any fun r => r.who == .starter q && r.pc = (s.starter q).pc
    && (match (s.starter q).wait with | .parked _ => false | _ => (s.starter q).stopped.isNone)

/-- Whether a quad's starter and arrays may be saved: no run of it is under way (R37). -/
def State.starterQuiet (s : State) (q : Nat) : Bool :=
  !s.starterRuns q && (s.starter q).pend.isEmpty && (List.range 4).all fun i => (s.core (quadCore q i)).atBoundary s.clk

/-- Whether a quad's shadow store takes one more context (R309, R394). -/
def State.shadowRoom (s : State) (q : Nat) : Bool :=
  decide (((s.quad q).shadow.filter fun c => c.spilled.isNone).length < max 1 s.caps.shadow)

/-! ### The save (R339) -/

/-- A thread as its context holds it: latches are lost, and the parked word issues again; a number is kept for an episode
(R318) and for a word whose effect is made. -/
def Thread.saved (t : Thread) (kept : Nat → Bool) : Thread :=
  if t.exited then t
  else
    let m := match t.wait with
      | .parked (.episode _) => t.mark
      | _ => match t.mark with | some n => if kept n then some n else none | none => none
    { t with wait := .ready, latches := [], mark := m, notes := [] }

/-- The lanes that go on with a repeat sequence after a vacate: the crew's live threads at the address where its set stands (R103). -/
def Wg.standSet (w : Wg) (c : Nat) (set : List Nat) : List Nat :=
  match set.find? fun l => !w.laneExited c l with
  | some m => (List.range w.width).filter fun l => !w.laneExited c l && w.lanePc c l = w.lanePc c m
  | none => []

/-- A workgroup as its context holds it; DEBT takes the µs from becoming due (R308). -/
def State.savedWg (s : State) (w : Wg) : Wg :=
  let kept := fun n => s.ops.any fun o => o.id = n && o.kept
  { w with
    threads := w.threads.map fun t => t.saved kept
    crews := ((List.range w.crews.length).zip w.crews).map fun (n, c) =>
      { c with out := false, repThreads := w.standSet n c.repThreads, repOuter := c.repOuter.map (w.standSet n), h := c.h.map fun h => match h with | .ref .. => .empty | h => h }
    debt := match w.due with
      | some t => min 65535 (w.debt + ((match w.saving with | some x => x.1 | none => s.clk) - t) / 1250)
      | none => w.debt
    due := none
    evict := false
    saving := none }

/-- A range of a memory, its addresses counted from the range's start. -/
def Memory.slice (m : Memory) (a n : Nat) : Memory :=
  (m.filter fun x => decide (a ≤ x.1) && decide (x.1 < a + n)).map fun x => (x.1 - a, x.2)

/-- The lines of a range that are absent, counted from its start. -/
def linesWithin (l : List Nat) (a n : Nat) : List Nat := (l.filter fun x => decide (a ≤ x) && decide (x < a + n)).map fun x => x - a

/-- The context of a baton's workgroups on a quad. -/
def State.contextOf (s : State) (baton q : Nat) (ws : List Wg) (starter : Bool) : SavedCtx :=
  let cores := dedup (ws.map fun w => w.core)
  { baton := baton
    part := match ws with | w :: _ => w.part | [] => 0
    wgs := ws.map s.savedWg
    scratch := ws.map fun w => (w.id, (s.core w.core).scratch.slice w.scratchBase w.scratchBytes)
    absent := ws.map fun w => (w.id, linesWithin (s.core w.core).absent (w.scratchBase / 128) (w.scratchBytes / 128))
    acq := ws.map fun w => (w.id, (s.core w.core).acq.filter fun a => decide (w.id ∈ a.wgs))
    starter := if starter then some (s.starter q) else none
    arrays := if starter then (List.range 4).map fun i => (quadCore q i, s.core (quadCore q i)) else []
    frames := cores.map fun c => (c, (s.core c).frames)
    spilled := none }

/-- A quad's starter and arrays leave with a context (R162, R347): the starter idle, slots and banks as after reset, each
token run on as ballast. -/
def State.clearArrays (s : State) (q : Nat) : State :=
  let cores := (List.range 4).map fun i => quadCore q i
  let s := match (s.starter q).mark with | some m => s.dropOp m | none => s
  let s := cores.foldl (fun (s : State) c => s.modCore c fun k =>
    { k with queue := [], nextc := 0, nextrow := 0, rowsAt := (0, 0, 0), chunk := none, held := [], rowFlags := [], stepDue := none, asked := false, token := k.token.toBallast s.clk, valid := [], mtile := 0,
             slots := Core.reset.slots, banks := Core.reset.banks }) s
  State.idleStarter { s with
    agenda := s.agenda.filter fun e => !(cores.any fun c => isSequencerEvent c e.2)
    pacer := { s.pacer with reqs := s.pacer.reqs.filter fun r => !decide (r.core ∈ cores) } } q

/-- A workgroup leaves its core with a context. -/
def State.leaveCore (s : State) (w : Wg) : State :=
  let s := s.keepAlloc w
  let first := w.scratchBase / 128
  let s := s.modCore w.core fun k =>
    { k with wake := k.wake.filter fun x => !(decide (first ≤ x.1) && decide (x.1 < first + w.scratchBytes / 128)) }
  { s with wgs := s.wgs.filter fun x => x.id ≠ w.id, runs := s.runs.filter fun r => r.who ≠ .group w.id }

/-- The workgroups of one baton are saved, quad by quad, and the baton goes to the head of its queue as resumable (R308,
R311). -/
def State.saveBaton (s : State) (ws : List Wg) (baton : Nat) (starters : List Nat) : State :=
  let mine := ws.filter fun w => w.baton = baton
  let quads := dedup (mine.map fun w => coreQuad w.core)
  let taken := fun (q : Nat) => decide (q ∈ starters) && (s.starter q).run.isSome
  let s := quads.foldl (fun (s : State) q =>
    let here := mine.filter fun w => coreQuad w.core = q
    s.modQuad q fun k => { k with shadow := k.shadow ++ [s.contextOf baton q here (taken q)] }) s
  let s := (quads.filter taken).foldl (fun (s : State) q => (s.moveStarter q (awayStarter baton q)).clearArrays q) s
  let s := mine.foldl (fun (s : State) w => s.leaveCore w) s
  let b := (s.batons.filter fun b => b.id = baton).map fun b => { b with st := .vacated, resumable := true, eligible := none }
  { s with batons := b ++ s.batons.filter fun b => b.id ≠ baton }

/-- Workgroups that are quiet are saved, with the starters of given quads, baton by baton while the shadow stores of its quads have
room; and those that are left (R309). -/
def State.saveAll (s : State) (ws : List Wg) (starters : List Nat) : State × List Wg :=
  let s := ws.foldl (fun (s : State) w => s.discardOps w) s
  let ws := ws.filterMap fun w => s.wg? w.id
  let s := (dedup (ws.map fun w => w.baton)).reverse.foldl (fun (s : State) b =>
    if (ws.filter fun w => w.baton = b).all fun w => s.shadowRoom (coreQuad w.core) then s.saveBaton ws b starters else s) s
  (((dedup (ws.map fun w => w.part)).foldl (fun (s : State) p => s.placeSoon p) s).preemptDone,
    ws.filter fun w => (s.wg? w.id).isSome)

/-- The oldest contexts of the full shadow stores of workgroups' quads begin to move out, 3 MiB at 128 bytes a clk (R309, R310). -/
def State.makeRoom (s : State) (ws : List Wg) : State :=
  ((dedup (ws.map fun x => coreQuad x.core)).filter fun q => !s.shadowRoom q).foldl (fun (s : State) q =>
    if s.agenda.any fun e => e.2 == .contextSpill q then s else s.post 24576 (.contextSpill q)) s

/-- The contexts of workgroups begin to go through their shadow stores' ports (R340), to be saved when they are there. -/
def State.beginSave (s : State) (ws : List Wg) : State :=
  let t := s.clk + s.portClk
  ws.foldl (fun (s : State) w => s.modWg w.id fun x => { x with saving := some (s.clk, t) }) s.takeFree

/-- A workgroup all of whose crews have been vacated or have exited is saved once everything that it waits for is over and its context
has gone through the port of its shadow store (R340); one that is full moves its oldest context out first (R309). -/
def State.tryVacate (s : State) (w : Wg) (crew : Nat) : State :=
  let ws := s.leaving w
  let out := ws.all fun x => (List.range x.crews.length).all fun c =>
    x.live c = [] || (match x.crew? c with | some k => k.out | none => true)
  if !out || ws.all (fun x => x.threads.all fun t => t.exited) then s
  else
    let starters := if w.evict then s.runQuads ws else []
    if !(ws.all s.quiet && starters.all s.starterQuiet) then s.post 1 (.crewVacate w.id crew)
    else if ws.any fun x => x.saving.isNone then (s.beginSave ws).post s.portClk (.crewVacate w.id crew)
    else if ws.any fun x => match x.saving with | some y => decide (s.clk < y.2) | none => false then s
    else match s.saveAll ws starters with
      | (s, []) => s
      | (s, x :: t) => (s.makeRoom (x :: t)).post 100 (.crewVacate x.id 0)

/-- crewVacate (R308, R309): a crew of a workgroup that is due, or asked for, stands at its safe point or boundary and leaves
the picker. -/
def execCrewVacate (wg crew : Nat) (s : State) : Host.Outcome State Fault Refusal :=
  match s.wg? wg with
  | none => .next s
  | some w =>
    if w.due.isNone && !w.evict then .next s
    else
      let s := s.modWg wg fun x => x.modCrew crew fun c => { c with out := true }
      match s.wg? wg with
      | some w => .next (s.tryVacate w crew)
      | none => .next s

/-- Whether a partition is halted (R340): its crews stand at boundaries, and every log buffer has drained. -/
def State.halted (s : State) (part : Nat) : Bool :=
  let ws := s.wgs.filter fun w => w.part = part
  ws.all s.quiet && (s.runQuads ws).all s.starterQuiet
    && s.cores.all fun x => !s.coreIn part x.1 || (decide (x.2.log.drained = x.2.log.tail) && s.ringsWritten x.1)

/-- contextSave (R340): a halted partition's quads write every context to their shadow stores at once, through their ports, older contexts
moving out first. A partition that is not halted saves nothing. -/
def execContextSave (part : Nat) (s : State) : Host.Outcome State Fault Refusal :=
  let ws := s.wgs.filter fun w => w.part = part
  if s.halted part then
    let s := ws.foldl (fun (s : State) w =>
      s.modWg w.id fun x => { x with evict := true, crews := x.crews.map fun c => { c with out := true } }) s
    .next (ws.foldl (fun (s : State) w => s.post 0 (.crewVacate w.id 0)) s)
  else .next s

/-! ### Spills (R310) -/

/-- The lowest spill slot of a partition that is free. -/
def Partition.freeSpill (p : Partition) : Option Nat := (List.range p.ctxslots).find? fun n => !decide (n ∈ p.spill)

/-- A context's image in a spill slot: the spec gives it no layout, so every byte of the slot is a free value (log entry 48). -/
def State.slotImage (s : State) (a : Nat) : Memory :=
  ((List.range 0x300000).map fun k => (a + k, (Config.freeWord (s.free + k / 4)).extractLsb' (8 * (k % 4)) 8)).filter fun x => x.2 ≠ 0

/-- contextSpill (R309, R310): the oldest context of a quad's shadow store moves to the lowest free spill slot, in partition memory; with
no slot free it stays. -/
def execContextSpill (quad : Nat) (s : State) : Host.Outcome State Fault Refusal :=
  match (s.quad quad).shadow.find? fun c => c.spilled.isNone with
  | none => .next s
  | some c =>
    match (s.part? c.part).map fun p => p.freeSpill with
    | some (some n) =>
      let s := s.modPart c.part fun p => { p with spill := p.spill ++ [n] }
      let mark := mapIf (fun (x : SavedCtx) => x.baton = c.baton && x.spilled.isNone) fun x => { x with spilled := some n }
      let a := (match s.part? c.part with | some p => p.ctxbase | none => 0) + 0x300000 * n
      let s := { s with mem := s.mem.patch (s.slotImage a) a 0x300000, free := s.free + 0x300000 / 4,
                        badWords := s.badWords.filter fun n => n < a / 4 ∨ a / 4 + 0x300000 / 4 ≤ n }
      .next (s.modQuad quad fun k => { k with shadow := mark k.shadow })
    | _ => .next s

/-! ### Resumption (R308, R311) -/

/-- A saved acquire-table entry enters a core's table under R215's eviction rule, and lines it must not find go; none while
nothing may be evicted. -/
def State.enterAcquire (s : State) (core wg : Nat) (a : AcqEntry) : Option State :=
  let tbl := (s.core core).acq
  let av := match tbl.find? fun x => x.obj = a.obj with | some x => max x.av a.av | none => a.av
  match s.acqFill tbl a.obj av wg with
  | none => none
  | some (t, gone) =>
    let ranges := fun (o : Nat) => match s.obj? o with | some b => b.ranges | none => []
    some ((s.dropView core (ranges a.obj ++ match gone with | some g => ranges g | none => [])).modCore core fun k => { k with acq := t })

/-- All of a list of saved entries. -/
def State.enterAcquires (core wg : Nat) : List AcqEntry → State → Option State
  | [], s => some s
  | a :: t, s => match s.enterAcquire core wg a with | some s => State.enterAcquires core wg t s | none => none

/-- The new core's directory takes the records that a crew's node has left in its old core's log, and its own cached lines take
their words (R225). -/
def State.followRecords (s : State) (old new node : Nat) : State :=
  if old = new then s
  else
    let more := ((s.log old).foreign.filter fun x => x.2.1 = node) ++ [(old, node, (s.log old).tail)]
    let same := fun (x y : Nat × Nat × Nat) => decide (x.1 = y.1) && decide (x.2.1 = y.2.1)
    let s := s.modLog new fun l =>
      { l with foreign := (l.foreign.filter fun x => !(more.any fun y => same x y)) ++ (more.filter fun x => x.1 ≠ new) }
    let recs := s.ownRecs new
    s.modCore new fun k => { k with view := k.view.map fun v => { v with words := mergeOwn recs v.line v.words } }

/-- Whether every core that workgroups resume on has directory entries for the records they left, beside those that waiting stores have
reserved (R209, R225). -/
def State.directoryFits (s : State) (pairs : List (Wg × Nat × Nat × Nat)) : Bool :=
  let t := pairs.foldl (fun (s : State) p => s.followRecords p.1.core p.2.1 p.1.node) s
  pairs.all fun p =>
    let held := (s.reserved p.2.1 0).flatMap fun h => h.2.map fun r => r.1 / 4
    decide ((dedup (t.dirLines p.2.1 ++ held)).length ≤ 8192)

/-- The crews of a workgroup that has found no directory entries in 256 clk take LOGFULL where they stand: the live threads of each
that stand at the place of its first (R209, R225; log entry 82). -/
def State.resumeLogfull (s : State) (wg : Nat) : State :=
  match s.wg? wg with
  | none => s
  | some w =>
    (List.range w.crews.length).foldl (fun (s : State) c =>
      match (w.live c).head?.bind w.thread? with
      | none => s
      | some x =>
        let ts := (w.live c).filter fun t => (w.thread? t).map (fun y => y.pc) = some x.pc
        (s.modWg wg fun w => w.faultReport ts 15 true []).groupTrap wg ts .logfull x.pc x.pc) s

/-- The frames a resumed workgroup's threads stand in hold their overlays. -/
def State.restoreFrames (s : State) (core : Nat) (w : Wg) (saved : List Frame) : State :=
  (List.range 2).foldl (fun (s : State) f =>
    match saved[f]? with
    | some x =>
      if w.standsIn f
          && !(match (s.core core).frames[f]? with | some y => decide (y.ovl = x.ovl) | none => true)
      then s.setFrame core f x else s
    | none => s) s

/-- REMAIN and DEBT when a slice begins (R308). -/
def sliceBegin (slice debt : Nat) : Nat × Nat := (slice - debt, debt - slice)

/-- A flit is sent: to another core by way of a router, which may drop it, with a negative acknowledgement 2 clk after and a resend 8 clk
after that (R18, R201, R284); four drops make it a veteran (R19). A flit within a core meets no router. -/
def State.launchFlit (s : State) (f : Flit) (cmp : Nat) : State :=
  if f.travel = 4 then s.post (f.travel + cmp) (.relayFlitArrival f.id)
  else if Config.routerBlocks s.free && decide (f.drops < 4) then
    let drop := fun (x : Flit) => { x with drops := x.drops + 1 }
    ({ s with flits := mapIf (fun x => x.id = f.id) drop s.flits }.takeFree).post (10 + cmp) (.relayResend f.id)
  else s.takeFree.post (f.travel + cmp) (.relayFlitArrival f.id)

/-- One saved workgroup stands on a core again (R311): scratchpad with its absent lines, records, registers, and its
unacknowledged flits sent again (R286). -/
def State.restoreWg (s : State) (c : SavedCtx) (w : Wg) (core base slice : Nat) : State :=
  let saved := match c.frames.find? fun x => x.1 = w.core with | some x => x.2 | none => []
  let s := (s.restoreFrames core w saved).followRecords w.core core w.node
  let mem : Memory := match c.scratch.find? fun x => x.1 = w.id with | some x => x.2 | none => []
  let gone := match c.absent.find? fun x => x.1 = w.id with | some x => x.2 | none => []
  let s := s.modCore core fun k =>
    { k with scratch := mem.foldl (fun (m : Memory) x => m.set (base + x.1) x.2) (k.scratch.clear base w.scratchBytes) }
  let first := base / 128
  let s := s.setPresent core ((List.range (w.scratchBytes / 128)).map fun i => first + i)
  let s := s.modCore core fun k => { k with absent := k.absent ++ gone.map fun l => first + l }
  let (remain, debt) := sliceBegin slice w.debt
  let w' := { w with
    core := core, slot := s.freeWgSlot core, scratchBase := base, remain := remain, debt := debt, started := s.clk,
    served := s.clk, threads := w.threads.map fun t => { t with since := s.clk, stalled := false, notBefore := s.clk } }
  let s := { s with wgs := s.wgs ++ [w'] }
  let s := if slice ≠ 0 ∧ w.hcore = 0 then s.post (remain * 1250) (.timeSliceExpiry w.id) else s
  (s.flits.filter fun f => f.wg = w.id).foldl (fun (s : State) f => s.launchFlit f (s.comparator w.part)) s

/-- A saved starter and its arrays stand in a quad again (R162): each head asks for a token again and goes on at NEXTC and
NEXTROW. -/
def State.restoreStarter (s : State) (c : SavedCtx) (q : Nat) : State :=
  match c.starter with
  | none => s
  | some k =>
    let wait := match k.wait with | .parked (.opEnd _) => Wait.ready | w => w
    let mark := match k.wait with | .parked (.opEnd _) => none | _ => k.mark
    let old := match c.arrays with | x :: _ => coreQuad x.1 | [] => q
    let s := (s.moveStarter (awayStarter c.baton old) q).modStarter q fun _ => { k with wait := wait, mark := mark, notBefore := s.clk }
    c.arrays.foldl (fun (s : State) x =>
      let core := quadCore q (coreArray x.1)
      let a := x.2
      (s.modCore core fun k =>
        { k with opmem := a.opmem, valid := a.valid, slots := a.slots, banks := a.banks, nextc := a.nextc,
                 nextrow := a.nextrow, held := a.held, mtile := a.mtile,
                 queue := a.queue.map fun o => { o with started := none, since := [], waiting := false, line := 0 } }).poke core) s

/-- batonResume (R308, R310, R311): the context is restored, all or nothing; while an acquire table has no place it waits, and for at
most 256 clk while a directory has no entries (R225). A context in a spill slot has been moved back, and the slot is free. -/
def execBatonResume (part baton : Nat) (cores : List Nat) (s : State) : Host.Outcome State Fault Refusal :=
  match s.baton? baton with
  | none => .next s
  | some b =>
    if b.st != .placed || decide (s.clk < b.starts) then .next s
    else
      let ctxs := (s.contextsOf baton).map fun x => x.2
      let ws := s.savedWgs baton
      let pairs := ws.zip b.place
      let entries := ctxs.flatMap fun c => c.acq.flatMap fun x =>
        match pairs.find? fun p => p.1.id = x.1 with
        | some p => x.2.map fun a => (p.2.1, x.1, a)
        | none => []
      let filled := entries.foldl (fun (st : Option State) e =>
        match st with | some s => s.enterAcquire e.1 e.2.1 e.2.2 | none => none) (some s)
      let there := fun (p : Wg × Nat × Nat × Nat) => (List.range 2).all fun f =>
        !p.1.standsIn f || decide ((((s.core p.2.1).frames[f]?).getD Frame.reset).ready ≤ s.clk)
      let fits := pairs.all fun p => s.framesFit p.2.1 p.1 (s.savedFrames baton p.1.core) && there p
      let room := s.directoryFits pairs
      let late := match b.waits with | some t => decide (t + 256 ≤ s.clk) | none => false
      match filled, fits && (room || late) with
      | some s, true =>
        let slice := match s.grid? b.grid with | some g => g.slice | none => 0
        let s := s.modBaton baton fun x => { x with st := .running, waits := none, place := [] }
        let s := pairs.foldl (fun (s : State) p =>
          match ctxs.find? fun c => c.wgs.any fun w => w.id = p.1.id with
          | some c => s.restoreWg c p.1 p.2.1 p.2.2.1 slice
          | none => s) s
        let s := ctxs.foldl (fun (s : State) c =>
          match c.wgs with
          | w :: _ => match pairs.find? fun p => p.1.id = w.id with
            | some p => s.restoreStarter c (coreQuad p.2.1)
            | none => s
          | [] => s) s
        let s := s.modPart part fun p => { p with spill := p.spill.filter fun n => !(ctxs.any fun c => c.spilled = some n) }
        let s : State := { s with
          quads := s.quads.map fun (x : Nat × Quad) => (x.1, { x.2 with shadow := x.2.shadow.filter fun c => c.baton ≠ baton }) }
        .next (if room then s else ws.foldl (fun (s : State) w => s.resumeLogfull w.id) s)
      | _, _ =>
        let wait := fun (x : Baton) => { x with waits := if room then none else some (x.waits.getD s.clk) }
        .next ((s.modBaton baton wait).post 1 (.batonResume part baton cores))

/-! ### Spatial pre-emption (R309) -/

/-- QUEUE of a workgroup's grid. -/
def State.queueOf (s : State) (w : Wg) : Nat := match s.grid? w.grid with | some g => g.queue | none => 0

/-- Whether workgroups of a partition can all be saved: contexts that find no place in their quads' shadow stores move, or move others,
to spill slots (R310). -/
def State.canSave (s : State) (part : Nat) (ws : List Wg) : Bool :=
  let needed := (dedup (ws.map fun w => coreQuad w.core)).map fun q =>
    (dedup ((ws.filter fun w => coreQuad w.core = q).map fun w => w.baton)).length
      + ((s.quad q).shadow.filter fun c => c.spilled.isNone).length - max 1 s.caps.shadow
  match s.part? part with
  | some p => decide (sumOf id needed ≤ p.ctxslots - p.spill.length)
  | none => false

/-- The victims of a pre-emption (R309, R310): taken until k cores are free. -/
def State.chooseVictims (s : State) (part k prio : Nat) : List Wg → List Wg → List Wg
  | [], chosen => chosen
  | w :: t, chosen =>
    let freed := (s.partCores part).filter fun c => (s.onCore c) ≠ [] && (s.onCore c).all fun x => chosen.any fun y => y.id = x.id
    if freed.length ≥ k then chosen
    else if chosen.any fun x => x.id = w.id then s.chooseVictims part k prio t chosen
    else
      let more := s.victimsWith s.wgs.length [w]
      let ok := s.canSave part (dedupWgs (chosen ++ more)) && more.all fun x => decide (s.queueOf x < prio)
      s.chooseVictims part k prio t (if ok then dedupWgs (chosen ++ more) else chosen)

/-- A pre-emption of k cores of a partition for a priority (R309): its victims' crews are vacated at their next boundary. The
cores it waits for. -/
def State.preempt (s : State) (part k prio : Nat) : State × List Nat :=
  let order := sortBy (fun (w : Wg) => s.queueOf w * 2 ^ 64 + (2 ^ 64 - 1 - w.begun))
    (s.wgs.filter fun w => w.part = part && decide (s.queueOf w < prio))
  let chosen := s.chooseVictims part k prio order []
  let s := chosen.foldl (fun (s : State) w => s.modWg w.id fun x => { x with evict := true }) s
  let s := chosen.foldl (fun (s : State) w =>
    s.postAll ((List.range w.crews.length).map fun c => (0, .crewVacate w.id c))) s
  (s, dedup (chosen.map fun w => w.core))

end Sys2Proof.Machine
end

