-- ==== Sys2Proof/Machine/Engines.lean ====
section
/-! DEFINITION. Asynchronous engines and relays (majors 0x70 to 0x75, R267 to R286, R407, R409): issue checks, channels, line and
element transfers, overlay loads, collectives, completion, and the flits of relay registers. -/

namespace Sys2Proof.Machine

/-! ### Control values -/

/-- Whether an overlay load has begun to write its frame, and the overlay's bytes; both stand above the descriptor. -/
def EngWord.loading (e : EngWord) : Bool := e.kind == .ovl && natBit e.ctl 63
def EngWord.ovlBytes (e : EngWord) : Nat := natBits e.ctl 62 32
/-- The tx register that carries the completion flit, if SIG asks for one. -/
def EngWord.sigTx (e : EngWord) : Option Nat :=
  match e.kind with
  | .cpy | .cpyw => if natBit e.ctl 36 then some (natBits e.ctl 38 37) else none
  | .gth => if natBit e.ctl 6 then some (natBits e.ctl 8 7) else none
  | .coll => if natBit e.ctl 56 then some (natBits e.ctl 58 57) else none
  | .ovl => none

/-! ### Places -/

/-- A place of an untranslated space for a workgroup: 1 scratchpad, 2 heat window, 3 operand window. -/
def State.placeOf (s : State) (w : Wg) (space addr : Nat) : Place :=
  match space with
  | 1 => .scratch w.core (w.scratchBase + addr)
  | 2 => match s.windowPlace w addr with | some (c, b) => .scratch c b | none => .nowhere
  | _ => .operand w.core addr

/-- The workgroup on heat core HC of a workgroup's heat, or the workgroup itself (R275). -/
def State.heatWg (s : State) (w : Wg) (hc : Nat) : Option Wg :=
  match w.heat with
  | none => if hc = 0 then some w else none
  | some _ => (s.together w).find? fun x => x.hcore = hc

/-- The address of a place of another core's block under which an engine's request travels to it, none of a place that needs no
travel (R191, R274). -/
def State.farAddr (s : State) (core : Nat) (p : Place) : Option Nat :=
  let far := fun (c off : Nat) => if c = core then none else some (c * 0x100000 + off)
  match p with
  | .scratch c b => far c b
  | .operand c off => far c (0x40000 + off)
  | .bank c off => far c (0x60000 + off)
  | .file c off => far c (0x80000 + off)
  | .regs w _ => match s.wg? w with | some x => far x.core 0x80000 | none => none
  | _ => none

/-! ### Completion entries and channels -/

/-- The lowest free entry of a completion table (R262). -/
def Core.freeEntry (k : Core) : Option Nat := (List.range 1024).find? fun n => !(k.ct.any fun e => e.entry = n && e.busy)

/-- The generation of an entry. -/
def Core.entryGen (k : Core) (n : Nat) : Nat := match k.ct.find? fun e => e.entry = n with | some e => e.gen | none => 0

/-- An entry marked busy, or freed with its generation stepped. -/
def Core.setEntry (k : Core) (n gen : Nat) (busy : Bool) : Core :=
  { k with ct := { entry := n, gen := gen, busy := busy } :: k.ct.filter fun e => e.entry ≠ n }

/-- Whether a core has a place for one more engine word (R262, R268). -/
def State.engineRoom (s : State) (core : Nat) : Bool :=
  (s.core core).freeEntry.isSome && decide ((s.words.filter fun e => e.core = core && e.chan.isNone).length < 32)

/-- The channels a word may take (R267), numbered over the package: 8 a quad for copies, then 64 a die for gathers and 32 a die
for collectives; of a die's, those of the sectors of its partition. -/
def State.channelsFor (s : State) (e : EngWord) : List Nat :=
  let die := coreDie e.core
  let mine := (List.range 4).filter fun k => match s.corePart e.core with
    | some p => decide (die * 4 + k ∈ p.sectors)
    | none => false
  match e.kind with
  | .gth => mine.flatMap fun k => (List.range 16).map fun i => 1536 + die * 64 + k * 16 + i
  | .coll => mine.flatMap fun k => (List.range 8).map fun i => 1792 + die * 32 + k * 8 + i
  | _ => (List.range 8).map fun i => coreQuad e.core * 8 + i

/-- Whether a channel is free and not frozen; a context image on its way takes one too (R341). -/
def State.channelFree (s : State) (c : Nat) : Bool :=
  !(s.words.any fun x => x.chan = some c) && !decide (c ∈ s.frozenChans) && !(s.ops.any fun o => o.kind.isImage && o.n = c + 1)

/-- The channels of a word's engine that are free. -/
def State.freeChannels (s : State) (e : EngWord) : List Nat := (s.channelsFor e).filter s.channelFree

/-- Words that wait for a channel of the same engine, in issue order, those of one clk by ascending core (R407); one that is cancelled
waits no longer (R272). -/
def State.waitingWords (s : State) (e : EngWord) : List EngWord :=
  let cs := s.channelsFor e
  sortBy (fun x => x.issued * 1024 + x.core)
    (s.words.filter fun x => x.chan.isNone && !x.cancel && (s.channelsFor x).any fun c => decide (c ∈ cs))

/-- A word is looked at again after a number of clk, unless that is to happen already. -/
def State.wakeWord (s : State) (t word : Nat) : State :=
  if s.agenda.any fun a => a.2 == .engineWordStart word 0 then s else s.post t (.engineWordStart word 0)

/-- An engine word enters its core's queue (R262, R268): it starts 4 clk later when a channel is free, in paired mode after its
comparator (R384). -/
def State.issueWord (s : State) (is : Issue) (w : Wg) (g : BitVec 3) (noWrite : Bool) (h : BitVec 4) (e : EngWord) : State :=
  match (s.core w.core).freeEntry with
  | none => s.park is w.id .engineRoom
  | some n =>
    if !s.engineRoom w.core then s.park is w.id .engineRoom
    else
      let gen := (s.core w.core).entryGen n
      let s := s.modCore w.core fun k => k.setEntry n gen true
      let cmp := s.comparator w.part
      let s := { s with words := s.words ++ [{ e with id := s.ids, entry := n, issued := s.clk + cmp }] }.takeId
      let s := s.post (4 + cmp) (.engineWordStart (s.ids - 1) 0)
      let s := if noWrite then s else s.setH is w g h.toNat (.ref n gen)
      s.retire is w.id

/-- An engine word of a kind, not yet issued. -/
def newWord (s : State) (is : Issue) (w : Wg) (kind : EngKind) (dst src ctl total : Nat) : EngWord :=
  { id := 0, kind := kind, core := w.core, wg := w.id, crew := w.crewOf (is.threads.headD 0), node := w.node, entry := 0,
    dst := dst, src := src, ctl := ctl, aux := 0, idx := [], threads := is.threads, chan := none, begun := 0, readAt := 0, got := [],
    issued := s.clk, next := 0, reads := 0, total := total, live := [], doneLines := [], causes := [], cancel := false, stop := false, bad := none }

/-! ### Issue checks -/

/-- Whether a SIG names an unbound tx register of the crew (R273). -/
def sigUnbound (is : Issue) (w : Wg) (tx : Option Nat) : Bool :=
  match tx with
  | none => false
  | some n => match w.crew? (w.crewOf (is.threads.headD 0)) with
    | some c => match c.tx[n]? with | some t => t.link.isNone | none => true
    | none => true

/-- The bytes of a workgroup's heat window (R296). -/
def State.windowBytes (s : State) (w : Wg) : Nat :=
  match w.heat with | some _ => (s.together w).length * w.scratchBytes | none => 0

/-- The cause of an address range that breaks the limits of its space (R273, R277): alignment first. -/
def State.rangeCause (s : State) (w : Wg) (space addr bytes align : Nat) : Option Nat :=
  if addr % align ≠ 0 then some 1
  else match space with
    | 0 => if canonical addr && canonical ((addr + bytes - 1) % 2 ^ 64) then none else some 2
    | 1 => if addr + bytes ≤ w.scratchBytes then none else some 3
    | 2 => if addr + bytes ≤ s.windowBytes w then none else some 3
    | _ => if addr + bytes ≤ 0x20000 then none else some 7

/-- Whether two ranges of one length overlap. -/
def overlap (a b n : Nat) : Bool := decide (a < b + n) && decide (b < a + n)

/-- The limit of a cpyw destination (R275). -/
def State.cpywCause (s : State) (w : Wg) (dst dsp bytes : Nat) : Option Nat :=
  let off := natBits dst 17 0
  if off % 128 ≠ 0 then some 1
  else match s.heatWg w (natBits dst 22 18) with
    | none => some 3
    | some x =>
      if dsp = 0 then (if off + bytes ≤ 4 * x.nregs * x.threads.length then none else some 3)
      else if off + bytes ≤ 65536 then none else some 3

/-- cpy and cpyw share their checks and their issue (R268, R270, R273, R275). -/
def copyWord (s : State) (kind : EngKind) (g : BitVec 3) (w : Bool) (h : BitVec 4) (a b : BitVec 7) :
    Host.Outcome State Fault Refusal :=
  withGroup s fun is wg =>
    if active is wg g = [] then s.retire is wg.id
    else
      let c := (uniSrc s is wg b.toNat).toNat
      let dst := (uniS is wg (a.toNat - 64)).toNat
      let src := (uniS is wg (a.toNat - 63)).toNat
      let bytes := natBits c 30 0
      let dsp := natBits c 33 32
      let ssp := natBits c 35 34
      let e := newWord s is wg kind dst src c (bytes / 128)
      let illegal := natBit c 31 || decide (natBits c 63 39 ≠ 0) || decide (bytes % 128 ≠ 0) || decide (bytes < 128)
        || decide (ssp = 3) || sigUnbound is wg e.sigTx
        || (if kind == .cpyw then decide (dsp ≥ 2) || decide (dst ≥ 2 ^ 23) else decide (dsp = ssp) && overlap dst src bytes)
      if illegal then s.trapHere is wg.id (trapping is wg g) .illop
      else
        let dc := if kind == .cpyw then s.cpywCause wg dst dsp bytes else s.rangeCause wg dsp dst bytes 128
        match dc, s.rangeCause wg ssp src bytes 128 with
        | some cause, _ => s.memFaultOnce is wg g .memfault cause false dst
        | none, some cause => s.memFaultOnce is wg g .memfault cause false src
        | none, none => s.issueWord is wg g w h e

/-- cpy (R273, R274). -/
def execCpy (g : BitVec 3) (w : Bool) (h : BitVec 4) (a b : BitVec 7) (s : State) := copyWord s .cpy g w h a b
/-- cpyw (R275). -/
def execCpyw (g : BitVec 3) (w : Bool) (h : BitVec 4) (a b : BitVec 7) (s : State) := copyWord s .cpyw g w h a b

/-- gth (R277): an element for each active thread, at the place of its lane; the destination has a place for each lane of the crew
(DEDUCED, log entry 28). -/
def execGth (g : BitVec 3) (w : Bool) (h : BitVec 4) (a b : BitVec 7) (s : State) : Host.Outcome State Fault Refusal :=
  withGroup s fun is wg =>
    let act := active is wg g
    if act = [] then s.retire is wg.id
    else
      let dst := (uniS is wg (a.toNat - 64)).toNat
      let base := (uniS is wg (a.toNat - 63)).toNat
      let c := (uniS is wg (a.toNat - 62)).toNat
      let e := { newWord s is wg .gth dst base c act.length with
        idx := act.map fun t => (t, match wg.thread? t with | some x => x.reg b.toNat | none => 0) }
      if natBit c 3 || decide (natBits c 63 9 ≠ 0) || decide (natBits c 2 0 ≥ 6) || sigUnbound is wg e.sigTx then
        s.trapHere is wg.id (trapping is wg g) .illop
      else if base % e.size ≠ 0 then s.memFaultOnce is wg g .memfault 1 false base
      else match s.rangeCause wg e.dsp dst (wg.width * e.size) e.size with
        | some cause => s.memFaultOnce is wg g .memfault cause false dst
        | none => s.issueWord is wg g w h e

/-- The participants of a collective group of a partition, by rank (R278). -/
def State.collMembers (s : State) (w : Wg) (gid : Nat) : List (Nat × Nat × Nat) := (s.groupOf w gid).getD []

/-- coll (R278): the workgroup's count of collectives on the group moves on. -/
def execColl (g : BitVec 3) (w : Bool) (h : BitVec 4) (a : BitVec 7) (y : Bool) (q : BitVec 2) (k : BitVec 3) (s : State) :
    Host.Outcome State Fault Refusal :=
  withGroup s fun is wg =>
    if active is wg g = [] then s.retire is wg.id
    else
      let src := (uniS is wg (a.toNat - 64)).toNat
      let dst := (uniS is wg (a.toNat - 63)).toNat
      let c := (uniS is wg (a.toNat - 62)).toNat
      let gid := natBits c 55 48
      let scope := natBits c 34 32
      let n := kget 0 wg.collCount gid
      let bytes := natBits c 30 0
      let ms := s.collMembers wg gid
      let e := { newWord s is wg .coll dst src c 1 with aux := k.toNat + q.toNat * 8 + y.toNat * 32 + n * 64 }
      let wide := fun (r : Bool) => if r then bytes * ms.length else bytes
      if natBit c 31 || natBit c 35 || decide (natBits c 63 59 ≠ 0) || decide (scope < 3) || decide (scope > 5)
          || decide (bytes % 128 ≠ 0) || sigUnbound is wg e.sigTx then s.trapHere is wg.id (trapping is wg g) .illop
      else if !(ms.any fun m => m.1 = wg.index && m.2.1 = s.boot.package && m.2.2 = wg.part) || decide (natBits c 47 36 ≥ ms.length)
      then s.memFaultOnce is wg g .memfault 3 false c
      else match s.rangeCause wg 0 src (wide (k = 4)) 128, s.rangeCause wg 0 dst (wide (k = 3)) 128 with
        | some cause, _ => s.memFaultOnce is wg g .memfault cause false src
        | none, some cause => s.memFaultOnce is wg g .memfault cause false dst
        | none, none =>
          if !s.engineRoom wg.core then s.park is wg.id .engineRoom
          else (s.issueWord is wg g w h e).modWg wg.id fun x => { x with collCount := kset x.collCount gid (n + 1) }

/-! ### Flits (R281 to R286) -/

/-- The clk a flit takes between two cores (R284). -/
def flitTravel (a b : Nat) : Nat := if a = b then 4 else if coreQuad a = coreQuad b then 16 else 30

/-- A workgroup changed, resident or in a saved context. -/
def State.modWgAny (s : State) (id : Nat) (f : Wg → Wg) : State :=
  let saved := fun (c : SavedCtx) => { c with wgs := mapIf (fun (w : Wg) => w.id = id) f c.wgs }
  { s.modWg id f with quads := s.quads.map fun (x : Nat × Quad) => (x.1, { x.2 with shadow := x.2.shadow.map saved }) }

/-- A tx register changed. -/
def Wg.modTx (w : Wg) (crew n : Nat) (f : Tx → Tx) : Wg := w.modCrew crew fun c => { c with tx := modAt c.tx n f }
/-- An rx register changed. -/
def Wg.modRx (w : Wg) (crew n : Nat) (f : Rx → Rx) : Wg := w.modCrew crew fun c => { c with rx := modAt c.rx n f }
/-- A tx register of a crew. -/
def Wg.txOf (w : Wg) (crew n : Nat) : Tx := match w.crew? crew with | some c => c.tx.getD n Tx.reset | none => Tx.reset
/-- An rx register of a crew. -/
def Wg.rxOf (w : Wg) (crew n : Nat) : Rx := match w.crew? crew with | some c => c.rx.getD n Rx.reset | none => Rx.reset

/-- A flit leaves on a tx register that is linked (R283); word is the engine word it reports. -/
def State.sendFlit (s : State) (w : Wg) (crew n : Nat) (payload : Dbl) (word : Option Nat) : State :=
  let t := w.txOf crew n
  match t.link with
  | none => s
  | some l =>
    let there := match s.wg? l.wg with | some x => x.core | none => w.core
    let f : Flit := { id := s.ids, wg := w.id, crew := crew, tx := n, gen := t.gen, seq := t.seq, payload := payload, link := l,
                      travel := flitTravel w.core there, word := word, bounces := 0, drops := 0 }
    let s := s.modWg w.id fun x => x.modTx crew n fun t => { t with seq := t.seq + 1, unacked := t.unacked + 1 }
    ({ s with flits := s.flits ++ [f] }.launchFlit f (s.comparator w.part)).takeId

/-- A write of TXn by the crew of the group's lowest-numbered thread (R283); ts are the threads a trap takes. -/
def State.transmit (s : State) (is : Issue) (w : Wg) (ts : List Nat) (n : Nat) (v : Dbl) : State :=
  let crew := w.crewOf (is.threads.headD 0)
  let t := w.txOf crew n
  if t.link.isNone then s.trapHere is w.id ts .illop
  else if t.unacked ≥ 4 then s.park is w.id (.txRoom n)
  else (s.sendFlit w crew n v none).retire is w.id

/-- transmitRegisterWrite (R283). -/
def execTransmitRegisterWrite (n : Nat) (v : BitVec 64) (s : State) : Host.Outcome State Fault Refusal :=
  withGroup s fun is w => s.transmit is w is.threads n v

/-- A read of RXn (R284): the oldest flit's payload goes to s_d in the given crews, or the threads park. -/
def State.receive (s : State) (is : Issue) (w : Wg) (crews : List Nat) (n d : Nat) (noWrite : Bool) : State :=
  let crew := w.crewOf (is.threads.headD 0)
  match (w.rxOf crew n).queue with
  | [] => s.park is w.id (.rxFlit n)
  | v :: t =>
    (s.modWg w.id fun x => x.modRx crew n fun r => { r with queue := t }).finish is w
      { s := if noWrite then [] else crews.map fun c => (c, d, v) } 1

/-- receiveRegisterRead (R284). -/
def execReceiveRegisterRead (n : Nat) (d : BitVec 5) (w : Bool) (s : State) : Host.Outcome State Fault Refusal :=
  withGroup s fun is wg => s.receive is wg (wg.crewsOf is.threads) n d.toNat w

/-- What an rx makes of a flit (R284): the rx after it, and none when it is dropped with a negative acknowledgement, else
whether it met a closed rx. -/
def Rx.take (r : Rx) (f : Flit) : Rx × Option Bool :=
  let here := fun (x : RxFrom) => x.wg = f.wg && x.crew = f.crew && x.tx = f.tx
  let old := r.from_.find? here
  let next := match old with | some x => if x.gen = f.gen then x.next else 0 | none => 0
  let keep := fun (n : Nat) =>
    { wg := f.wg, crew := f.crew, tx := f.tx, gen := f.gen, next := n : RxFrom } :: r.from_.filter fun x => !here x
  if (match old with | some x => decide (f.gen < x.gen) | none => false) then (r, some false)
  else if f.seq < next then (r, some false)
  else if f.seq > next then (r, none)
  else if r.closed then ({ r with from_ := keep (next + 1) }, some true)
  else if decide (r.queue.length < 7) || (decide (r.queue.length < 8) && decide (f.bounces ≥ 4)) then
    ({ r with queue := r.queue ++ [f.payload], from_ := keep (next + 1) }, some false)
  else ({ r with from_ := keep next }, none)

/-- relayFlitArrival (R284, R286). -/
def execRelayFlitArrival (flit : Nat) (s : State) : Host.Outcome State Fault Refusal :=
  match s.flits.find? fun f => f.id = flit with
  | none => .next s
  | some f =>
    let r := match s.wg? f.link.wg with
      | some w => some ((w.rxOf f.link.crew f.link.rx).take f)
      | none => none
    let s := match r with
      | some (x, _) => s.modWg f.link.wg fun w => w.modRx f.link.crew f.link.rx fun _ => x
      | none => s
    match r with
    | some (_, some closed) => .next (s.post f.travel (.relayAcknowledge flit closed))
    | _ =>
      let bump := fun (x : Flit) => { x with bounces := x.bounces + 1 }
      .next ({ s with flits := mapIf (fun x => x.id = flit) bump s.flits }.post (f.travel + 8) (.relayResend flit))

/-- relayAcknowledge (R271, R284): TXOUT falls; a flit that met a closed rx sets REFUSED, and a completion flit's handle
reports it. -/
def execRelayAcknowledge (flit : Nat) (refused : Bool) (s : State) : Host.Outcome State Fault Refusal :=
  match s.flits.find? fun f => f.id = flit with
  | none => .next s
  | some f =>
    let s := { s with flits := s.flits.filter fun x => x.id ≠ flit }
    let tx := fun (t : Tx) => { t with unacked := t.unacked - 1, refused := t.refused || (refused && t.gen = f.gen) }
    let s := s.modWgAny f.wg fun w => w.modTx f.crew f.tx tx
    match refused, f.word with
    | true, some e =>
      let report := fun (h : HReg) => match h with
        | .settled st 0 x => if x = e then HReg.settled st 0x0A x else h
        | h => h
      .next (s.modWgAny f.wg fun w => { w with crews := w.crews.map fun c => { c with h := c.h.map report } })
    | _, _ => .next s

/-- Whether a flit is on its way, or its answer is. -/
def State.flitMoving (s : State) (id : Nat) : Bool :=
  s.agenda.any fun e => match e.2 with
    | .relayFlitArrival x => x = id
    | .relayAcknowledge x _ => x = id
    | _ => false

/-- relayResend (R284, R286): the sender resends from its oldest unacknowledged flit of the tx register, those not on their way;
a crew that is not resident resends when it resumes. -/
def execRelayResend (flit : Nat) (s : State) : Host.Outcome State Fault Refusal :=
  match s.flits.find? fun f => f.id = flit with
  | none => .next s
  | some f =>
    match s.wg? f.wg with
    | none => .next s
    | some w =>
      .next ((s.flits.filter fun x => x.wg = f.wg && x.crew = f.crew && x.tx = f.tx).foldl (fun (s : State) x =>
        if s.flitMoving x.id then s else s.launchFlit x (s.comparator w.part)) s)

/-- rlink (R282). -/
def execRlink (g : BitVec 3) (r : BitVec 2) (a : BitVec 7) (s : State) : Host.Outcome State Fault Refusal :=
  withGroup s fun is w =>
    if active is w g = [] then s.retire is w.id
    else
      let v := (uniSrc s is w a.toNat).toNat
      let crew := w.crewOf (is.threads.headD 0)
      if v ≥ 2 ^ 14 then s.trapHere is w.id (trapping is w g) .illop
      else match s.heatWg w (natBits v 13 9) with
        | none => s.memFaultOnce is w g .memfault 3 false v
        | some x =>
          if natBits v 8 2 ≥ x.crews.length then s.memFaultOnce is w g .memfault 3 false v
          else if (w.txOf crew r.toNat).unacked ≠ 0 then s.park is w.id (.txClear r.toNat)
          else
            let l : Link := { wg := x.id, crew := natBits v 8 2, rx := natBits v 1 0 }
            (s.modWg w.id fun y => y.modTx crew r.toNat fun t =>
              { t with link := some l, gen := t.gen + 1, seq := 0, refused := false }).retire is w.id

/-- rclose (R282): x chooses an rx register. -/
def execRclose (g : BitVec 3) (x : Bool) (r : BitVec 2) (s : State) : Host.Outcome State Fault Refusal :=
  withGroup s fun is w =>
    if active is w g = [] then s.retire is w.id
    else
      let crew := w.crewOf (is.threads.headD 0)
      if x then (s.modWg w.id fun y => y.modRx crew r.toNat fun t => { t with queue := [], closed := true }).retire is w.id
      else if (w.txOf crew r.toNat).unacked ≠ 0 then s.park is w.id (.txClear r.toNat)
      else (s.modWg w.id fun y => y.modTx crew r.toNat fun t => { t with link := none, refused := false }).retire is w.id

/-! ### Lines and elements -/

/-- A cause recorded for a line; one that stops the word is marked so (R271). -/
def State.engineCause (s : State) (id line status : Nat) (stops : Bool) : State :=
  s.modWord id fun e => { e with causes := e.causes ++ [(line, status)], stop := e.stop || stops }

/-- A line or element that begins is looked at: the translations that it lacks come from the core's TLB, or it waits for a walk (R409). -/
def State.partLook (s : State) (e : EngWord) (w : Wg) (p : EngPart) : EngPart ⊕ State :=
  let ask := fun (p : EngPart) (va perm : Nat) => (s.modLive e.id p.k fun _ => p).startWalk e.core w.ctx va perm (.element e.id p.k)
  let tlb := (s.core e.core).tlb
  let src := match e.srcGen p.k, p.src with
    | some (va, perm), none => match tlbFind tlb w.ctx va perm with
      | some pa => Sum.inl { p with src := some pa }
      | none => .inr (ask p va perm)
    | _, _ => .inl p
  match src with
  | .inr s => .inr s
  | .inl p => match e.dstGen w p.k, p.dst with
    | some va, none => match tlbFind tlb w.ctx va 1 with
      | some pa => .inl { p with dst := some pa }
      | none => .inr (ask p va 1)
    | _, _ => .inl p

/-- The place of a line's or element's source, at its line's start. -/
def State.srcPlace (s : State) (e : EngWord) (w : Wg) (p : EngPart) : Place :=
  match p.src with
  | some pa => physPlace (pa / 128 * 128)
  | none => s.placeOf w e.ssp (e.srcAt p.k / 128 * 128)

/-- The place of a line's or element's destination (R274, R275); an overlay goes to its frame when it is whole. -/
def State.dstPlace (s : State) (e : EngWord) (w : Wg) (p : EngPart) : Place :=
  match p.dst, e.kind with
  | some pa, _ => physPlace pa
  | none, .ovl | none, .coll => .nowhere
  | none, .cpyw =>
    let off := natBits e.dst 17 0 + 128 * p.k
    match s.heatWg w (natBits e.dst 22 18) with
    | some x => if e.dsp = 0 then .regs x.id (off / 4) else .bank x.core off
    | none => .nowhere
  | none, _ => s.placeOf w e.dsp (e.dstAt w p.k)

/-- The step that writes a line or element. -/
def EngWord.writeStep (e : EngWord) (k : Nat) : Instr := if e.kind == .gth then .gatherElement e.id k else .engineLineWrite e.id k

/-- Whether a word's channel reads lines by the copy engine. -/
def EngWord.isCopy (e : EngWord) : Bool := e.kind == .cpy || e.kind == .cpyw || e.kind == .ovl

/-- A request of an engine for a place leaves its channel with its unit (R267, R382): to a slice or host memory, or to another core's block;
a copy engine's goes through the comparator of its pair (R384). The clk after which it may go where its bucket has no unit for it, and
none where the place is the engine's own core's. -/
def State.engineRequest (s : State) (e : EngWord) (w : Wg) (kind : OpKind) (p : Place) (k : Nat) : Option (State ⊕ Nat) :=
  let send := fun (phase addr : Nat) (pa : Option Nat) =>
    match s.unitWait e.core with
    | some d => Sum.inr d
    | none =>
      let o := { bareOp s kind e.core w.part w.node w.ctx e.id 0 [{ lineReq k addr pa [] with st := .travelling }] with phase := phase }
      .inl (((s.takeUnit e.core).addOp o).sendRouter (if e.isCopy then s.comparator w.part else 0) o.id k false)
  match p, s.farAddr e.core p with
  | .phys pa, _ => some (send 0 0 (some (pa / 128 * 128)))
  | _, some a => some (send 1 a none)
  | _, none => none

/-- A line or element is over, and a destination line of a scratchpad whose parts are all over becomes present, a copy's only when it was
written (R188, R274, R277, R409). The data of an overlay's lines are kept. -/
def State.endPart (s : State) (e : EngWord) (w : Wg) (k : Nat) (wrote : Bool) : State :=
  let s := s.modWord e.id fun x =>
    { x with live := x.live.filter fun p => p.k ≠ k
             doneLines := x.doneLines ++ [k]
             got := if e.kind == .ovl || e.kind == .coll then x.got else x.got.filter fun d => d.1 ≠ k }
  if (e.kind != .cpy ∧ e.kind != .gth) ∨ (e.dsp ≠ 1 ∧ e.dsp ≠ 2) ∨ (e.kind == .cpy && !wrote) then s
  else
    let line := e.dstAt w k / 128
    let rest := (List.range e.total).any fun n =>
      n ≠ k && !decide (n ∈ e.doneLines) && e.dstAt w n / 128 = line
    if rest then s
    else match s.placeOf w e.dsp (line * 128) with
      | .scratch c b => s.setPresent c [b / 128]
      | _ => s

/-- A line's data written at its place, with the status that it reports (R271). -/
def State.putPart (s : State) (e : EngWord) (w : Wg) (k : Nat) (q : Place) (l : List Word32) : State :=
  let r := s.placeWrite q l
  let s := if r.2 = 0 then r.1 else r.1.engineCause e.id k r.2 (r.2 = 4 && e.kind != .gth)
  s.endPart e w k (r.2 = 0)

/-- The words of a line or element among the data read for it. -/
def EngWord.wordsOf (e : EngWord) (k : Nat) (l : List Word32) : List Word32 :=
  if e.kind == .coll then l else (l.drop (e.srcAt k % 128 / 4)).take (e.size / 4)

/-- A line or element with its data is written: at once in the engine's own core, else by a request, at whose service it is applied
(R274, R275, R277, R279). -/
def State.writePart (s : State) (e : EngWord) (w : Wg) (p : EngPart) (l : List Word32) : State :=
  let q := s.dstPlace e w p
  match s.engineRequest e w .put q p.k with
  | some (.inl s) => s.modLive e.id p.k fun x => { x with sent := true }
  | some (.inr d) => (s.countDeny e.core true).post d (e.writeStep p.k)
  | none => s.putPart e w p.k q (e.wordsOf p.k l)

/-- A read leaves the channel (R274, R277); its data comes 5 clk later from the engine's own core, and its write 2 clk after it (R280). -/
def State.readPart (s : State) (e : EngWord) (w : Wg) (p : EngPart) : State :=
  let q := s.srcPlace e w p
  let left := fun (s : State) => s.modLive e.id p.k fun _ => { p with sent := true }
  match s.engineRequest e w .fetch q p.k with
  | some (.inl s) => left s
  | some (.inr d) => ((s.modLive e.id p.k fun _ => p).countDeny e.core true).post d (.gatherElement e.id p.k)
  | none =>
    let data := (s.placeRead q 32).getD []
    ({ (left s).modWord e.id fun x => { x with got := x.got ++ [(p.k, data)] } with free := s.free + 32 }).post 7 (e.writeStep p.k)

/-- A line or element begins, or begins again after a walk: its read leaves, or a coll's write. -/
def State.startPart (s : State) (e : EngWord) (w : Wg) (k : Nat) : State :=
  match e.part? k with
  | none => s
  | some p =>
    match s.partLook e w p with
    | .inr s => s
    | .inl p =>
      if e.kind == .coll && decide (e.reads ≤ k) then
        match e.got.find? fun d => d.1 = k with
        | some d => (s.modLive e.id k fun _ => p).writePart e w p d.2
        | none => s
      else s.readPart e w p

/-- Whether a copy word's read has to wait for the next clk: its engine reads at most two lines in a clk, those of the words
that began first, at equal times of the lowest channels (R407). -/
def State.engineBusy (s : State) (e : EngWord) : Bool :=
  let first := fun (x : EngWord) => decide (x.begun < e.begun) || (x.begun = e.begun && decide (x.chan.getD 0 < e.chan.getD 0))
  let due := fun (x : EngWord) => s.agenda.any fun a => decide (a.1 ≤ s.clk) && match a.2 with
    | .engineWordStart word 0 => word = x.id
    | .gatherElement word k => word = x.id && x.waits k
    | _ => false
  let mine := s.words.filter fun x => x.id ≠ e.id && x.chan.isSome && x.isCopy && coreQuad x.core = coreQuad e.core
  decide ((mine.filter fun x => x.readAt = s.clk || (first x && due x)).length ≥ 2)

/-- Whether a word's channel reads in this clk already, or its engine has no read left for it (R277, R280, R407). -/
def State.readBusy (s : State) (e : EngWord) : Bool := (e.chan.isSome && e.readAt = s.clk) || (e.isCopy && s.engineBusy e)

/-- Whether a channel's replay store has none of its 16 entries free (R267): its bounced requests, and its lines and elements that wait for
a walk, a page or their bucket (R274, R382, R409); nothing new begins then (log entry 84). -/
def State.storeFull (s : State) (e : EngWord) : Bool :=
  let bounced := s.ops.filter fun o => o.kind.isEngine && o.a = e.id && o.lines.any fun l => l.st == .bounced
  decide (bounced.length + (e.live.filter fun p => !p.sent).length ≥ 16)

/-- The next line or element of a word begins. -/
def State.beginPart (s : State) (e : EngWord) (w : Wg) : State :=
  let add := fun (x : EngWord) =>
    { x with next := e.next + 1, readAt := s.clk, live := x.live ++ [{ k := e.next, src := none, dst := none, sent := false }] }
  (s.modWord e.id add).startPart (add e) w e.next

/-- A copy or a collective that has sent a line goes on with the next (R274, R280): one line a clk, of a collective one in 2 clk. -/
def State.goOn (s : State) (word k : Nat) : State :=
  match s.word? word with
  | some x =>
    if x.kind == .gth || x.waits k || decide (x.next ≥ x.total) then s else s.wakeWord (if x.kind == .coll then 2 else 1) word
  | none => s

/-- The next read of a word's channel (R274, R277): ascending, one a clk; a word that is cancelled or stopped reads no more, and a gather
goes on past an element that waits. An element whose address is not canonical is skipped. -/
def State.nextRead (s : State) (e : EngWord) (w : Wg) : State :=
  let again := s.agenda.any fun a => decide (a.1 ≤ s.clk) && match a.2 with
    | .gatherElement word k => word = e.id && e.waits k
    | _ => false
  if e.cancel || e.stop || decide (e.next ≥ e.total) then s.wordOver e.id
  else if s.readBusy e || again || s.storeFull e then s.wakeWord 1 e.id
  else if e.kind == .gth then
    let k := e.next
    let s := if canonical (e.srcAt k) then s.beginPart e w
      else (((s.modWord e.id fun x => { x with next := k + 1, readAt := s.clk }).engineCause e.id k 4 false).endPart e w k false).wordOver e.id
    if k + 1 < e.total then s.wakeWord 1 e.id else s
  else (s.beginPart e w).goOn e.id e.next

/-- A line or element whose data is there is written, or its word ends ACCESS (R271, R274); the data of an overlay's and of a coll's
sources are kept. -/
def State.transfer (s : State) (e : EngWord) (w : Wg) (p : EngPart) : State :=
  match s.ops.find? fun o => o.kind == .put && o.a = e.id && o.lines.any fun l => l.line = p.k with
  | some o =>
    if o.lines.any fun l => l.st == .serving then
      match e.got.find? fun d => d.1 = p.k with
      | some d => (s.dropOp o.id).putPart e w p.k (s.dstPlace e w p) (e.wordsOf p.k d.2)
      | none => s.dropOp o.id
    else s
  | none =>
    match e.got.find? fun d => d.1 = p.k with
    | none => s
    | some d =>
      if d.2 = [] then
        if e.fillsSlot then s.killWg w.id (e.srcAt p.k) none
        else (s.engineCause e.id p.k 4 (e.kind != .gth)).endPart e w p.k false
      else if e.kind == .ovl || (e.kind == .coll && decide (p.k < e.reads)) then s.endPart e w p.k true
      else s.writePart e w p d.2

/-! ### Overlay loads (R276) -/

/-- The condition under which threads wait for an engine word. -/
def wordEnd (id : Nat) : PCond := .drained [] [id] [] 0

/-- Whether a thread of the core other than those that issued a word stands in a frame, a workgroup placed there is about to start
in it, or another load fills it (R276). -/
def State.frameTaken (s : State) (e : EngWord) (f : Nat) : Bool :=
  ((s.onCore e.core).any fun w => (List.range w.threads.length).any fun t => match w.thread? t with
      | some x => !x.exited && x.pc.frame.toNat = f && !(w.id = e.wg && decide (t ∈ e.threads))
      | none => false)
    || s.frameClaimed e.core f none
    || s.words.any fun x => x.id ≠ e.id && x.core = e.core && x.ctl % 2 = f && x.chan.isSome && x.loading

/-- An overlay load looks up its overlay and begins once its frame is free: the frame holds no overlay while it is written, and the
overlay's lines are read as a copy's. -/
def State.loadOverlay (s : State) (e : EngWord) (w : Wg) : State :=
  match s.grid? w.grid with
  | none => s
  | some g =>
    let f := e.ctl % 2
    if e.loading || e.stop then s
    else match s.overlayOf e.core g e.src with
      | .inr (va, _, _) => s.startWalk e.core w.ctx va 0 (.element e.id 0)
      | .inl (va, len) =>
        if s.frameTaken e f then s.wakeWord 1 e.id
        else
          let n := (len + 127) / 128
          let begin_ := fun (x : EngWord) => { x with dst := va, total := n, ctl := x.ctl % 2 ^ 32 + (2 ^ 31 + len) * 2 ^ 32 }
          ((s.setFrame e.core f Frame.reset).modWord e.id begin_).nextRead (begin_ e) w

/-- The threads that wait for an ovl with GO. -/
def State.goThreads (s : State) (e : EngWord) : List Nat :=
  match s.wg? e.wg with
  | some w => (List.range w.threads.length).filter fun t => match w.thread? t with
    | some x => x.mark = some e.id && x.wait == .parked (wordEnd e.id)
    | none => false
  | none => []

/-- The end of an ovl (R276): its frame holds the overlay, or none; with GO the threads go on at (F, ENTRY) or take MEMFAULT. -/
def State.overlayDone (s : State) (e : EngWord) (status : Nat) : State :=
  let f := e.ctl % 2
  let code := ((sortBy (fun (d : Nat × List Word32) => d.1) e.got).flatMap fun d => d.2).take (e.ovlBytes / 4)
  let loaded := match s.wg? e.wg with
    | some w => (s.grid? w.grid).map fun (g : Grid) => ({ ovl := some (g.kernel, e.src), code := code, ready := s.clk } : Frame)
    | none => none
  let ok := status = 0 && loaded.isSome && e.loading
  let frame : Frame := if ok then loaded.getD Frame.reset else Frame.reset
  let s := s.setFrame e.core f frame
  match s.goThreads e with
  | [] => s
  | t :: ts =>
    if ok then
      s.modWg e.wg fun w => w.modThreads (t :: ts) fun x => x.goto (pcOf (f = 1) (natBits e.ctl 31 16)) s.clk 1
    else
      let cause := if status = 5 then 4 else if status = 6 then 5 else 3
      match s.wg? e.wg with
      | none => s
      | some w =>
        let at_ := match w.thread? t with | some x => x.pc | none => { frame := false, word := 0 }
        (s.modWg e.wg fun w => w.faultReport (t :: ts) cause false ((t :: ts).map fun x => (x, e.src))).groupTrap e.wg
          (t :: ts) .memfault at_ at_

/-- ovl (R276): an overlay that its frame already holds completes the word at once; with GO the threads wait for the end. -/
def execOvl (g : BitVec 3) (w : Bool) (h : BitVec 4) (a b : BitVec 7) (s : State) : Host.Outcome State Fault Refusal :=
  withGroup s fun is wg =>
    if active is wg g = [] then s.retire is wg.id
    else
      let n := (uniSrc s is wg a.toNat).toNat
      let d := (uniSrc s is wg b.toNat).toNat
      let f := d % 2
      let go := natBit d 1
      let entry := natBits d 31 16
      let inF := is.threads.any fun t => match wg.thread? t with | some x => x.pc.frame.toNat = f | none => false
      if natBits d 15 2 ≠ 0 ∨ natBits d 63 32 ≠ 0 ∨ (go ∧ entry % 12 ≠ 0) ∨ (!go ∧ inF) ∨ (go ∧ is.chain = true) then
        s.trapHere is wg.id (trapping is wg g) .illop
      else
        match s.grid? wg.grid with
        | none => s.retire is wg.id
        | some gr =>
          if n > gr.novl then s.memFaultOnce is wg g .memfault 3 false n
          else if s.frameHas wg.core f gr.kernel n then
            match (s.core wg.core).freeEntry with
            | none => s.park is wg.id .engineRoom
            | some k =>
              let s := s.modCore wg.core fun c => c.setEntry k ((c.entryGen k + 1) % 65536) false
              let s := if w then s else s.setH is wg g h.toNat (.settled 2 0 0)
              let s := s.retire is wg.id
              if go then
                (s.modWg wg.id fun x => x.modThreads is.threads fun t => t.goto (pcOf (f = 1) entry) s.clk 1).ended .moved
              else s
          else
            let e := newWord s is wg .ovl 0 n (d % 2 ^ 32) 1
            if !s.engineRoom wg.core then s.park is wg.id .engineRoom
            else if go then
              let id := s.ids
              ((s.issueWord is wg g w h e).modWg wg.id fun x => x.modThreads is.threads fun t =>
                { t with pc := is.addr, wait := .parked (wordEnd id), since := s.clk, mark := some id }).ended .moved
            else s.issueWord is wg g w h e

/-! ### Collectives (R279) -/

/-- The number of a collective among those of its group. -/
def EngWord.collNum (e : EngWord) : Nat := e.aux / 64
/-- GID of a coll. -/
def EngWord.gid (e : EngWord) : Nat := natBits e.ctl 55 48

/-- The words of a collective, by rank: none where a participant's has not started. -/
def State.collWords (s : State) (w : Wg) (e : EngWord) : List (Option EngWord) :=
  (s.collMembers w e.gid).map fun m =>
    if m.2.1 ≠ s.boot.package then none
    else s.words.find? fun x => x.kind == .coll && x.gid = e.gid && x.collNum = e.collNum && x.chan.isSome
      && (match s.wg? x.wg with | some w => w.index = m.1 && w.part = m.2.2 && (s.groupOf w e.gid).isSome | none => false)

/-- A word of a collective ends with a status, and nothing more is transferred for it. -/
def State.endColl (s : State) (id status : Nat) : State :=
  ((s.dropParts id).modWord id fun x => { x with causes := x.causes ++ [(0, status)], stop := true }).post 0 (.engineWordComplete id)

/-- Every other participant's word of a collective ends ABORTED, that of a participant still to come too (R279). -/
def State.abortColl (s : State) (e : EngWord) : State :=
  match s.wg? e.wg with
  | some w => s.abortNumber (s.collMembers w e.gid) e.gid e.collNum e.id
  | none => s

/-- Whether a word's collective was aborted before the word began (R279). -/
def State.collAborted (s : State) (w : Wg) (e : EngWord) : Bool :=
  match s.part? w.part, s.grid? w.grid with
  | some p, some g => decide ((g.qcb, g.packet, e.gid, e.collNum) ∈ p.aborted)
  | _, _ => false

/-- Source and destination lines of a participant with P participants: their count, by kind (R279). -/
def EngWord.collSrc (e : EngWord) (p : Nat) : Nat := natBits e.ctl 30 0 / 128 * (if e.aux % 8 = 4 then p else 1)
def EngWord.collDst (e : EngWord) (p rank : Nat) : Nat :=
  match e.aux % 8 with
  | 1 => if rank = natBits e.ctl 47 36 then natBits e.ctl 30 0 / 128 else 0
  | 3 => natBits e.ctl 30 0 / 128 * p
  | _ => natBits e.ctl 30 0 / 128

/-- The levels of the tree over P ranks. -/
def treeLevels (p : Nat) : Nat := ((List.range 13).find? fun n => decide (p ≤ 2 ^ n)).getD 13

/-- The reduction over all ranks of one word (R113, R279). -/
def collReduce (e : EngWord) (vals : List Word32) : Word32 :=
  let f := fun (x y : Word32) =>
    let r := nodeOp plainMode (e.aux / 8 % 4) (if natBit e.aux 5 then 2 else 0) x y
    if natBit e.aux 5 && (Ieee.f32.val r.1.toNat).isNan then ((0x7FC00000 : Word32), r.2) else r
  match treeOver f (treeLevels vals.length) (2 ^ treeLevels vals.length) fun l => vals[l]? with
  | some r => if natBit e.aux 5 && (Ieee.f32.val r.1.toNat).isNan then 0x7FC00000 else r.1
  | none => 0

/-- The lines a participant receives (R279), given every rank's source lines. -/
def collResult (e : EngWord) (rank : Nat) (srcs : List (List (List Word32))) : List (List Word32) :=
  let n := natBits e.ctl 30 0 / 128
  let line := fun (r j : Nat) => (srcs.getD r []).getD j []
  let sum := fun (j : Nat) =>
    (List.range 32).map fun k => collReduce e ((List.range srcs.length).map fun r => (line r j).getD k 0)
  match e.aux % 8 with
  | 0 => (List.range n).map sum
  | 1 => if rank = natBits e.ctl 47 36 then (List.range n).map sum else []
  | 2 => (List.range n).map (line (natBits e.ctl 47 36))
  | 3 => (List.range (n * srcs.length)).map fun i => line (i / n) (i % n)
  | _ => (List.range n).map fun j => sum (rank * n + j)

/-- Whether a participant's word has the lines that it writes: the exchange counts as the last of its lines. -/
def EngWord.exchanged (e : EngWord) : Bool := decide (e.total - 1 ∈ e.doneLines)

/-- The exchange of a collective, once every participant has read its source: each goes on with the lines that it writes when the tree's
levels have been travelled, one way between its furthest participants each (R279, R280; log entry 84). -/
def State.exchange (s : State) (es : List EngWord) : State :=
  let p := es.length
  let full := es.map fun e => (sortBy (fun (d : Nat × List Word32) => d.1) e.got).map fun d => d.2
  let far := es.any fun x => es.any fun y => coreDie x.core ≠ coreDie y.core
  ((List.range p).zip es).foldl (fun (s : State) x =>
    let lines := collResult x.2 x.1 full
    let fill := fun (e : EngWord) =>
      { e with got := ((List.range lines.length).zip lines).map fun y => (e.reads + y.1, y.2), doneLines := e.doneLines ++ [e.total - 1] }
    (s.modWord x.2.id fill).post (treeLevels p * (if far then 60 else 20)) (.engineWordStart x.2.id 0)) s

/-- A participant that has read its source looks whether all have. -/
def State.tryExchange (s : State) (e : EngWord) (w : Wg) : State :=
  let es := s.collWords w e
  let ready := fun (x : Option EngWord) => match x with
    | some y => decide (y.total ≠ 0) && decide (y.doneLines.length = y.reads) && !y.exchanged && !y.stop
    | none => false
  if es.all ready then s.exchange (es.filterMap fun x => x) else s

/-- A collective all of whose participants have started begins; a mismatch ends it everywhere (R279). -/
def State.tryColl (s : State) (e : EngWord) (w : Wg) : State :=
  let all := s.collWords w e
  if all.any fun x => x.isNone then s
  else
    let es := all.filterMap fun x => x
    let key := fun (x : EngWord) => (x.aux % 64, natBits x.ctl 47 0)
    if es.any fun x => key x ≠ key e then es.foldl (fun (s : State) x => s.endColl x.id 9) s
    else
      let p := es.length
      ((List.range p).zip es).foldl (fun (s : State) x =>
        (s.modWord x.2.id fun y => { y with reads := y.collSrc p, total := y.collSrc p + y.collDst p x.1 + 1 }).post 0
          (.engineWordStart x.2.id 0)) s

/-- A participant's next line: its source read, the exchange awaited, and what it receives written (R279). -/
def State.nextColl (s : State) (e : EngWord) (w : Wg) : State :=
  if e.stop || decide (e.total = 0) then s
  else if !e.exchanged && decide (e.reads ≤ e.next) then s.tryExchange e w
  else if e.next + 1 ≥ e.total then s.wordOver e.id
  else if e.live.any fun p => !p.sent then s
  else if s.storeFull e then s.wakeWord 1 e.id
  else (s.beginPart e w).goOn e.id e.next

/-- collectiveAbort (R279): an abort notice, or a silent participant's timeout, ends the group's collectives at every
participant. -/
def execCollectiveAbort (part gid : Nat) (s : State) : Host.Outcome State Fault Refusal :=
  let mine := s.words.filterMap fun e => match s.wg? e.wg with
    | some w => if e.kind == .coll && e.gid = gid && w.part = part then some (e.collNum, s.collMembers w gid) else none
    | none => none
  let all := mine.foldl (fun (acc : List (Nat × List (Nat × Nat × Nat))) x => if x ∈ acc then acc else acc ++ [x]) []
  .next (all.foldl (fun (s : State) x => s.abortNumber x.2 gid x.1 0) s)

/-! ### The steps of a word -/

/-- A word takes its channel (R407): presence of its scratchpad lines is cleared, and its first read starts. -/
def State.startWord (s : State) (e : EngWord) (w : Wg) (chan : Nat) : State :=
  let e := { e with chan := some chan, begun := s.clk }
  let s := s.modWord e.id fun x => { x with chan := some chan, begun := s.clk }
  match e.kind with
  | .ovl => s.loadOverlay e w
  | .coll => if s.collAborted w e then s.endColl e.id 7 else s.tryColl e w
  | _ =>
    let lines := if e.kind == .cpyw || decide (e.dsp = 0) || decide (e.dsp = 3) then []
      else dedup ((List.range e.total).map fun k => e.dstAt w k / 128)
    let s := lines.foldl (fun (s : State) l => match s.placeOf w e.dsp (l * 128) with
      | .scratch c b => s.setAbsent c [b / 128]
      | _ => s) s
    s.nextRead e w

/-- Words that wait for a channel of a word's engine start in their order, up to that word, each on the lowest free channel, or on the
one that it is given (R407). -/
def State.startWaiting (s : State) (e : EngWord) (chan : Nat) : State :=
  let upto := (s.waitingWords e).takeWhile fun x => x.id ≠ e.id
  (upto ++ [e]).foldl (fun (s : State) x =>
    if s.clk < x.issued + 4 then s
    else
      let free := s.freeChannels x
      match s.wg? x.wg, (if x.id = e.id ∧ chan ∈ free ∧ chan ≠ 0 then some chan else free.head?) with
      | some w, some c => s.startWord x w c
      | _, _ => s) s

/-- Whether a word's channel is frozen (R379). -/
def State.chanFrozen (s : State) (e : EngWord) : Bool := match e.chan with | some c => decide (c ∈ s.frozenChans) | none => false

/-- engineWordStart (R268, R272, R407): a queued word gets the lowest free channel when it is its turn; a word that runs reads
its next line or element; a cancelled one ends. -/
def execEngineWordStart (word chan : Nat) (s : State) : Host.Outcome State Fault Refusal :=
  match s.word? word with
  | none => .next s
  | some e =>
    match s.wg? e.wg with
    | none => .next s
    | some w =>
      if e.cancel && e.kind == .coll then .next ((s.endColl word 1).abortColl e)
      else if e.chan.isNone then .next (if e.cancel then s.post 2 (.engineWordComplete word) else s.startWaiting e chan)
      else if s.chanFrozen e then .next s
      else match e.kind with
        | .ovl => .next (if e.loading then s.nextRead e w else s.loadOverlay e w)
        | .coll => .next (s.nextColl e w)
        | _ => .next (s.nextRead e w)

/-- A line or element goes on: it is read again after a walk, one read a clk of its channel (R277, R280), or it is written; a coll whose
line ended in ACCESS ends for every participant (R279). -/
def State.partStep (s : State) (e : EngWord) (w : Wg) (k : Nat) : State :=
  match e.part? k with
  | none => s
  | some p =>
    if p.sent then
      let s := s.transfer e w p
      match e.kind, s.word? e.id with
      | .coll, some x =>
        if decide (k < e.reads) && x.stop then ((s.dropParts e.id).wordOver e.id).abortColl e
        else (if !x.exchanged && decide (x.reads ≤ x.next) then s.tryExchange x w else s).wordOver e.id
      | _, _ => s.wordOver e.id
    else if s.readBusy e then s.post 1 (.gatherElement e.id k)
    else ((s.modWord e.id fun x => { x with readAt := s.clk }).startPart { e with readAt := s.clk } w k).goOn e.id k

/-- engineLineWrite (R274, R275, R279): a line's data is written; that of a word that is gone goes nowhere. -/
def execEngineLineWrite (word line : Nat) (s : State) : Host.Outcome State Fault Refusal :=
  match s.word? word with
  | none => .next { s with ops := s.ops.filter fun o => !(o.kind == .put && o.a = word && o.lines.any fun l => l.st == .serving) }
  | some e =>
    match s.wg? e.wg with
    | none => .next s
    | some w => .next (if s.chanFrozen e then s.post 64 (.engineLineWrite word line) else s.partStep e w line)

/-- gatherElement (R277, R409): an element that has been read is written; one whose walk has ended reissues, or is skipped when
it was refused. A copy's line, an overlay and a collective go on in the same way, and stop when they were refused (R271). -/
def execGatherElement (word lane : Nat) (s : State) : Host.Outcome State Fault Refusal :=
  match s.word? word with
  | none => .next s
  | some e =>
    match s.wg? e.wg with
    | none => .next s
    | some w =>
      let denied := e.causes.any fun c => c.1 = lane && (decide (c.2 = 5) || decide (c.2 = 6))
      if s.chanFrozen e then .next (s.post 64 (.gatherElement word lane))
      else if denied && (e.waits lane || (e.kind == .ovl && !e.loading)) then
        let s := (s.modWord word fun x => { x with stop := x.stop || x.kind != .gth }).endPart e w lane false
        .next (if e.kind == .coll then ((s.dropParts word).wordOver word).abortColl e else s.wordOver word)
      else if e.kind == .ovl && !e.loading then .next (s.loadOverlay e w)
      else .next (s.partStep e w lane)

/-- Whether a cancel cut a word short (R272). -/
def EngWord.cut (e : EngWord) : Bool := e.cancel && (e.kind == .coll || decide (e.doneLines.length < e.total))

/-- The status a word completes with: the first cause in line order, CANCELLED for one that a cancel cut short, else OK. -/
def EngWord.finalStatus (e : EngWord) : Nat :=
  match sortBy (fun (c : Nat × Nat) => c.1) e.causes with
  | c :: _ => c.2
  | [] => if e.cut then 1 else 0

/-- engineWordComplete (R262, R271, R272, R274): every register that refers to the entry is settled, the entry freed, a
completion flit sent, and a word that waits takes the channel in the next clk. The node of a word whose data an uncorrectable error
withheld is then rolled back (R372). -/
def execEngineWordComplete (word : Nat) (s : State) : Host.Outcome State Fault Refusal :=
  match s.word? word with
  | none => .next s
  | some e =>
    let status := e.finalStatus
    let state := if e.cut then 3 else 2
    let s := if e.kind == .ovl then s.overlayDone e status else s
    let gen := (s.core e.core).entryGen e.entry
    let settle := fun (h : HReg) => if h = .ref e.entry gen then HReg.settled state status word else h
    let settleWg := fun (w : Wg) =>
      if w.core = e.core then { w with crews := w.crews.map fun c => { c with h := c.h.map settle } } else w
    let s := { s with words := s.words.filter fun x => x.id ≠ word, wgs := s.wgs.map settleWg }
    let s := s.modCore e.core fun k => k.setEntry e.entry ((gen + 1) % 65536) false
    let s := if e.kind == .coll ∧ (status ≠ 0 ∨ state = 3) then s.modWg e.wg fun w => { w with collFailed := true } else s
    let s := match s.wg? e.wg, e.sigTx with
      | some w, some n => s.sendFlit w e.crew n (BitVec.ofNat 64 (state * 2 ^ 32 + status * 2 ^ 40)) (some word)
      | _, _ => s
    let s := (s.waitingWords e).foldl (fun (s : State) x => s.wakeWord (max 1 (x.issued + 4 - s.clk)) x.id) s
    let s := s.finishDue e.wg
    .next (match e.bad, s.corePart e.core with
      | some line, some p => s.uncorrectable p.num e.node line
      | _, _ => s)

end Sys2Proof.Machine
end

