-- ==== Sys2Proof/WellFormed.lean ====
section
/-! DEFINITION. Well-formed instructions: those that stand for a word, every field in its class and range (R27, R30, R49). -/

namespace Sys2Proof

/-- A well-formed instruction: it has a word, and its fields are the ones that its row allows. -/
def WellFormed (i : Instr) : Prop := (encode i).isSome = true ∧ i.fieldsOk = true

end Sys2Proof
end

