-- ==== Sys2Proof/Machine/Shape.lean ====
section
/-! DEFINITION. What the picker has to know of a word before it issues: its pipe (R34), chain bit, guard, the registers it
names, whether it holds threads of one crew only (R83), and where it may stand (R47, R85). -/

namespace Sys2Proof.Machine

/-- A pipe of R34; rep issues on none. -/
inductive Pipe where
  | s
  | v
  | x
  | m
  | c
  | none
deriving DecidableEq, Repr

/-- What decode tells of a word. Registers are numbered v n as n, s n as 64 + n, h n as 128 + n and p n as 160 + n; sels are
its source selectors, regs registers it reads besides, dst the registers its D names, written back when wb. -/
structure Shape where
  pipe : Pipe
  chain : Bool
  guard : BitVec 3
  sels : List Nat
  regs : List Nat
  dst : List Nat
  wb : Bool
  control : Bool
  crew : Bool
deriving DecidableEq, Repr

def sNum (d : BitVec 5) : Nat := 64 + d.toNat
def hNum (h : BitVec 4) : Nat := 128 + h.toNat
def pNum (p : BitVec 3) : Nat := 160 + p.toNat

/-- n v registers from a selector (R137, R138). -/
def regsFrom (a : BitVec 7) (n : Nat) : List Nat := (List.range n).map fun k => a.toNat + k
/-- The high half of a per-lane address pair (R241). -/
def addrHigh (a : BitVec 7) : List Nat := if a.toNat < 64 then [a.toNat + 1] else []

/-- A shape that is no control word and may hold several crews. -/
def mk (pipe : Pipe) (chain : Bool) (guard : BitVec 3) (sels : List (BitVec 7)) (regs dst : List Nat) (wb : Bool) : Shape :=
  { pipe := pipe, chain := chain, guard := guard, sels := sels.map fun a => a.toNat, regs := regs, dst := dst, wb := wb,
    control := false, crew := false }

/-- The shape of a word. -/
def shape : Instr → Shape
  | .sadd c g w d a b => { mk .s c g [a, b] [] [sNum d] (!w) with crew := true }
  | .ssub c g w d a b => { mk .s c g [a, b] [] [sNum d] (!w) with crew := true }
  | .smul c g w d a b => { mk .s c g [a, b] [] [sNum d] (!w) with crew := true }
  | .smulh c g w d a b => { mk .s c g [a, b] [] [sNum d] (!w) with crew := true }
  | .sdiv c g w d a b => { mk .s c g [a, b] [] [sNum d] (!w) with crew := true }
  | .sand c g w d a b => { mk .s c g [a, b] [] [sNum d] (!w) with crew := true }
  | .sor c g w d a b => { mk .s c g [a, b] [] [sNum d] (!w) with crew := true }
  | .sxor c g w d a b => { mk .s c g [a, b] [] [sNum d] (!w) with crew := true }
  | .sshl c g w d a b => { mk .s c g [a, b] [] [sNum d] (!w) with crew := true }
  | .sshr c g w d a b => { mk .s c g [a, b] [] [sNum d] (!w) with crew := true }
  | .ssra c g w d a b => { mk .s c g [a, b] [] [sNum d] (!w) with crew := true }
  | .smin c g w d a b => { mk .s c g [a, b] [] [sNum d] (!w) with crew := true }
  | .smax c g w d a b => { mk .s c g [a, b] [] [sNum d] (!w) with crew := true }
  | .ssel c g w d a b => { mk .s c g [a, b] [sNum d] [sNum d] (!w) with crew := true }
  | .scmp c g w _ p a b => { mk .s c g [a, b] [] [pNum p] (!w) with crew := true }
  | .smov c g w d a => { mk .s c g [a] [] [sNum d] (!w) with crew := true }
  | .sclz c g w d a => { mk .s c g [a] [] [sNum d] (!w) with crew := true }
  | .spop c g w d a => { mk .s c g [a] [] [sNum d] (!w) with crew := true }
  | .sli c g w d _ => { mk .s c g [] [] [sNum d] (!w) with crew := true }
  | .slitLo c g w d a => { mk .s c g [a] [] [sNum d] (!w) with crew := true }
  | .slitHi c g w d a => { mk .s c g [a] [sNum d] [sNum d] (!w) with crew := true }
  | .saddr c g w d a b => { mk .s c g [a, b] [] [sNum d] (!w) with crew := true }
  | .saddImm c g w d a _ => { mk .s c g [a] [] [sNum d] (!w) with crew := true }
  | .scmpImm c g w _ p a _ => { mk .s c g [a] [] [pNum p] (!w) with crew := true }
  | .vaddI32 c g w d a b => mk .v c g [a, b] [] [d.toNat] (!w)
  | .vaddF32 c g w d a b => mk .v c g [a, b] [] [d.toNat] (!w)
  | .vsubI32 c g w d a b => mk .v c g [a, b] [] [d.toNat] (!w)
  | .vsubF32 c g w d a b => mk .v c g [a, b] [] [d.toNat] (!w)
  | .vmulI32 c g w d a b => mk .v c g [a, b] [] [d.toNat] (!w)
  | .vmulF32 c g w d a b => mk .v c g [a, b] [] [d.toNat] (!w)
  | .vmulhI32 c g w d a b => mk .v c g [a, b] [] [d.toNat] (!w)
  | .vmulhN32 c g w d a b => mk .v c g [a, b] [] [d.toNat] (!w)
  | .vminI32 c g w d a b => mk .v c g [a, b] [] [d.toNat] (!w)
  | .vminN32 c g w d a b => mk .v c g [a, b] [] [d.toNat] (!w)
  | .vminF32 c g w d a b => mk .v c g [a, b] [] [d.toNat] (!w)
  | .vmaxI32 c g w d a b => mk .v c g [a, b] [] [d.toNat] (!w)
  | .vmaxN32 c g w d a b => mk .v c g [a, b] [] [d.toNat] (!w)
  | .vmaxF32 c g w d a b => mk .v c g [a, b] [] [d.toNat] (!w)
  | .vfmaF32 c g w d a b => mk .v c g [a, b] [d.toNat] [d.toNat] (!w)
  | .vmadI32 c g w d a b => mk .v c g [a, b] [d.toNat] [d.toNat] (!w)
  | .vand c g w d a b => mk .v c g [a, b] [] [d.toNat] (!w)
  | .vor c g w d a b => mk .v c g [a, b] [] [d.toNat] (!w)
  | .vxor c g w d a b => mk .v c g [a, b] [] [d.toNat] (!w)
  | .vshl c g w d a b => mk .v c g [a, b] [] [d.toNat] (!w)
  | .vshr c g w d a b => mk .v c g [a, b] [] [d.toNat] (!w)
  | .vsra c g w d a b => mk .v c g [a, b] [] [d.toNat] (!w)
  | .vsel c g w d a b => mk .v c g [a, b] [] [d.toNat] (!w)
  | .vmov c g w d a => mk .v c g [a] [] [d.toNat] (!w)
  | .vabsI32 c g w d a => mk .v c g [a] [] [d.toNat] (!w)
  | .vabsF32 c g w d a => mk .v c g [a] [] [d.toNat] (!w)
  | .vnegI32 c g w d a => mk .v c g [a] [] [d.toNat] (!w)
  | .vnegF32 c g w d a => mk .v c g [a] [] [d.toNat] (!w)
  | .vclz c g w d a => mk .v c g [a] [] [d.toNat] (!w)
  | .vpop c g w d a => mk .v c g [a] [] [d.toNat] (!w)
  | .frcp c g w d a => mk .v c g [a] [] [d.toNat] (!w)
  | .frsq c g w d a => mk .v c g [a] [] [d.toNat] (!w)
  | .fsqrt c g w d a => mk .v c g [a] [] [d.toNat] (!w)
  | .fexp2 c g w d a => mk .v c g [a] [] [d.toNat] (!w)
  | .flog2 c g w d a => mk .v c g [a] [] [d.toNat] (!w)
  | .fsin c g w d a => mk .v c g [a] [] [d.toNat] (!w)
  | .fcos c g w d a => mk .v c g [a] [] [d.toNat] (!w)
  | .ftanh c g w d a => mk .v c g [a] [] [d.toNat] (!w)
  | .vcmpI32 c g w _ p a b => mk .v c g [a, b] [] [pNum p] (!w)
  | .vcmpN32 c g w _ p a b => mk .v c g [a, b] [] [pNum p] (!w)
  | .vcmpF32 c g w _ p a b => mk .v c g [a, b] [] [pNum p] (!w)
  | .vclampI32 c g w d a b => mk .v c g [a, b] [d.toNat] [d.toNat] (!w)
  | .vclampF32 c g w d a b => mk .v c g [a, b] [d.toNat] [d.toNat] (!w)
  | .rep _ _ _ _ _ => mk .none false 7 [] [] [] true
  | .xshuf c g w d a b => { mk .x c g [a, b] [] [d.toNat] (!w) with crew := true }
  | .xrot c g w d a b => { mk .x c g [a, b] [] [d.toNat] (!w) with crew := true }
  | .xbcast c g w d a b => { mk .x c g [a, b] [] [d.toNat] (!w) with crew := true }
  | .xfirst c g w d a b => { mk .x c g [a, b] [] [sNum d] (!w) with crew := true }
  | .xvote c g w d a _ => { mk .x c g [a] [] [sNum d] (!w) with crew := true }
  | .xreduce c g w d a _ _ => { mk .x c g [a] [] [d.toNat] (!w) with crew := true }
  | .xscan c g w d a _ _ _ => { mk .x c g [a] [] [d.toNat] (!w) with crew := true }
  | .xcount c g w d a b => { mk .x c g [a, b] [] [d.toNat] (!w) with crew := true }
  | .cvtEnc c g w d a _ _ => mk .v c g [a] [] [d.toNat] (!w)
  | .cvtDec c g w d a _ _ => mk .v c g [a] [] [d.toNat] (!w)
  | .cvtsEnc c g w d a _ _ => mk .v c g [a] [] [d.toNat] (!w)
  | .cvtsDec c g w d a _ _ => mk .v c g [a] [] [d.toNat] (!w)
  | .plpack c g w d a _ => mk .v c g [a] (regsFrom a 8) [d.toNat] (!w)
  | .plunpack c g w d a p _ => mk .v c g [a] (regsFrom a (p.toNat + 1)) [d.toNat] (!w)
  | .plane c g w d a _ _ => mk .v c g [a] [] [d.toNat] (!w)
  | .fmtq c g w d _ _ => mk .v c g [] [] [d.toNat] (!w)
  | .mclaim c g w p a _ => mk .m c g [a] [] [pNum p] (!w)
  | .mrelease c g a _ => mk .m c g [a] [] [] true
  | .mload c g d a _ => mk .m c g [a] [d.toNat] [] true
  | .mzero c g _ _ _ => mk .m c g [] [] [] true
  | .mma c g _ _ a _ _ _ _ => mk .m c g [a] [] [] true
  | .mdrain c g _ _ a _ _ _ => mk .m c g [a] [] [] true
  | .mchk c g w p _ _ => mk .m c g [] [] [pNum p] (!w)
  | .mheat c g a _ => mk .m c g [a] [] [] true
  | .mheatOff c g _ => mk .m c g [] [] [] true
  | .mwait c g _ _ => mk .m c g [] [] [] true
  | .ld c g w d a b => mk .m c g [a, b] [] [d.toNat] (!w)
  | .st c g d a b => mk .m c g [a, b] [d.toNat] [] true
  | .lds c g w d a b => mk .m c g [a, b] [] [d.toNat] (!w)
  | .sts c g d a b => mk .m c g [a, b] [d.toNat] [] true
  | .ldx c g w d a b => mk .m c g [a, b] [] [d.toNat] (!w)
  | .stx c g d a b => mk .m c g [a, b] [d.toNat] [] true
  | .ldw c g w d a b => mk .m c g [a, b] [] [d.toNat] (!w)
  | .stw c g d a b => mk .m c g [a, b] [d.toNat] [] true
  | .pres c g _ a => mk .m c g [a] [] [] true
  | .seal c g n => mk .m c g [] [sNum n, sNum n + 1] [] true
  | .unseal c g n => mk .m c g [] [sNum n, sNum n + 1] [] true
  | .pref c g n a _ => mk .m c g [a] [sNum n] [] true
  | .bind c g n a => mk .m c g [a] [sNum n, sNum n + 1] [] true
  | .unbind c g n a => mk .m c g [a] [sNum n, sNum n + 1] [] true
  | .acq c g a _ => mk .m c g [a] [] [] true
  | .rel c g a _ => mk .m c g [a] [] [] true
  | .chkpt c g n a => mk .m c g [a] [sNum n] [] true
  | .logq c g w d a => mk .m c g [a] [] [sNum d] (!w)
  | .fence c g _ => mk .m c g [] [] [] true
  | .xfence c g _ _ _ => mk .m c g [] [] [] true
  | .aadd c g w d a _ => mk .m c g [a] (addrHigh a ++ [d.toNat]) [d.toNat] (!w)
  | .amin c g w d a _ => mk .m c g [a] (addrHigh a ++ [d.toNat]) [d.toNat] (!w)
  | .amax c g w d a _ => mk .m c g [a] (addrHigh a ++ [d.toNat]) [d.toNat] (!w)
  | .aand c g w d a => mk .m c g [a] (addrHigh a ++ [d.toNat]) [d.toNat] (!w)
  | .aor c g w d a => mk .m c g [a] (addrHigh a ++ [d.toNat]) [d.toNat] (!w)
  | .axor c g w d a => mk .m c g [a] (addrHigh a ++ [d.toNat]) [d.toNat] (!w)
  | .aswap c g w d a => mk .m c g [a] (addrHigh a ++ [d.toNat]) [d.toNat] (!w)
  | .acas c g w d a => mk .m c g [a] (addrHigh a ++ [d.toNat, d.toNat + 1]) [d.toNat] (!w)
  | .ainc c g w d a => mk .m c g [a] (addrHigh a ++ [d.toNat]) [d.toNat] (!w)
  | .radd c g d a _ => mk .m c g [a] (addrHigh a ++ [d.toNat]) [] true
  | .raddPf c g d a _ => mk .m c g [a] (addrHigh a ++ [d.toNat]) [] true
  | .raddFlush c g a => mk .m c g [a] (addrHigh a) [] true
  | .oadd c g d a b => mk .m c g [a, b] [d.toNat] [] true
  | .orinit c g n a b => mk .m c g [a, b] [sNum n] [] true
  | .br g _ => { mk .c false g [] [] [] true with control := true }
  | .brp g _ => { mk .c false g [] [] [] true with control := true }
  | .jmp g a => { mk .c false g [a] [] [] true with control := true }
  | .call g _ => { mk .c false g [] [] [] true with control := true }
  | .calli g a => { mk .c false g [a] [] [] true with control := true }
  | .ret g => { mk .c false g [] [] [] true with control := true }
  | .exit g => { mk .c false g [] [] [] true with control := true }
  | .yield g => { mk .c false g [] [] [] true with control := true }
  | .fwait c g h => mk .c c g [] [hNum h] [] true
  | .ftest c g w p h => mk .c c g [] [hNum h] [pNum p] (!w)
  | .fcancel c g h => mk .c c g [] [hNum h] [] true
  | .fmovHh c g w e h => mk .c c g [] [hNum h] [hNum e] (!w)
  | .fmovSh c g w d h => mk .c c g [] [hNum h] [sNum d] (!w)
  | .fmovHs c g w e a => mk .c c g [a] [] [hNum e] (!w)
  | .cpy c g w h a b => mk .m c g [a, b] [a.toNat + 1] [hNum h] (!w)
  | .cpyw c g w h a b => mk .m c g [a, b] [a.toNat + 1] [hNum h] (!w)
  | .ovl c g w h a b => mk .m c g [a, b] [] [hNum h] (!w)
  | .gth c g w h a b => mk .m c g [a, b] [a.toNat + 1, a.toNat + 2] [hNum h] (!w)
  | .coll c g w h a _ _ _ => mk .m c g [a] [a.toNat + 1, a.toNat + 2] [hNum h] (!w)
  | .rlink c g _ a => { mk .m c g [a] [] [] true with crew := true }
  | .rclose c g _ _ => { mk .m c g [] [] [] true with crew := true }
  | .spawn c g w d a b => mk .c c g [a, b] [a.toNat + 1, a.toNat + 2, a.toNat + 3] [sNum d] (!w)
  | .done c g w d a => mk .c c g [a] [] [sNum d] (!w)
  | .tbfull c g a => mk .c c g [a] [] [] true
  | .tbempty c g a => mk .c c g [a] [] [] true
  | .tbwait c g a => mk .c c g [a] [] [] true
  | .heatid c g w d a => mk .c c g [a] [] [sNum d] (!w)
  | .bar c g a _ => mk .c c g [a] [] [] true
  | .binit c g n a => mk .c c g [a] [sNum n] [] true
  | .barrive c g w d a _ => mk .c c g [a] [] [sNum d] (!w)
  | .bwait c g w d a _ => mk .c c g [a] [] [sNum d] (!w)
  | .btest c g w p a => mk .c c g [a] [] [pNum p] (!w)
  | .sysrd c g w d _ => { mk .c c g [] [] [sNum d] (!w) with crew := true }
  | .syswr c g d _ => { mk .c c g [] [sNum d] [] true with crew := true }
  | .caprd c g w d a => mk .c c g [a] [] [sNum d] (!w)
  | .tfence c g => mk .c c g [] [] [] true
  | .trap g a => { mk .c false g [a] [] [] true with crew := true }
  | .tret g => { mk .c false g [] [] [] true with crew := true }
  | .flagrd c g w d a => { mk .c c g [a] [] [sNum d] (!w) with crew := true }
  | .flagclr c g a => { mk .c c g [a] [] [] true with crew := true }
  | .ctxsave c g a => { mk .c c g [a] [] [] true with crew := true }
  | .ctxload c g a => { mk .c c g [a] [] [] true with crew := true }
  | .repeatIssue _ _ => mk .none false 7 [] [] [] true
  | .transmitRegisterWrite _ _ => mk .none false 7 [] [] [] true
  | .receiveRegisterRead _ _ _ => mk .none false 7 [] [] [] true
  | .repctlWrite _ => mk .none false 7 [] [] [] true
  | .parkEnd _ _ => mk .none false 7 [] [] [] true
  | .multiClkResultWrite _ _ => mk .none false 7 [] [] [] true
  | .loadReply _ _ => mk .none false 7 [] [] [] true
  | .sliceRequestArrival _ _ => mk .none false 7 [] [] [] true
  | .sliceHoldBoundExpiry _ _ => mk .none false 7 [] [] [] true
  | .hbmHoldBoundExpiry _ _ => mk .none false 7 [] [] [] true
  | .routerPacket _ _ _ _ => mk .none false 7 [] [] [] true
  | .bounceNotice _ _ _ => mk .none false 7 [] [] [] true
  | .replayReissue _ _ => mk .none false 7 [] [] [] true
  | .walkOutcome _ => mk .none false 7 [] [] [] true
  | .stage2FaultEntryWrite _ => mk .none false 7 [] [] [] true
  | .pageRequestMessage _ => mk .none false 7 [] [] [] true
  | .prgResponse _ _ _ => mk .none false 7 [] [] [] true
  | .stage2ReplyWrite _ => mk .none false 7 [] [] [] true
  | .pageReplyAtWalker _ _ => mk .none false 7 [] [] [] true
  | .pageFailureDelivery _ => mk .none false 7 [] [] [] true
  | .atsInvalidation _ _ => mk .none false 7 [] [] [] true
  | .cxlMemWrite _ _ => mk .none false 7 [] [] [] true
  | .cxlMemRead _ _ => mk .none false 7 [] [] [] true
  | .heatWindowRequest _ _ => mk .none false 7 [] [] [] true
  | .absenceNotice _ _ _ => mk .none false 7 [] [] [] true
  | .wakeNotice _ _ _ => mk .none false 7 [] [] [] true
  | .stxAcknowledge _ _ => mk .none false 7 [] [] [] true
  | .logBufferDrain _ => mk .none false 7 [] [] [] true
  | .logWaitExpiry _ => mk .none false 7 [] [] [] true
  | .releaseAtSlice _ => mk .none false 7 [] [] [] true
  | .acquireAtSlice _ => mk .none false 7 [] [] [] true
  | .releaseReply _ => mk .none false 7 [] [] [] true
  | .acquireReply _ => mk .none false 7 [] [] [] true
  | .nodeCommit _ _ => mk .none false 7 [] [] [] true
  | .compactorApply _ _ => mk .none false 7 [] [] [] true
  | .nodeRollback _ _ => mk .none false 7 [] [] [] true
  | .atomicAtSlice _ _ => mk .none false 7 [] [] [] true
  | .atomicReply _ _ => mk .none false 7 [] [] [] true
  | .replyAcknowledgeNotice _ _ => mk .none false 7 [] [] [] true
  | .joinWake _ _ => mk .none false 7 [] [] [] true
  | .waiterRegistration _ _ => mk .none false 7 [] [] [] true
  | .spawnEntry _ => mk .none false 7 [] [] [] true
  | .spawnStatus _ _ => mk .none false 7 [] [] [] true
  | .batonPlacement _ => mk .none false 7 [] [] [] true
  | .batonStart _ _ _ => mk .none false 7 [] [] [] true
  | .starterBegin _ _ => mk .none false 7 [] [] [] true
  | .heatReservation _ _ => mk .none false 7 [] [] [] true
  | .placementLevelAging _ _ => mk .none false 7 [] [] [] true
  | .batonFinish _ _ => mk .none false 7 [] [] [] true
  | .timeSliceExpiry _ => mk .none false 7 [] [] [] true
  | .crewVacate _ _ => mk .none false 7 [] [] [] true
  | .contextSave _ => mk .none false 7 [] [] [] true
  | .contextSpill _ => mk .none false 7 [] [] [] true
  | .batonResume _ _ _ => mk .none false 7 [] [] [] true
  | .engineWordStart _ _ => mk .none false 7 [] [] [] true
  | .engineLineWrite _ _ => mk .none false 7 [] [] [] true
  | .gatherElement _ _ => mk .none false 7 [] [] [] true
  | .engineWordComplete _ => mk .none false 7 [] [] [] true
  | .collectiveAbort _ _ => mk .none false 7 [] [] [] true
  | .relayFlitArrival _ => mk .none false 7 [] [] [] true
  | .relayAcknowledge _ _ => mk .none false 7 [] [] [] true
  | .relayResend _ => mk .none false 7 [] [] [] true
  | .barrierEpisodeRelease _ => mk .none false 7 [] [] [] true
  | .bwaitBoundExpiry _ _ _ => mk .none false 7 [] [] [] true
  | .macroOperationStart _ => mk .none false 7 [] [] [] true
  | .tokenRequest _ => mk .none false 7 [] [] [] true
  | .tokenServe _ => mk .none false 7 [] [] [] true
  | .tokenGrant _ => mk .none false 7 [] [] [] true
  | .mmaRowStep _ => mk .none false 7 [] [] [] true
  | .mmaComplete _ => mk .none false 7 [] [] [] true
  | .mzeroComplete _ => mk .none false 7 [] [] [] true
  | .checkComplete _ => mk .none false 7 [] [] [] true
  | .drainLineWrite _ _ => mk .none false 7 [] [] [] true
  | .drainComplete _ => mk .none false 7 [] [] [] true
  | .workgroupKill _ _ => mk .none false 7 [] [] [] true
  | .slotScrubComplete _ _ => mk .none false 7 [] [] [] true
  | .pacerCreditTick => mk .none false 7 [] [] [] true
  | .vfStep _ _ => mk .none false 7 [] [] [] true
  | .rampSlotStart => mk .none false 7 [] [] [] true
  | .pinnedReserveBuild _ _ => mk .none false 7 [] [] [] true
  | .notify _ _ _ => mk .none false 7 [] [] [] true
  | .destroyDrain _ _ _ => mk .none false 7 [] [] [] true
  | .destroyKill _ _ _ => mk .none false 7 [] [] [] true
  | .resume _ _ _ => mk .none false 7 [] [] [] true
  | .queueMap => mk .none false 7 [] [] [] true
  | .qcbLoad _ _ => mk .none false 7 [] [] [] true
  | .packetRead _ => mk .none false 7 [] [] [] true
  | .nop _ => mk .none false 7 [] [] [] true
  | .launch _ => mk .none false 7 [] [] [] true
  | .wait _ => mk .none false 7 [] [] [] true
  | .inval _ => mk .none false 7 [] [] [] true
  | .group _ => mk .none false 7 [] [] [] true
  | .preempt _ => mk .none false 7 [] [] [] true
  | .partCreate _ => mk .none false 7 [] [] [] true
  | .partDissolve _ => mk .none false 7 [] [] [] true
  | .packetComplete _ _ _ => mk .none false 7 [] [] [] true
  | .watchWake _ => mk .none false 7 [] [] [] true
  | .waitTimeout _ _ => mk .none false 7 [] [] [] true
  | .queuePendingAging _ => mk .none false 7 [] [] [] true
  | .eccError _ _ _ _ _ => mk .none false 7 [] [] [] true
  | .patrolRead _ _ => mk .none false 7 [] [] [] true
  | .refreshManagement _ _ _ => mk .none false 7 [] [] [] true
  | .idleFlit _ => mk .none false 7 [] [] [] true
  | .linkFailure _ => mk .none false 7 [] [] [] true
  | .switchFailure _ => mk .none false 7 [] [] [] true
  | .groupFailure _ => mk .none false 7 [] [] [] true
  | .namedFailure _ => mk .none false 7 [] [] [] true
  | .violation _ _ _ _ => mk .none false 7 [] [] [] true
  | .thaw => mk .none false 7 [] [] [] true
  | .kill => mk .none false 7 [] [] [] true
  | .acknowledge => mk .none false 7 [] [] [] true
  | .bucketFill _ => mk .none false 7 [] [] [] true
  | .inFieldTestDue _ => mk .none false 7 [] [] [] true
  | .inFieldTestSkip _ => mk .none false 7 [] [] [] true
  | .inFieldTestComplete _ _ => mk .none false 7 [] [] [] true
  | .comparatorMismatch _ _ => mk .none false 7 [] [] [] true
  | .functionLevelReset _ => mk .none false 7 [] [] [] true
  | .functionResetComplete _ => mk .none false 7 [] [] [] true
  | .vectorUnmask _ _ => mk .none false 7 [] [] [] true
  | .resetN _ => mk .none false 7 [] [] [] true
  | .pwrok _ => mk .none false 7 [] [] [] true
  | .vralertN => mk .none false 7 [] [] [] true
  | .telemetryReport _ _ _ _ => mk .none false 7 [] [] [] true
  | .boot => mk .none false 7 [] [] [] true
  | .hubRegisterWrite _ _ _ _ => mk .none false 7 [] [] [] true
  | .haledFlitArrival _ _ => mk .none false 7 [] [] [] true
  | .refresh _ _ _ => mk .none false 7 [] [] [] true
  | .hbmRequestArrival _ _ => mk .none false 7 [] [] [] true
  | .laneRepair _ _ => mk .none false 7 [] [] [] true
  | .atsTranslationCompletion _ _ _ _ => mk .none false 7 [] [] [] true
  | .flashWrite _ _ => mk .none false 7 [] [] [] true

/-- The registers a word writes back (R32, R36). -/
def Shape.writes (sh : Shape) : List Nat := if sh.wb then sh.dst else []

/-- Whether a word reads the literal behind it (R39). -/
def Shape.literal (sh : Shape) : Bool := sh.sels.any fun a => a = 127

/-- Whether every v register a word names is one of a thread's n (R85). -/
def Shape.inRegs (sh : Shape) (n : Nat) : Bool :=
  sh.sels.all (fun a => decide (a < n) || decide (64 ≤ a)) && (sh.regs ++ sh.dst).all fun r => decide (r < n) || decide (64 ≤ r)

/-- Whether a number names a register of the vector stream (R337). -/
def vectorReg (n : Nat) : Bool :=
  n = 1 || (decide (0x40 ≤ n) && decide (n ≤ 0x47)) || n = 0x50 || n = 0x54 || n = 0x5C
    || (decide (0x60 ≤ n) && decide (n ≤ 0x63)) || (decide (0x70 ≤ n) && decide (n ≤ 0x78)) || n = 0x80

/-- Whether a number names a register of the starter stream (R337). -/
def starterReg (n : Nat) : Bool :=
  n = 1 || (decide (0x43 ≤ n) && decide (n ≤ 0x47)) || (decide (0x50 ≤ n) && decide (n ≤ 0x5A))
    || (decide (0x5C ≤ n) && decide (n ≤ 0x62))

/-- The majors that the starter stream alone accepts (R47). -/
def starterOnly : Instr → Bool
  | .mclaim .. | .mrelease .. | .mzero .. | .mma .. | .mdrain .. | .mchk .. | .mheat .. | .mheatOff .. | .mwait .. => true
  | _ => false

/-- The majors and members that the starter stream accepts besides (R47). -/
def starterToo (i : Instr) : Bool :=
  (shape i).pipe == .s ||
    match i with
    | .fence .. | .br .. | .brp .. | .jmp .. | .call .. | .calli .. | .ret .. | .exit .. | .yield .. | .tbfull .. | .tbempty ..
    | .tbwait .. | .bar .. | .sysrd .. | .syswr .. | .caprd .. | .tfence .. | .trap .. | .tret .. | .flagrd .. | .flagclr .. => true
    | _ => false

/-- Whether a stream accepts a word, its selectors and its register number (R30, R45, R47). -/
def inStream (starter : Bool) (i : Instr) : Bool :=
  (if starter then
    (starterOnly i || starterToo i)
      && (shape i).sels.all fun a => (decide (64 ≤ a) && decide (a < 96)) || a = 100 || a = 101 || decide (104 ≤ a)
  else !starterOnly i)
  && match i with
    | .sysrd _ _ _ _ n => if starter then starterReg n.toNat else vectorReg n.toNat
    | .syswr _ _ _ n => if starter then starterReg n.toNat else vectorReg n.toNat
    | _ => true

/-- Whether the chip has the capability that a word needs (R135, R240). -/
def Caps.has (k : Caps) : Instr → Bool
  | .cvtEnc _ _ _ _ _ _ c => c != 7 || k.k4
  | .cvtDec _ _ _ _ _ _ c => c != 7 || k.k4
  | .raddPf .. => k.photo
  | .raddFlush .. => k.photo
  | _ => true

/-- Whether a word may issue in a stream of a workgroup with n v registers (R49). -/
def legal (k : Caps) (starter : Bool) (n : Nat) (i : Instr) : Bool :=
  i.fieldsOk && inStream starter i && (starter || (shape i).inRegs n) && k.has i

end Sys2Proof.Machine
end

