-- ==== Sys2Proof/Machine/System.lean ====
section
/-! DEFINITION. The system group (majors 0x7C to 0x7F): system registers (R336, R337), capability reads (R338, R393, R394),
flags and traps (R327 to R335), and context images (R341, R342). -/

namespace Sys2Proof.Machine

/-! ### Register images -/

/-- MSLOT of an array (R149). -/
def Core.mslot (k : Core) : Word32 :=
  let code := fun (x : Slot) => match x.state with | .free => 0 | .claimed => 1 | .full => 2 | .scrub => 3
  BitVec.ofNat 32 ((List.range 8).foldl (fun n i =>
    n + code (k.slot i) * 2 ^ (2 * i) + (decide ((k.slot i).readers > 0)).toNat * 2 ^ (16 + i)) 0)

/-- MARRAY of an array in a clk (R150): TOKEN from the clk of the grant (R346); NEXTC and NEXTROW move on in the clk after a row
step (R159). -/
def Core.marray (k : Core) (clk : Nat) : Word32 :=
  let next := if clk ≤ k.rowsAt.1 then k.rowsAt.2 else (k.nextc, k.nextrow)
  let waiting := match headOf k.queue with | some o => o.waiting || (k.asked && o.kind.isMma) | none => false
  BitVec.ofNat 32 (k.queue.length % 8 + (decide (k.token ≠ .none) && !k.asked).toNat * 8 + waiting.toNat * 16
    + (k.bank 0).int.toNat * 32 + (k.bank 1).int.toNat * 64 + next.1 % 16 * 128 + next.2 % 128 * 2048)

/-- RLSTAT of a crew (R281). -/
def Crew.rlstat (c : Crew) : Dbl :=
  let rx := fun (i : Nat) => c.rx.getD i Rx.reset
  let tx := fun (i : Nat) => c.tx.getD i Tx.reset
  BitVec.ofNat 64 ((List.range 4).foldl (fun n i =>
    n + (rx i).queue.length % 16 * 2 ^ (4 * i) + (tx i).unacked % 8 * 2 ^ (16 + 3 * i) + (tx i).link.isSome.toNat * 2 ^ (28 + i)
      + (rx i).closed.toNat * 2 ^ (32 + i) + (tx i).refused.toNat * 2 ^ (36 + i)) 0)

/-- A system register as a vector-stream word reads it (R337): none for a number that takes ILLOP at issue; the rx registers
are read by R284. -/
def State.sysRead (s : State) (w : Wg) (c : Crew) (n : Nat) : Option Dbl :=
  let z := fun (x : Word32) => some (x.zeroExtend 64)
  let k := s.core w.core
  match n with
  | 0x01 => z (s.coreid w.core)
  | 0x40 => z c.fpctl
  | 0x41 => z c.repctl
  | 0x42 => some c.members
  | 0x43 => z c.tvec
  | 0x44 => z c.tinfo
  | 0x45 => z c.tpc
  | 0x46 => some c.tval
  | 0x47 => z c.flagen
  | 0x50 => z k.mslot
  | 0x54 => z (k.marray s.clk)
  | 0x5C => z k.mtile
  | 0x60 => z c.mfinfo
  | 0x61 => some c.mfaddr
  | 0x62 => some c.mflanes
  | 0x63 => z c.barinfo
  | 0x78 => some c.rlstat
  | 0x80 => z (s.tslice w)
  | _ => none

/-- A system register as a starter reads it (R337). -/
def State.starterSysRead (s : State) (q : Nat) (k : Starter) (n : Nat) : Option Dbl :=
  let z := fun (x : Word32) => some (x.zeroExtend 64)
  if 0x50 ≤ n ∧ n < 0x54 then z (s.core (quadCore q (n - 0x50))).mslot
  else if 0x54 ≤ n ∧ n < 0x58 then z ((s.core (quadCore q (n - 0x54))).marray s.clk)
  else if 0x5C ≤ n ∧ n < 0x60 then z (s.core (quadCore q (n - 0x5C))).mtile
  else match n with
  | 0x01 => z (s.coreid (quadCore q 0))
  | 0x43 => z k.tvec
  | 0x44 => z k.tinfo
  | 0x45 => z k.tpc
  | 0x46 => some k.tval
  | 0x47 => z k.flagen
  | 0x58 => some k.dropkey
  | 0x59 => some k.droporg
  | 0x5A => some k.mcorr
  | 0x60 => z k.mfinfo
  | 0x61 => some k.mfaddr
  | 0x62 => some k.mflanes
  | _ => none

/-- A register with its writable bits written (R5, R6). -/
def maskWrite {n : Nat} (old v mask : BitVec n) : BitVec n := (old &&& ~~~mask) ||| (v &&& mask)

/-- A crew with a system register written (R336); a read-only register is not changed. -/
def Crew.sysWrite (c : Crew) (n : Nat) (v : Dbl) : Crew :=
  let x : Word32 := v.truncate 32
  match n with
  | 0x40 => { c with fpctl := x &&& 0xF }
  | 0x41 => { c with repctl := repctlWritten x }
  | 0x42 => { c with members := v }
  | 0x43 => { c with tvec := x &&& 0x8001FFFF }
  | 0x44 => { c with tinfo := maskWrite c.tinfo x 0x01FFFC3F }
  | 0x45 => { c with tpc := x &&& 0x007FFFFF }
  | 0x46 => { c with tval := v }
  | 0x47 => { c with flagen := x &&& 0xFF }
  | 0x60 => { c with mfinfo := x &&& 0x1F }
  | 0x61 => { c with mfaddr := v }
  | 0x62 => { c with mflanes := v }
  | 0x63 => { c with barinfo := x &&& 0xFFFFF }
  | _ => c

/-- A starter with a system register written. -/
def Starter.sysWrite (k : Starter) (n : Nat) (v : Dbl) : Starter :=
  let x : Word32 := v.truncate 32
  match n with
  | 0x43 => { k with tvec := x &&& 0x8001FFFF }
  | 0x44 => { k with tinfo := maskWrite k.tinfo x 0x01FFFC3F }
  | 0x45 => { k with tpc := x &&& 0x007FFFFF }
  | 0x46 => { k with tval := v }
  | 0x47 => { k with flagen := x &&& 0xFF }
  | 0x58 => { k with dropkey := v }
  | 0x59 => { k with droporg := v }
  | 0x5A => { k with mcorr := v &&& 0xFFFF }
  | 0x60 => { k with mfinfo := x &&& 0x1F }
  | 0x61 => { k with mfaddr := v }
  | 0x62 => { k with mflanes := v }
  | _ => k

/-! ### sysrd and syswr -/

/-- The system registers of a crew that hold values a word may write. -/
def crewNumbers : List Nat := [0x40, 0x41, 0x42, 0x43, 0x44, 0x45, 0x46, 0x47, 0x60, 0x61, 0x62, 0x63]
/-- Those of a starter. -/
def starterNumbers : List Nat := [0x43, 0x44, 0x45, 0x46, 0x47, 0x58, 0x59, 0x5A, 0x60, 0x61, 0x62]

/-- A system register of a crew that holds a value. -/
def Crew.sysValue (c : Crew) (n : Nat) : Dbl :=
  let z := fun (x : Word32) => x.zeroExtend 64
  match n with
  | 0x40 => z c.fpctl
  | 0x41 => z c.repctl
  | 0x42 => c.members
  | 0x43 => z c.tvec
  | 0x44 => z c.tinfo
  | 0x45 => z c.tpc
  | 0x46 => c.tval
  | 0x47 => z c.flagen
  | 0x60 => z c.mfinfo
  | 0x61 => c.mfaddr
  | 0x62 => c.mflanes
  | _ => z c.barinfo

/-- A system register of a starter that holds a value. -/
def Starter.sysValue (k : Starter) (n : Nat) : Dbl :=
  let z := fun (x : Word32) => x.zeroExtend 64
  match n with
  | 0x43 => z k.tvec
  | 0x44 => z k.tinfo
  | 0x45 => z k.tpc
  | 0x46 => k.tval
  | 0x47 => z k.flagen
  | 0x58 => k.dropkey
  | 0x59 => k.droporg
  | 0x5A => k.mcorr
  | 0x60 => z k.mfinfo
  | 0x61 => k.mfaddr
  | _ => k.mflanes

/-- A list with an entry changed by or-ing a value in. -/
def orAt {n : Nat} (l : List (BitVec n)) (i : Nat) (v : BitVec n) : List (BitVec n) := modAt l i fun x => x ||| v

/-- A crew as the words of a run see it that goes on behind a write of a system register or a flagclr (R330, R336). -/
def Crew.before (c : Crew) (x : Nat × Dbl) : Crew :=
  if x.1 = 0 then { c with flags := c.flags ||| x.2.truncate 8 }
  else if x.1 < 9 then { c with masks := orAt c.masks (x.1 - 1) x.2 }
  else c.sysWrite x.1 x.2
/-- A starter as the words of a run see it. -/
def Starter.before (k : Starter) (x : Nat × Dbl) : Starter :=
  if x.1 = 0 then { k with flags := k.flags ||| x.2.truncate 8 }
  else if x.1 < 9 then { k with masks := orAt k.masks (x.1 - 1) (x.2.truncate 4) }
  else k.sysWrite x.1 x.2

/-- What the words of a clk have cleared of a flag word with its masks. -/
def clearedFlags {n : Nat} (old new : BitVec 8) (ms ns : List (BitVec n)) : List (Nat × Dbl) :=
  if old &&& ~~~new = 0 then []
  else (0, (old &&& ~~~new).zeroExtend 64)
    :: (List.range 8).map fun i => (i + 1, (ms.getD i 0 &&& ~~~(ns.getD i 0)).zeroExtend 64)

/-- What a clk has changed of a crew's system registers, as it stood before; the words of its run go on seeing that (R330, R336). -/
def Crew.hides (old new : Crew) : List (Nat × Dbl) :=
  clearedFlags old.flags new.flags old.masks new.masks
    ++ (crewNumbers.filter fun n => old.sysValue n ≠ new.sysValue n).map fun n => (n, old.sysValue n)
/-- The same of a starter. -/
def Starter.hides (old new : Starter) : List (Nat × Dbl) :=
  clearedFlags old.flags new.flags old.masks new.masks
    ++ (starterNumbers.filter fun n => old.sysValue n ≠ new.sysValue n).map fun n => (n, old.sysValue n)

/-- sysrd (R284, R336). -/
def execSysrd (g : BitVec 3) (w : Bool) (d : BitVec 5) (n : BitVec 14) (s : State) : Host.Outcome State Fault Refusal :=
  withEither s
    (fun is wg =>
      if active is wg g = [] then s.retire is wg.id
      else if !vectorReg n.toNat then s.trapHere is wg.id (trapping is wg g) .illop
      else if 0x74 ≤ n.toNat ∧ n.toNat ≤ 0x77 then s.receive is wg (activeCrews is wg g) (n.toNat - 0x74) d.toNat w
      else
        let crew := wg.crewOf (is.threads.headD 0)
        match (match wg.crew? crew with | some c => s.sysRead wg c n.toNat | none => none) with
        | none => s.trapHere is wg.id (trapping is wg g) .illop
        | some v => s.finish is wg { s := if w then [] else (activeCrews is wg g).map fun c => (c, d.toNat, v) } 1)
    (fun is q k =>
      if !guardOn k.p g then s.starterRetire is q
      else match s.starterSysRead q k n.toNat with
        | none => s.starterTrapHere is q .illop
        | some v => s.starterFinish is q (if w then [] else [(d.toNat, v)]) [] 0 1)

/-- syswr (R283, R336). -/
def execSyswr (g : BitVec 3) (d : BitVec 5) (n : BitVec 14) (s : State) : Host.Outcome State Fault Refusal :=
  withEither s
    (fun is w =>
      if active is w g = [] then s.retire is w.id
      else
        let v := uniS is w d.toNat
        if !vectorReg n.toNat || (decide (0x74 ≤ n.toNat) && decide (n.toNat ≤ 0x78)) then
          s.trapHere is w.id (trapping is w g) .illop
        else if 0x70 ≤ n.toNat ∧ n.toNat ≤ 0x73 then s.transmit is w (trapping is w g) (n.toNat - 0x70) v
        else
          (s.retire is w.id).modWg w.id fun x => (x.modCrews (activeCrews is w g) fun c =>
            c.sysWrite n.toNat (if n.toNat = 0x42 then v &&& laneMask w.width else v)).wroteIn (w.crewsOf is.threads) s.clk)
    (fun is q k =>
      if !guardOn k.p g then s.starterRetire is q
      else if !starterReg n.toNat then s.starterTrapHere is q .illop
      else (s.modStarter q fun x => { x.sysWrite n.toNat (k.s.getD d.toNat 0) with wrote := s.clk + 1 }).starterRetire is q)

/-! ### Capability space (R393, R394) -/

/-- The capability entries present: ID and body words; in recovery ARCH alone (R398). -/
def State.capEntries (s : State) : List (Nat × List Nat) :=
  let arch := (1, [2 + 4 * 2 ^ 8 + 768 * 2 ^ 16])
  if s.boot.recovery then [arch]
  else
    [arch] ++ (if s.features.k4 then [(2, [])] else []) ++ (if s.features.photo then [(3, [])] else [])
      ++ (if s.features.paired then [(4, [])] else [])
      ++ [(5, [18 + s.boot.package * 2 ^ 5 + s.boot.group * 2 ^ 19]), (6, [s.caps.shadow])]

/-- The words of a capability list laid out from a word number, each entry right behind the one before it. -/
def capWords (at_ : Nat) : List (Nat × List Nat) → List Nat
  | [] => []
  | (id, body) :: t =>
    let next := at_ + 1 + body.length
    (id + 2 ^ 16 + (if t = [] then 0 else 8 * next) * 2 ^ 24) :: body ++ capWords next t

/-- The 64-bit word at a byte offset of the capability space. -/
def State.capWord (s : State) (off : Nat) : Dbl := BitVec.ofNat 64 ((capWords 0 s.capEntries).getD (off / 8) 0)

/-- The cause an offset of the capability space has (R338). -/
def capCause (a : Nat) : Option Nat := if a % 8 ≠ 0 then some 1 else if a ≥ 4096 then some 3 else none

/-- A starter's word takes MEMFAULT with its report (R200). -/
def State.starterFault (s : State) (is : Issue) (q : Nat) (cause addr : Nat) : State :=
  (s.modStarter q fun k => { k with mfinfo := mfinfoOf cause false, mfaddr := BitVec.ofNat 64 addr, mflanes := 0 }).starterTrapHere
    is q .memfault

/-- caprd (R338). -/
def execCaprd (g : BitVec 3) (w : Bool) (d : BitVec 5) (a : BitVec 7) (s : State) : Host.Outcome State Fault Refusal :=
  withEither s
    (fun is wg =>
      if active is wg g = [] then s.retire is wg.id
      else
        let off := (uniSrc s is wg a.toNat).toNat
        match capCause off with
        | some c => s.memFaultOnce is wg g .memfault c false off
        | none => s.finish is wg { s := if w then [] else (activeCrews is wg g).map fun c => (c, d.toNat, s.capWord off) } 2)
    (fun is q k =>
      if !guardOn k.p g then s.starterRetire is q
      else
        let off := (starterSrc s is q k a.toNat).toNat
        match capCause off with
        | some c => s.starterFault is q c off
        | none => s.starterFinish is q (if w then [] else [(d.toNat, s.capWord off)]) [] 0 2)

/-! ### Flags and traps -/

/-- The flag-carrying replies that some older word of the crews is still to receive (R244, R247, R332). -/
def State.flagOps (s : State) (is : Issue) (w : Wg) (crews : List Nat) : List Nat :=
  (s.ops.filter fun o => o.wg = w.id && decide (o.id < is.older) && (o.threads.any fun t => decide (w.crewOf t ∈ crews))
    && (match o.kind with | .load | .ldx | .atomic .. | .radd .. | .oadd | .done | .spawn => true | _ => false)).map fun o => o.id

/-- The results that some older word of the crews is still to write (R332). -/
def State.flagPends (s : State) (is : Issue) (w : Wg) (crews : List Nat) : List Nat :=
  match s.wg? w.id with
  | some x => (x.pend.filter fun p => decide (p.id < is.older) && p.crews.any fun c => decide (c ∈ crews)).map fun p => p.id
  | none => []

/-- The trap a flag word delivers (R332). -/
def deliver (f : BitVec 8) : Option Trap :=
  if f &&& 0x7F ≠ 0 then some .arith else if f.getLsbD 7 then some .latch else none

/-- Threads of a crew move on and those of a handler set trap with a resume point behind the word (R326, R332). -/
def State.trapAfter (s : State) (is : Issue) (w : Wg) (h : List Nat) (t : Trap) (words : Nat) : State :=
  ((s.retire is w.id).groupTrap w.id h t is.addr (is.addr.plus words)).ended .trapped

/-- The traps that tfence delivers (R332): each crew of the group by its own flag word, with its threads whose guard is 1 (log entry
85). -/
def flagTraps (w : Wg) (act : List Nat) : List (List Nat × Trap) :=
  (w.crewsOf act).filterMap fun n => match w.crew? n with
    | some c => (deliver (c.flags &&& c.flagen.truncate 8)).map fun t => (act.filter fun x => w.crewOf x = n, t)
    | none => none

/-- Whether the last results of crews were written at least 2 clk ago (R411). -/
def Wg.settledFor (w : Wg) (crews : List Nat) (clk : Nat) : Bool :=
  crews.all fun n => match w.crew? n with | some c => c.wrote = 0 || decide (c.wrote + 1 ≤ clk) | none => true

/-- tfence (R332, R411; log entry 85): it parks until every older word's results are in, and 2 clk longer; then it completes, or takes
its trap. -/
def execTfence (g : BitVec 3) (s : State) : Host.Outcome State Fault Refusal :=
  withEither s
    (fun is w =>
      let act := active is w g
      let crews := w.crewsOf is.threads
      if act = [] then s.retire is w.id
      else if issueNotes is w = []
          ∧ (s.flagOps is w crews ≠ [] ∨ s.flagPends is w crews ≠ [] ∨ w.settledFor crews s.clk = false) then
        s.parkNote is w.id (.flagsIn (s.flagOps is w crews) (s.flagPends is w crews) crews) 0
      else
        match flagTraps w act with
        | [] => s.retire is w.id
        | x :: xs => xs.foldl (fun (s : State) y => (s.groupTrap w.id y.1 y.2 is.addr (is.addr.plus 1)).ended .trapped)
            (s.trapAfter is w x.1 x.2 1))
    (fun is q k =>
      if !guardOn k.p g then s.starterRetire is q
      else
        let pends := ((s.starter q).pend.filter fun p => decide (p.id < is.older)).map fun p => p.id
        if k.mark.isNone ∧ (s.quadOps is q ≠ [] ∨ pends ≠ [] ∨ (k.wrote ≠ 0 ∧ s.clk < k.wrote + 1)) then
          s.starterPark is q (.flagsIn (s.quadOps is q) pends []) (some 0)
        else match deliver (k.flags &&& k.flagen.truncate 8) with
          | some t => (s.starterTrap q t is.addr (is.addr.plus 1)).ended .trapped
          | none => s.starterRetire is q)

/-- trap (R330): TVAL takes a, and the USER trap resumes behind the word and its literal. -/
def execTrap (g : BitVec 3) (a : BitVec 7) (s : State) : Host.Outcome State Fault Refusal :=
  let words := if a = 127 then 2 else 1
  withEither s
    (fun is w =>
      let act := active is w g
      if act = [] then s.retire is w.id
      else
        let v := uniSrc s is w a.toNat
        (s.modWg w.id fun x => x.modCrews (activeCrews is w g) fun c => { c with tval := v }).trapAfter is w act .user words)
    (fun is q k =>
      if !guardOn k.p g then s.starterRetire is q
      else
        let v := starterSrc s is q k a.toNat
        ((s.modStarter q fun k => { k with tval := v }).starterTrap q .user is.addr (is.addr.plus words)).ended .trapped)

/-- Whether a TPC-layout word names a place in the code loaded in its frame, with the overlay it names (R334). -/
def State.resumable (s : State) (core : Nat) (tpc : Word32) : Bool :=
  let p := pcOfTpc tpc
  decide (p.word.toNat < (s.frameCode core p.frame).length) && tpc.extractLsb' 15 8 = s.frameOvl core p.frame

/-- tret (R334). -/
def execTret (g : BitVec 3) (s : State) : Host.Outcome State Fault Refusal :=
  withEither s
    (fun is w =>
      if active is w g = [] then s.retire is w.id
      else
        let crew := w.crewOf (is.threads.headD 0)
        match w.crew? crew with
        | none => s.retire is w.id
        | some c =>
          if !c.inHandler || !s.resumable w.core c.tpc then s.trapHere is w.id (trapping is w g) .illop
          else (((s.retire is w.id).crewReturn w.id crew).xCheck w.id crew (List.range w.width)).ended .moved)
    (fun is q k =>
      if !guardOn k.p g then s.starterRetire is q
      else if !k.tinfo.getLsbD 8 || decide ((k.tpc.extractLsb' 0 14).toNat ≥ k.code.length)
          || decide (k.tpc.extractLsb' 14 9 ≠ 0) then s.starterTrapHere is q .illop
      else (s.starterReturn q).ended .moved)

/-- flagrd (R329, R330). -/
def execFlagrd (g : BitVec 3) (w : Bool) (d : BitVec 5) (a : BitVec 7) (s : State) : Host.Outcome State Fault Refusal :=
  withEither s
    (fun is wg =>
      if active is wg g = [] then s.retire is wg.id
      else
        let k := (uniSrc s is wg a.toNat).toNat
        if k ≥ 9 then s.trapHere is wg.id (trapping is wg g) .illop
        else
          let v := match wg.crew? (wg.crewOf (is.threads.headD 0)) with
            | some c => if k = 0 then c.flags.zeroExtend 64 else c.masks.getD (k - 1) 0
            | none => 0
          s.finish is wg { s := if w then [] else (activeCrews is wg g).map fun c => (c, d.toNat, v) } 1)
    (fun is q st =>
      if !guardOn st.p g then s.starterRetire is q
      else
        let k := (starterSrc s is q st a.toNat).toNat
        if k ≥ 9 then s.starterTrapHere is q .illop
        else
          let v : Dbl := if k = 0 then st.flags.zeroExtend 64 else (st.masks.getD (k - 1) 0).zeroExtend 64
          s.starterFinish is q (if w then [] else [(d.toNat, v)]) [] 0 1)

/-- flagclr (R329, R330). -/
def execFlagclr (g : BitVec 3) (a : BitVec 7) (s : State) : Host.Outcome State Fault Refusal :=
  withEither s
    (fun is w =>
      if active is w g = [] then s.retire is w.id
      else
        let v := uniSrc s is w a.toNat
        if v.toNat ≥ 256 then s.trapHere is w.id (trapping is w g) .illop
        else (s.retire is w.id).modWg w.id fun x =>
          (x.modCrews (activeCrews is w g) fun c => c.clearFlags (v.truncate 8)).wroteIn (w.crewsOf is.threads) s.clk)
    (fun is q k =>
      if !guardOn k.p g then s.starterRetire is q
      else
        let v := starterSrc s is q k a.toNat
        if v.toNat ≥ 256 then s.starterTrapHere is q .illop
        else (s.modStarter q fun k => { k.clearFlags (v.truncate 8) with wrote := s.clk + 1 }).starterRetire is q)

/-! ### Context images (R341, R342) -/

/-- The words of a 64-bit value, low word first. -/
def dblWords (d : Dbl) : List Word32 := [d.extractLsb' 0 32, d.extractLsb' 32 32]

/-- WIDTH and REGS as SHAPE codes them (R288). -/
def shapeOf (w : Wg) : Nat := (if w.width = 16 then 0 else if w.width = 32 then 1 else 2) + (w.nregs / 8 - 1) * 4

/-- The bytes of a crew's image. -/
def imageBytes (w : Wg) : Nat := 512 + w.width * (128 + 4 * w.nregs)

/-- The record of a thread: a live one's program counter is the word after the ctxsave. -/
def State.threadRecord (s : State) (w : Wg) (t : Thread) (next : Pc) : List Word32 :=
  if t.exited then List.replicate (32 + w.nregs) 0
  else
    let entry := fun (e : RetEntry) => tpcOf { frame := e.frame, word := e.word } e.ovl
    let stack := (t.rstack.reverse.map entry) ++ List.replicate 16 0
    [tpcOf next (s.frameOvl w.core next.frame), t.p.zeroExtend 32, BitVec.ofNat 32 t.rstack.length, 0] ++ stack.take 16
      ++ List.replicate 12 0 ++ t.v

/-- A crew's image (R342). -/
def State.image (s : State) (w : Wg) (crew : Nat) (next : Pc) : List Word32 :=
  match w.crew? crew with
  | none => []
  | some c =>
    let ts := (w.crewThreads crew).filterMap fun t => w.thread? t
    let live := (w.live crew).foldl (fun m t => setBit m (w.laneOf t) true) (0 : Dbl)
    [BitVec.ofNat 32 (0x4B43 + shapeOf w * 2 ^ 16), 0] ++ dblWords live ++ [c.fpctl, c.flagen] ++ dblWords c.members
      ++ [c.tvec, c.flags.zeroExtend 32, c.mfinfo, c.barinfo] ++ dblWords c.mfaddr ++ dblWords c.mflanes
      ++ c.masks.flatMap dblWords ++ (c.h.map (handleValue w.core)).flatMap dblWords ++ c.s.flatMap dblWords
      ++ ts.flatMap fun t => s.threadRecord w t next

/-- A 64-bit value in an image. -/
def imgDbl (m : List Word32) (off : Nat) : Dbl := m.getD (off / 4 + 1) 0 ++ m.getD (off / 4) 0

/-- The word at which a lane's record begins. -/
def recordAt (w : Wg) (lane : Nat) : Nat := (512 + lane * (128 + 4 * w.nregs)) / 4

/-- Whether an image may be loaded into a crew (R341). -/
def State.imageOk (s : State) (w : Wg) (crew : Nat) (m : List Word32) : Bool :=
  let live := imgDbl m 8
  let lanes := (List.range w.width).filter fun l => live.getLsbD l
  let good := fun (x : Word32) => s.resumable w.core x
  m.getD 0 0 = BitVec.ofNat 32 (0x4B43 + shapeOf w * 2 ^ 16)
    && (List.range 64).all (fun l => !live.getLsbD l || (decide (l < w.width) && decide (crew * w.width + l ∈ w.live crew)))
    && lanes.all (fun l =>
      let r := recordAt w l
      let depth := (m.getD (r + 2) 0).toNat
      good (m.getD r 0) && decide (depth ≤ 16) && (List.range depth).all fun j => good (m.getD (r + 4 + j) 0))
    && (List.range 16).all fun i => !(imgDbl m (0x80 + 8 * i)).getLsbD 34

/-- What an h register takes from a handle value without a reference. -/
def handleOf (v : Dbl) : HReg :=
  if (v.extractLsb' 32 2).toNat = 0 then .empty else .settled (v.extractLsb' 32 2).toNat (v.extractLsb' 40 8).toNat 0

/-- A thread as an image gives it. -/
def imageThread (w : Wg) (m : List Word32) (clk lane : Nat) (t : Thread) : Thread :=
  let r := recordAt w lane
  let entry := fun (x : Word32) => { frame := x.getLsbD 14, ovl := x.extractLsb' 15 8, word := x.extractLsb' 0 14 : RetEntry }
  if (imgDbl m 8).getLsbD lane then
    { t.goto (pcOfTpc (m.getD r 0)) clk 1 with
      p := (m.getD (r + 1) 0).truncate 7
      rstack := (((List.range (m.getD (r + 2) 0).toNat).map fun j => entry (m.getD (r + 4 + j) 0))).reverse
      v := (List.range w.nregs).map fun k => m.getD (r + 32 + k) 0 }
  else { t with exited := true, wait := .ready, mark := none }

/-- A crew restored from an image: every listed field, and its threads (R341). -/
def Wg.loadImage (w : Wg) (crew : Nat) (m : List Word32) (clk : Nat) : Wg :=
  let w := w.modCrew crew fun c =>
    { c with
      fpctl := m.getD 4 0 &&& 0xF, flagen := m.getD 5 0 &&& 0xFF, members := imgDbl m 0x18 &&& laneMask w.width, tvec := m.getD 8 0 &&& 0x8001FFFF,
      flags := (m.getD 9 0).truncate 8, mfinfo := m.getD 10 0 &&& 0x1F, barinfo := m.getD 11 0 &&& 0xFFFFF,
      mfaddr := imgDbl m 0x30, mflanes := imgDbl m 0x38, masks := (List.range 8).map fun i => imgDbl m (0x40 + 8 * i),
      h := (List.range 16).map fun i => handleOf (imgDbl m (0x80 + 8 * i)),
      s := (List.range 32).map fun i => imgDbl m (0x100 + 8 * i) }
  (w.live crew).foldl (fun (w : Wg) t => w.modThread t fun x => imageThread w m clk (w.laneOf t) x) w

/-- The lines of an image, from its first virtual address, each with the translation that the core's TLB holds (R199). -/
def State.imagePages (s : State) (w : Wg) (a perm : Nat) : List (Nat × Option Nat) :=
  (List.range ((imageBytes w + 127) / 128)).map fun j => (a + 128 * j, tlbFind (s.core w.core).tlb w.ctx (a + 128 * j) perm)

/-- Lines of an image written in place from a list of words, up to an address; the first line that may not be written stops it, with
its cause and address (R341). -/
def State.writeImage (s : State) (m : List Word32) (a upto : Nat) : List (Nat × Nat) → State × Option (Nat × Nat)
  | [] => (s, none)
  | (va, pa) :: t =>
    if upto ≤ va then (s, none)
    else
      let r := s.placeWrite (physPlace pa) ((m.drop ((va - a) / 4)).take 32)
      if r.2 = 0 then r.1.writeImage m a upto t
      else (s, some (if r.2 = 3 then 8 else if physPlace pa = .nowhere then 3 else 14, va))

/-- The words of an image that is read; none where a line lies in a range with nothing in it. -/
def State.readImage (s : State) (l : List (Nat × Nat)) : Option (List Word32) :=
  let parts := l.map fun x => s.placeRead (physPlace x.2) 32
  if parts.all fun x => x.isSome then some (parts.flatMap fun x => x.getD []) else none

/-- The lines before the first that has no translation, each with what it has. -/
def pagesBefore (l : List (Nat × Option Nat)) : List (Nat × Nat) :=
  (l.takeWhile fun x => x.2.isSome).filterMap fun x => x.2.map fun pa => (x.1, pa)

/-- The channel of a transfer is free again: a word that waits takes it in the next clk (R280, R341). -/
def State.imageOver (s : State) (o : MemOp) : State := (s.dropOp o.id).lookAtWords

/-- The end of a transfer, by the translations that its lines had as it began: the image written, or the crew restored, or MEMFAULT (R341);
next is the word after. -/
def State.imageEnd (s : State) (is : Issue) (w : Wg) (g : BitVec 3) (o : MemOp) (save : Bool) (crew a : Nat) (next : Pc) : State :=
  let s := s.imageOver o
  if save then
    let r := s.writeImage (s.image w crew next) a (a + imageBytes w) o.ranges
    match r.2 with
    | some (cause, va) => r.1.memFaultOnce is w g .memfault cause true va
    | none => r.1.retire is w.id
  else
    match s.readImage o.ranges with
    | some m =>
      if s.imageOk w crew m then
        let s := ((s.retire is w.id).modWg w.id fun x => x.loadImage crew m s.clk).ended .moved
        ((s.threadsEnded w.id ((w.live crew).filter fun t => !(imgDbl m 8).getLsbD (w.laneOf t))).arriveCheck w.id crew).finishDue w.id
      else s.memFaultOnce is w g .memfault 3 false a
    | none => s.memFaultOnce is w g .memfault 3 false a

/-- What an image's transfer waits for before it begins (R237, R341): older work of the crew, its unacknowledged flits, a copy channel. -/
def State.imageWaits (s : State) (is : Issue) (w : Wg) (crew : Nat) : Option PCond :=
  let words := (s.words.filter fun x => x.wg = w.id && decide (x.crew = crew)).map fun x => x.id
  match s.fenceLeft is w 1 words 0, (List.range 4).find? fun n => decide ((w.txOf crew n).unacked ≠ 0) with
  | some c, _ => some c
  | none, some n => some (.txClear n)
  | none, none => if s.freeChannels (newWord s is w .cpy 0 0 0 0) = [] then some .copyChannel else none

/-- ctxsave and ctxload share their steps (R341): every live thread of the crew at the word, older work over, the image
translated, the transfer by a copy channel, and its end. -/
def imageWord (s : State) (g : BitVec 3) (a : BitVec 7) (save : Bool) : Host.Outcome State Fault Refusal :=
  withGroup s fun is w =>
    if active is w g = [] then s.retire is w.id
    else
      let crew := w.crewOf (is.threads.headD 0)
      let addr := (uniSrc s is w a.toNat).toNat
      let next := is.addr.plus (if a = 127 then 2 else 1)
      let perm := if save then 1 else 0
      let inn := match w.crew? crew with | some c => c.inHandler | none => false
      match s.markedOp is w with
      | some o =>
        match o.fail with
        | some cause =>
          let s := s.dropOp o.id
          let s := if save then (s.writeImage (s.image w crew next) addr o.a o.ranges).1 else s
          s.memFaultOnce is w g .memfault cause save o.a
        | none => if o.phase = 3 then s.imageEnd is w g o save crew addr next else s.park is w.id (.opEnd o.id)
      | none =>
        if inn then s.trapHere is w.id (trapping is w g) .illop
        else if addr % 128 ≠ 0 then s.memFaultOnce is w g .memfault 1 save addr
        else if !canonical addr then s.memFaultOnce is w g .memfault 2 save addr
        else if (w.live crew).any fun t => !decide (t ∈ is.threads) then s.park is w.id .crewHere
        else match s.imageWaits is w crew with
          | some c => s.park is w.id c
          | none =>
            match (s.imagePages w addr perm).find? fun x => x.2.isNone with
            | some (va, _) => (s.regionWalk is w g (.image save) va perm).modOp s.ids fun o =>
                { o with ranges := pagesBefore (s.imagePages w addr perm) }
            | none =>
              let chan := (s.freeChannels (newWord s is w .cpy 0 0 0 0)).headD 0
              (s.settleIn is w g (.image save) none [] ((imageBytes w + 127) / 128 + 40)).modOp s.ids fun o =>
                { o with n := chan + 1, ranges := pagesBefore (s.imagePages w addr perm) }

/-- ctxsave (R341). -/
def execCtxsave (g : BitVec 3) (a : BitVec 7) (s : State) : Host.Outcome State Fault Refusal := imageWord s g a true
/-- ctxload (R341). -/
def execCtxload (g : BitVec 3) (a : BitVec 7) (s : State) : Host.Outcome State Fault Refusal := imageWord s g a false

end Sys2Proof.Machine
end

