-- ==== Sys2Proof/Machine/Queues.lean ====
section
/-! DEFINITION. The command complex (R354 to R370): queue identifiers and control blocks, notify, harts, packets and their
effects, completion, and queue commands. -/

namespace Sys2Proof.Machine

/-! ### Queue identifiers (R356) -/

/-- What the two-stage translation of a QID gives: a control block, a violation, or a stage-2 page that is not there. -/
inductive QidRes where
  | block (pa : Nat)
  | violation
  | page (ipa : Nat)
deriving DecidableEq, Repr

/-- The physical address of a function's intermediate address, through the function's own stage-2 root, which the spec does not
place (log entry 21). -/
def State.funcAddr (s : State) (func ipa : Nat) : Option Nat :=
  match (stage2 (fun _ a => (s.homeDbl a).toNat) (Config.funcRoot func) ipa 0).1 with
  | some l => if l.r then some (l.base + ipa % 2 ^ 48 % l.size) else none
  | none => none

/-- The translation of a QID of a function (R356). -/
def State.qidBlock (s : State) (func q : Nat) : QidRes :=
  let ipa := (s.func func).fqt1.toNat + 8 * q
  match s.funcAddr func ipa with
  | none => .page ipa
  | some a =>
    let e := (s.homeDbl a).toNat
    if !natBit e 0 || natBits e 11 1 ≠ 0 || natBits e 63 24 ≠ 0 then .violation
    else
      let h := (s.homeDbl ((s.func 0).hqt2.toNat + 8 * natBits e 23 12)).toNat
      if !natBit h 0 || natBits h 6 1 ≠ func then .violation else .block (natBits h 63 7 * 128)

/-! ### Loading a control block (R359, R360) -/

/-- The tag of the seven words of a privileged half under a key (R360). -/
def qcbTag (key : Dbl) (words : List Dbl) : Dbl :=
  words.foldl (fun x w =>
    let y := (x ^^^ w) * 0x9E3779B97F4A7C15#64
    y ^^^ (y >>> 29)) key

/-- The state in which a control block's queue is loaded: a stopped one as it was written back, else by its pointers. -/
def loadedState (code rdptr wrptr : Nat) : QState :=
  match code with
  | 4 => .faulted
  | 5 => .frozen
  | 6 => .destroyed
  | _ => if rdptr < wrptr then .pending else .idle

/-- A control block as memory holds it (R359). -/
def State.readQcb (s : State) (pa func q : Nat) : Qcb :=
  let w := fun (o : Nat) => (s.homeWord (pa + o)).toNat
  let d := fun (o : Nat) => (s.homeDbl (pa + o)).toNat
  { pa := pa, qfunc := func, qid := q, ring := d 0, cfg := w 8 % 32, st := loadedState (w 0x0C) (d 0x10) (d 0x18),
    rdptr := d 0x10, wrptr := d 0x18, laststat := w 0x20, intvec := w 0x24 % 64, faultpkt := d 0x28, part := w 0x40 % 16,
    maxprio := w 0x44 % 8, ctx := { func := w 0x58 % 64, s1 := d 0x48, s2 := d 0x50 }, since := s.clk, cmd := none }

/-- The load check of R360: tag, FUNC, and the reserved bits of both halves. -/
def State.qcbPasses (s : State) (pa func : Nat) : Bool :=
  let w := fun (o : Nat) => (s.homeWord (pa + o)).toNat
  let words := (List.range 7).map fun j => s.homeDbl (pa + 0x40 + 8 * j)
  decide (qcbTag (s.func (w 0x58 % 64)).qkey words = s.homeDbl (pa + 0x78)) && decide (w 0x58 = func)
    && decide (w 8 < 32) && decide (w 0x24 < 64) && decide (w 0x40 < 16) && decide (w 0x44 < 8)
    && [0x30, 0x34, 0x38, 0x3C, 0x5C, 0x60, 0x64, 0x68, 0x6C, 0x70, 0x74].all fun o => decide (w o = 0)

/-- Room in the cache of 256 control blocks: the first one that stands still leaves, written back; one whose queue is stopped is
remembered. -/
def State.evictQcb (s : State) : State :=
  if s.qcbs.length < 256 then s
  else match s.qcbs.find? fun q => (match q.st with | .pending => false | .mapped => false | .draining => false | _ => true)
      && !(s.packets.any fun p => p.qcb = q.pa) with
    | some q => { s.writeGuest q with qcbs := s.qcbs.filter fun x => x.pa ≠ q.pa
                                      qcbsOut := if q.st == .idle then s.qcbsOut else s.qcbsOut ++ [(q.pa, q.qfunc)] }
    | none => s

/-- A control block enters the cache unless it is there (R360); one that fails its check enters FROZEN and its function is
frozen, and so does one of a frozen function (R379). It has to wait while all 256 blocks are in use (log entry 57). A queue that has
packets left is mapped when it can be (R362). -/
def State.loadQcb (s : State) (pa func q : Nat) : State :=
  match s.qcb? pa with
  | some _ => s
  | none =>
    let x := s.readQcb pa func q
    let ok := s.qcbPasses pa func
    let x := if ok && !(s.func func).frozen then x else { x with st := .frozen }
    let s := s.evictQcb
    if s.qcbs.length ≥ 256 then s else
    let s := { s with qcbs := s.qcbs ++ [x], qcbsOut := s.qcbsOut.filter fun y => y.1 ≠ pa }
    let s := if x.st == .frozen then s.syncQueue pa else if x.st == .pending then s.post 0 .queueMap else s
    if ok then s else s.violate 4 func q 0 (.function func)

/-- A stage-2 page of a function asked for on behalf of the hub (R390). -/
def State.funcPage (s : State) (func ipa : Nat) : State :=
  (s.pageFor 0 { func := func, s1 := 0, s2 := Config.funcRoot func } 0 2 (ipa / 4096)).2

/-- f on the control block of a QID; a translation violation freezes the function (R356). While a page of the table is missing
or the cache of blocks is full, the access waits at the hub, and it is looked at again 20 clk later: no notify is lost (R358). -/
def State.onQueue (s : State) (func q op val : Nat) (f : State → Qcb → State) : State :=
  match s.qidBlock func q with
  | .page ipa =>
    let s := s.funcPage func ipa
    { s with hubWaits := s.hubWaits ++ [(func, q, op, val)] }.post 20 .queueMap
  | .violation => s.violate 3 func q 0 (.function func)
  | .block pa =>
    let s := s.loadQcb pa func q
    match s.qcb? pa with
    | some x => f s x
    | none => { s with hubWaits := s.hubWaits ++ [(func, q, op, val)] }.post 20 .queueMap

/-- qcbLoad (R360). -/
def execQcbLoad (func q : Nat) (s : State) : Host.Outcome State Fault Refusal :=
  match s.qidBlock func q with
  | .block pa => .next (s.loadQcb pa func q)
  | .violation => .next (s.violate 3 func q 0 (.function func))
  | .page ipa => .next (s.funcPage func ipa)

/-! ### Harts -/

/-- A hart; one that serves no queue is not listed. -/
def State.hart? (s : State) (h : Nat) : Option Hart := s.harts.find? fun x => x.num = h
/-- A hart changed. -/
def State.modHart (s : State) (h : Nat) (f : Hart → Hart) : State := { s with harts := mapIf (fun x => x.num = h) f s.harts }
/-- A packet of a queue that has started. -/
def State.packet? (s : State) (qcb num : Nat) : Option Packet := s.packets.find? fun p => p.qcb = qcb && p.num = num

/-- The packet at which a queue stops: a WAIT that its hart is blocked in, else the next to read. -/
def State.frontOf (s : State) (q : Qcb) : Nat :=
  match s.harts.find? fun h => h.qcb = some q.pa with
  | some h => h.blocked.getD q.rdptr
  | none => q.rdptr

/-- A queue leaves its hart; a WAIT it is blocked in is to be read again (R362). -/
def State.leaveHart (s : State) (pa : Nat) : State :=
  match s.harts.find? fun h => h.qcb = some pa with
  | none => s
  | some h =>
    let s := match h.blocked with
      | some n =>
        State.modQcb { s with packets := s.packets.filter fun p => !(p.qcb = pa && p.num = n) } pa fun q => { q with rdptr := n }
      | none => s
    s.dropHart pa

/-- IDLE or PENDING, as a queue's pointers say (R361). -/
def Qcb.resting (q : Qcb) : QState := if q.rdptr < q.wrptr then .pending else .idle

/-- A queue unmapped: it rests, and its guest half is written back (R359, R362). -/
def State.unmap (s : State) (pa : Nat) : State :=
  let s := s.leaveHart pa
  match s.qcb? pa with
  | some q => (s.modQcb pa fun x => { x with since := s.clk }).setQState pa q.resting
  | none => s

/-- The queue that is unmapped when no hart is free (R362): empty longest with no packet in execution, else blocked longest. -/
def State.unmapChoice (s : State) : Option Nat :=
  let mapped := s.qcbs.filter fun q => q.st == .mapped
  let empty := mapped.filter fun q => q.rdptr = q.wrptr && !(s.packets.any fun p => p.qcb = q.pa)
  match sortBy (fun (q : Qcb) => q.since) empty with
  | q :: _ => some q.pa
  | [] =>
    let blocked := s.harts.filterMap fun h => match h.qcb, h.blocked with
      | some pa, some n => (s.packet? pa n).map fun p => (p.since, pa)
      | _, _ => none
    (sortBy (fun (x : Nat × Nat) => x.1) blocked).head?.map fun x => x.2

/-- A queue mapped to a hart, which reads its next packet in its slot. -/
def State.mapTo (s : State) (pa h : Nat) : State :=
  let s : State := { s with harts := s.harts ++ [{ num := h, qcb := some pa, half := none, read := none, blocked := none, denied := false }] }
  ((s.modQcb pa fun q => { q with since := s.clk }).setQState pa .mapped).post 32 (.packetRead h)

/-- One pending queue mapped, if a hart is free or can be freed (R362). -/
def State.mapQueue (s : State) (pa : Nat) : State :=
  let free := fun (s : State) => (List.range 32).find? fun h => (s.hart? h).isNone
  match free s with
  | some h => s.mapTo pa h
  | none => match s.unmapChoice with
    | none => s
    | some v =>
      let s := s.unmap v
      match free s with
      | some h => (s.mapTo pa h).post 32 .queueMap
      | none => s

/-- The pending queues in the order they are mapped (R362): pending for 1,000 µs, then MAXPRIO, then first notify. -/
def State.pendingQueues (s : State) : List Qcb :=
  let l := s.qcbs.filter fun q => q.st == .pending && !(s.func q.qfunc).frozen && !(s.func q.qfunc).resetting
  sortBy (fun (q : Qcb) => ((if s.clk ≥ q.since + 1250000 then 0 else 1) * 8 + (7 - q.maxprio)) * 2 ^ 64 + q.since) l

/-- queuePendingAging (R362): a queue pending for 1,000 µs is mapped ahead of all others. -/
def execQueuePendingAging (qcb : Nat) (s : State) : Host.Outcome State Fault Refusal :=
  match s.pendingQueues.find? fun q => q.pa = qcb && decide (s.clk ≥ q.since + 1250000) with
  | some q => .next (s.mapQueue q.pa)
  | none => .next s

/-! ### Notify (R358) -/

/-- A queue stops with a status at a packet (R361, R364): LASTSTAT and FAULTPKT are set, RDPTR stands at the packet, or at a WAIT before
it that is to be read again (R370), and INTVEC is raised. -/
def State.faultQueue (s : State) (q : Qcb) (num status : Nat) : State :=
  let s := s.modQcb q.pa fun x => { x with laststat := status, faultpkt := num }
  let stops := match q.st with | .idle => true | .pending => true | .mapped => true | _ => false
  let s := if stops then ((s.leaveHart q.pa).modQcb q.pa fun x => { x with rdptr := min num x.rdptr }).setQState q.pa .faulted else s.syncQueue q.pa
  (s.vector q.qfunc q.intvec).post 0 .queueMap

/-- A notify on a queue (R358). -/
def State.notifyQueue (s : State) (q : Qcb) (n : Nat) : State :=
  if n ≤ q.wrptr || q.st == .destroyed then s
  else if (n + 2 ^ 64 - q.rdptr) % 2 ^ 64 > 2 ^ q.cfg then s.faultQueue q (s.frontOf q) 8
  else
    let s := s.modQcb q.pa fun x => { x with wrptr := n }
    match q.st with
    | .idle => ((s.modQcb q.pa fun x => { x with since := s.clk }).setQState q.pa .pending).post 0 .queueMap
    | .mapped => match s.harts.find? fun h => h.qcb = some q.pa with
      | some h => s.post 32 (.packetRead h.num)
      | none => s
    | _ => s

/-- A notify translated and applied; a function being reset has its notifies discarded (R392). -/
def State.notify (s : State) (func q n : Nat) : State :=
  if (s.func func).resetting then s else s.onQueue func q 0 n fun s x => s.notifyQueue x n

/-- notify (R356, R358). -/
def execNotify (func q : Nat) (n : BitVec 64) (s : State) : Host.Outcome State Fault Refusal := .next (s.notify func q n.toNat)

/-! ### Completion (R364) -/

/-- The word of a packet. -/
def pktWord (ws : List Dbl) (k : Nat) : Nat := (ws.getD k 0).toNat

/-- The value of a packet's signal word (R364). -/
def signalValue (ws : List Dbl) (num status : Nat) : Dbl :=
  if status = 0 then ws.getD 2 0 else BitVec.ofNat 64 (2 ^ 63 + status * 2 ^ 48 + num % 2 ^ 48)

/-- The signal word of a packet written through its queue's context, in place as engine writes are (R233, R364): none while its page is
missing, and nothing outside the memory that the queue may use (R378). -/
def State.signal (s : State) (q : Qcb) (num : Nat) (ws : List Dbl) (status : Nat) : Option State :=
  let a := pktWord ws 1
  if a = 0 ∨ a % 8 ≠ 0 ∨ !canonical a then some s
  else match s.hubAddr (s.hubCore q.part) q.ctx a 1 with
    | .inr (3, _) => some s
    | .inl pa =>
      let v := signalValue ws num status
      some (s.placeWrite (physPlace pa) [v.extractLsb' 0 32, v.extractLsb' 32 32]).1
    | .inr _ => none

/-- The page of a signal word asked for. -/
def State.signalPage (s : State) (q : Qcb) (ws : List Dbl) : State :=
  let core := s.hubCore q.part
  match s.hubAddr core q.ctx (pktWord ws 1) 1 with
  | .inr (stage, page) => (s.pageFor core q.ctx 1 stage page).2
  | .inl _ => s

/-- Whether a status faults the queue (R364). -/
def faultingStatus (st : Nat) : Bool := st = 1 || st = 3 || st = 6 || st = 7 || st = 8 || st = 9

/-- What a completed packet's status does to its queue (R364). -/
def State.noteStatus (s : State) (q : Qcb) (num : Nat) (ws : List Dbl) (status : Nat) : State :=
  if faultingStatus status then s.faultQueue q num status
  else
    let s := if status = 0 then s else (s.modQcb q.pa fun x => { x with laststat := status, faultpkt := num }).syncQueue q.pa
    if natBit (pktWord ws 0) 9 then s.vector q.qfunc q.intvec else s

/-- QCMDSTAT of a function (R357). -/
def State.setCmdStat (s : State) (func qid result : Nat) (busy : Bool) : State :=
  s.modFunc func fun f => { f with qcmdstat := BitVec.ofNat 32 (qid % 4096 + result * 4096 + busy.toNat * 2 ^ 31) }

/-- QCMDSTAT of a command that has ended, unless a later one stands there (R357). -/
def State.cmdDone (s : State) (func qid result : Nat) : State :=
  let x := (s.func func).qcmdstat
  if x.getLsbD 31 && decide (natBits x.toNat 11 0 = qid % 4096) then s.setCmdStat func qid result false else s

/-- A draining queue without a started packet is DESTROYED, and its command done (R369). -/
def State.drainDone (s : State) (pa : Nat) : State :=
  match s.qcb? pa with
  | some q =>
    if q.st == .draining && !(s.packets.any fun p => p.qcb = pa) then
      let s := (s.setQState pa .destroyed).modQcb pa fun x => { x with cmd := none }
      match q.cmd with
      | some c => s.cmdDone c.1 c.2 0
      | none => s
    else s
  | none => s

/-- Whether a starter still runs a grid's code, or an array works for it. -/
def State.gridServed (s : State) (grid : Nat) : Bool :=
  (s.quads.any fun x => match x.2.starter.run with | some (g, _) => decide (g = grid) | none => false)
    || s.cores.any fun x => x.2.queue.any fun o => o.grid = grid

/-- A grid that is over, its starters ended too, leaves its partition's table; its reserve becomes ordinary ballast (R351). -/
def State.retireGrids (s : State) (qcb num : Nat) : State :=
  (s.grids.filter fun g => g.qcb = qcb && g.packet = num && s.gridOver g && !s.gridServed g.id).foldl (fun (s : State) g =>
    State.dropReserve { s with grids := s.grids.filter fun x => x.id ≠ g.id } g.id) s

/-- A started packet completes with a status (R364, R370): its signal is written once, its queue takes the status, and packets
that wait behind it are looked at. -/
def State.complete (s : State) (qcb num status : Nat) : State :=
  match s.packet? qcb num, s.qcb? qcb with
  | some p, some q =>
    match s.signal q num p.words status with
    | none => (s.signalPage q p.words).post 20 (.packetComplete qcb num status)
    | some s =>
      let s := { s with packets := s.packets.filter fun x => !(x.qcb = qcb && x.num = num) }
      let s := if q.st == .mapped then s.modQcb qcb fun x => { x with since := s.clk } else s
      let s := ((s.noteStatus q num p.words status).drainDone qcb).retireGrids qcb num
      let s := (s.harts.filter fun h => h.qcb = some qcb && h.blocked.isNone).foldl
        (fun (s : State) h => s.post 32 (.packetRead h.num)) s
      s.post 0 .queueMap
  | _, _ => s.retireGrids qcb num

/-- packetComplete (R364): a LAUNCH completes OK only while its grid is over. -/
def execPacketComplete (qcb num status : Nat) (s : State) : Host.Outcome State Fault Refusal :=
  let early := status = 0 && s.grids.any fun g => g.qcb = qcb && g.packet = num && !s.gridOver g
  .next (if early then s else s.complete qcb num status)

/-! ### Starting packets (R363, R365, R368) -/

/-- A packet starts: it is in execution, RDPTR moves on, and the hart reads the next one. -/
def State.begin (s : State) (h : Nat) (q : Qcb) (num : Nat) (ws : List Dbl) (f : Packet → Packet) : State :=
  let p : Packet := { qcb := q.pa, num := num, words := ws, grid := none, since := s.clk, watch := none, cores := [] }
  let s := State.modQcb { s with packets := s.packets ++ [f p] } q.pa fun x => { x with rdptr := num + 1, since := s.clk }
  (s.modHart h fun x => { x with read := none }).post 32 (.packetRead h)

/-- A packet that completes as it starts. -/
def State.beginDone (s : State) (h : Nat) (q : Qcb) (num : Nat) (ws : List Dbl) : State :=
  (s.begin h q num ws fun p => p).complete q.pa num 0

/-- A packet that fails at its start (R361, R364): it completes with the status and the queue is FAULTED at it. -/
def State.failStart (s : State) (h : Nat) (q : Qcb) (num : Nat) (ws : List Dbl) (status : Nat) : State :=
  match s.signal q num ws status with
  | none => (s.signalPage q ws).post 20 (.packetRead h)
  | some s => s.noteStatus q num ws status

/-- A page that the start of a packet lacks is walked for; the hart reads on when it is there. -/
def State.hubWalk (s : State) (h : Nat) (q : Qcb) (va : Nat) : State :=
  s.startWalk (s.hubCore q.part) q.ctx va 0 (.packet h)

/-- f on the packet that a hart has read and not started. -/
def State.onPacket (s : State) (h : Nat) (f : Qcb → Nat → List Dbl → State) : State :=
  match s.hart? h with
  | some { qcb := some pa, read := some (num, ws), blocked := none, .. } =>
    match s.qcb? pa with
    | some q => if q.st == .mapped then f q num ws else s
    | none => s
  | _ => s

/-- Whether the words of a packet from k on are 0. -/
def zeroFrom (ws : List Dbl) (k : Nat) : Bool := (ws.drop k).all fun w => w = 0

/-- Whether a packet's header is good (R363): its reserved bits 0 and SIGADDR aligned and canonical. -/
def headerOk (ws : List Dbl) : Bool :=
  natBits (pktWord ws 0) 63 10 = 0 && pktWord ws 1 % 8 = 0 && canonical (pktWord ws 1)

/-- A good address of a multiple. -/
def addrOk (a m : Nat) : Bool := a % m = 0 && canonical a

/-- NOP (R365). -/
def State.startNop (s : State) (h : Nat) : State :=
  s.onPacket h fun q num ws => if headerOk ws && zeroFrom ws 3 then s.beginDone h q num ws else s.failStart h q num ws 6
def execNop (hart : Nat) (s : State) : Host.Outcome State Fault Refusal := .next (s.startNop hart)

/-- Whether a WAIT's condition holds (R365). -/
def waitHolds (ws : List Dbl) (m : Dbl) : Bool :=
  let x := (m &&& ws.getD 5 0).toNat
  let v := pktWord ws 4
  match pktWord ws 6 % 2 ^ 32 with
  | 0 => x = v
  | 1 => x ≠ v
  | 2 => decide (x ≥ v)
  | _ => decide (x < v)

/-- WAIT (R355, R365): a hart that blocks may give its queue up to a pending one (R362). -/
def State.startWait (s : State) (h : Nat) : State :=
  s.onPacket h fun q num ws =>
    let a := pktWord ws 3
    if !headerOk ws || !addrOk a 8 || pktWord ws 6 % 2 ^ 32 > 3 || !zeroFrom ws 7 then s.failStart h q num ws 6
    else match s.hubAddr (s.hubCore q.part) q.ctx a 0 with
      | .inr _ => s.hubWalk h q a
      | .inl pa =>
        if waitHolds ws (s.homeDbl pa) then s.beginDone h q num ws
        else
          let s := (s.begin h q num ws fun p => { p with watch := some (pa / 128) }).modHart h fun x => { x with blocked := some num }
          let s := s.post 0 .queueMap
          let t := pktWord ws 6 / 2 ^ 32
          if t = 0 then s else s.post (t * 1250) (.waitTimeout h num)
def execWait (hart : Nat) (s : State) : Host.Outcome State Fault Refusal := .next (s.startWait hart)

/-- A blocked hart goes on: its WAIT completes with a status. -/
def State.waitEnds (s : State) (h pa num status : Nat) : State :=
  ((s.modHart h fun x => { x with blocked := none }).post 32 (.packetRead h)).complete pa num status

/-- The condition of a blocked hart is evaluated again; a translation that has gone is walked for, and one that is refused ends the
packet as at its start (R355, R368). -/
def State.watchAgain (s : State) (hart : Nat) : State :=
  match s.hart? hart with
  | some { qcb := some pa, blocked := some num, denied := denied, .. } =>
    match s.packet? pa num, s.qcb? pa with
    | some p, some q =>
      if denied then (s.modHart hart fun x => { x with denied := false }).waitEnds hart pa num 6
      else match s.hubAddr (s.hubCore q.part) q.ctx (pktWord p.words 3) 0 with
        | .inl a =>
          let s := { s with packets := mapIf (fun x => x.qcb = pa && x.num = num) (fun x => { x with watch := some (a / 128) }) s.packets }
          if waitHolds p.words (s.homeDbl a) then s.waitEnds hart pa num 0 else s
        | .inr _ => s.hubWalk hart q (pktWord p.words 3)
    | _, _ => s
  | _ => s

/-- watchWake (R355): the condition is evaluated again. -/
def execWatchWake (hart : Nat) (s : State) : Host.Outcome State Fault Refusal := .next (s.watchAgain hart)

/-- waitTimeout (R365). -/
def execWaitTimeout (hart num : Nat) (s : State) : Host.Outcome State Fault Refusal :=
  match s.hart? hart with
  | some { qcb := some pa, blocked := some n, .. } =>
    match s.packet? pa n with
    | some p =>
      .next (if n = num && decide (p.since + pktWord p.words 6 / 2 ^ 32 * 1250 ≤ s.clk) then s.waitEnds hart pa num 4 else s)
    | none => .next s
  | _ => .next s

/-- INVAL (R365): the TLB and walk-cache entries of the queue's context, range and stage leave every core and walker of the
partition; a walk under way reads its descriptors as its outcome comes, so none of it uses a removed one. A virtual function may
name stage 1 only. -/
def State.startInval (s : State) (h : Nat) : State :=
  s.onPacket h fun q num ws =>
    let va := pktWord ws 3
    let bytes := pktWord ws 4
    let stage := pktWord ws 5
    if !headerOk ws || !addrOk va 4096 || bytes % 4096 ≠ 0 || stage = 0 || stage > 3 || !zeroFrom ws 6 then
      s.failStart h q num ws 6
    else if stage ≠ 1 && q.qfunc ≠ 0 then s.failStart h q num ws 7
    else
      let sectors := match s.part? q.part with | some p => p.sectors | none => []
      let s := s.invalidate (s.partCores q.part) sectors q.ctx va bytes stage
      s.beginDone h q num ws
def execInval (hart : Nat) (s : State) : Host.Outcome State Fault Refusal := .next (s.startInval hart)

/-- GROUP (R365): the entry is written, bound to the grid of the LAUNCH named. -/
def State.startGroup (s : State) (h : Nat) : State :=
  s.onPacket h fun q num ws =>
    let gid := pktWord ws 4 % 2 ^ 32
    let p := pktWord ws 4 / 2 ^ 32
    if !headerOk ws || !addrOk (pktWord ws 3) 8 || gid ≥ 256 || p = 0 || p > 4096 || !zeroFrom ws 6 then s.failStart h q num ws 6
    else match s.hubWords (s.hubCore q.part) q.ctx (pktWord ws 3) (2 * p) with
      | .inr (va, _, _) => s.hubWalk h q va
      | .inl l =>
        let entries := (List.range p).map fun i => ((l.getD (2 * i) 0).toNat, (l.getD (2 * i + 1) 0).toNat)
        if entries.any fun e => e.2 ≥ 2 ^ 18 then s.failStart h q num ws 6
        else
          let ms := entries.map fun e => (e.1, e.2 % 2 ^ 14, e.2 / 2 ^ 14)
          let s := s.modPart q.part fun x =>
            { x with groups := (x.groups.filter fun g => g.1 ≠ gid) ++ [(gid, ms, q.pa, pktWord ws 5)] }
          s.beginDone h q num ws
def execGroup (hart : Nat) (s : State) : Host.Outcome State Fault Refusal := .next (s.startGroup hart)

/-- PREEMPT (R309, R365). -/
def State.startPreempt (s : State) (h : Nat) : State :=
  s.onPacket h fun q num ws =>
    let k := pktWord ws 3 % 2 ^ 32
    let prio := pktWord ws 3 / 2 ^ 32
    if !headerOk ws || k = 0 || k > 768 || prio = 0 || prio > 7 || !zeroFrom ws 4 then s.failStart h q num ws 6
    else
      let r := s.preempt q.part k prio
      if r.2 = [] then r.1.beginDone h q num ws else r.1.begin h q num ws fun p => { p with cores := r.2 }
def execPreempt (hart : Nat) (s : State) : Host.Outcome State Fault Refusal := .next (s.startPreempt hart)

/-! ### Launch (R128, R287 to R289, R350) -/

/-- Whether a format slot passes the check of R128. -/
def fslotOk (k4 : Bool) (f : List Word32) : Bool :=
  let ctl := (f.getD 0 0).toNat
  let zero := f.getD 1 0
  let lo := f.getD 2 0
  let hi := f.getD 3 0
  let code := ctl % 16
  let planes := natBits ctl 11 8
  let sm := natBits ctl 13 12
  let z := zero.toInt
  if code = 0 then f.all fun w => w = 0
  else
    code ≠ 15 && (code ≠ 7 || k4) && (if code = 8 then decide (2 ≤ planes) && decide (planes ≤ 8) else planes = 0)
      && sm ≠ 3 && natBits ctl 7 4 = 0 && natBits ctl 31 14 = 0
      && (if sm = 0 then hi = 0 && lo.toNat < 2 ^ 31 && natBits lo.toNat 30 23 ≠ 0 && natBits lo.toNat 30 23 ≠ 255
          else lo.toNat % 32 = 0)
      && (if code ≤ 7 then zero = 0
          else if code = 8 ∨ code = 9 then decide (-128 ≤ z) && decide (z ≤ 127)
          else if code = 10 then decide (0 ≤ z) && decide (z ≤ 255)
          else if code = 11 then decide (-32768 ≤ z) && decide (z ≤ 32767)
          else if code = 12 then decide (0 ≤ z) && decide (z ≤ 65535)
          else true)

/-- The grid of a launch record's 64 words for a queue's packet (R287, R288, R350). -/
def gridOf (id num : Nat) (q : Qcb) (l : List Word32) : Grid :=
  let w := fun (o : Nat) => (l.getD (o / 4) 0).toNat
  let d := fun (o : Nat) => l.getD (o / 4 + 1) 0 ++ l.getD (o / 4) 0
  let shape := w 0x18
  { id := id, part := q.part, ctx := q.ctx, qcb := q.pa, packet := num, kernel := (d 0).toNat, starter := (d 8).toNat,
    count := w 0x10, crews := w 0x14, width := 16 * 2 ^ natBits shape 1 0, nregs := 8 * (natBits shape 4 2 + 1),
    hcols := natBits shape 11 8, hrows := natBits shape 16 12, novl := natBits shape 24 17, scratch := w 0x1C, node := w 0x20,
    queue := w 0x24, slice := w 0x28, heatwait := w 0x2C, args := d 0x30, tbbase := (d 0x38).toNat, tbcount := w 0x40,
    die := w 0x44, cond := d 0x48, waitj := d 0x50, pin := natBits (w 0x58) 9 0, wave := natBits (w 0x58) 23 16,
    fslots := (List.range 8).map fun i => (List.range 4).map fun j => l.getD (32 + 4 * i + j) 0,
    nextWg := 0, placedAt := 0, waiting := none, level := 0, woken := false, waveSlot := none, waveCores := 0, waveShut := none }

/-- Whether the reserved bits of a launch record are 0 (R287, R288, R350). -/
def recordZeros (l : List Word32) : Bool :=
  let w := fun (o : Nat) => (l.getD (o / 4) 0).toNat
  let shape := w 0x18
  natBits shape 7 5 = 0 && natBits shape 31 25 = 0 && natBits (w 0x58) 15 10 = 0 && natBits (w 0x58) 31 24 = 0 && w 0x5C = 0
    && (List.range 8).all fun i => w (0x60 + 4 * i) = 0

/-- Whether a record passes every check that reads no tile-buffer table (R128, R289, R350). -/
def State.recordOk (s : State) (q : Qcb) (g : Grid) (l : List Word32) : Bool :=
  let shape := (l.getD 6 0).toNat
  let others := (s.grids.filter fun x => x.part = g.part && x.pin ≠ 0).foldl (fun n x => n + x.pin) 0
  recordZeros l && g.fslots.all (fslotOk s.features.k4) && (s.part? g.part).isSome
    && g.kernel ≠ 0 && g.count ≠ 0 && decide (1 ≤ g.crews) && decide (g.crews ≤ 128)
    && shape % 4 ≠ 3 && decide (g.threads ≤ min 2048 (65536 / g.nregs))
    && g.scratch % 128 = 0 && decide (g.scratch ≤ 262144)
    && decide ((g.hcols = 0) = (g.hrows = 0)) && decide (g.hcols ≤ 12) && decide (g.hcols * g.hrows ≤ 24)
    && (g.hcols = 0 || (heatRects g).any fun r => s.rectInside g.part r)
    && (g.starter = 0 || (g.hcols % 2 = 0 && g.hrows % 2 = 0))
    && decide (g.queue ≤ 7) && decide (g.queue ≤ q.maxprio) && decide (g.slice ≤ 65535) && decide (g.die ≤ 4)
    && decide (g.tbcount ≤ 16384) && (g.tbcount = 0 || g.tbbase % 32 = 0)
    && !condsClash (condsOf g.cond) && (condsOf g.cond).all (fun x => decide (x.2 < g.tbcount))
    && (waitjCause g.waitj).isNone && decide (g.wave ≤ 192)
    && (g.pin = 0 || (g.starter ≠ 0 && decide (g.pin + others ≤ s.share g.part)))

/-- The physical addresses of a grid's tile-buffer table, or the first that cannot be translated. -/
def State.tableAddrs (s : State) (g : Grid) : Nat → List Nat ⊕ Nat
  | 0 => .inl []
  | n + 1 =>
    match s.tableAddrs g n with
    | .inr va => .inr va
    | .inl l => match s.translate (s.hubCore g.part) g.ctx (g.bufferAddr n) 0 with
      | .inl pa => .inl (l ++ [pa])
      | .inr _ => .inr (g.bufferAddr n)

/-- A grid expanded (R289, R304): its tile buffers made, its node live with every initial baton; its conditions and a pinned
reserve are set going, and the dispatcher looks for room. -/
def State.expand (s : State) (g : Grid) (pas : List Nat) : State :=
  let s := pas.foldl (fun (s : State) pa =>
    if (s.obj? pa).isSome then s else { s with objs := s.objs ++ [SyncObj.fresh pa g.part true] }) s
  let taints := match s.node? g.part g.node with | some n => n.taints | none => []
  let s := State.addLive { s with grids := s.grids ++ [g] } g.part g.node g.count taints
  let s := if g.waitj = 0 then s else s.post 40 (.waiterRegistration g.part g.id)
  let s := if g.pin = 0 then s else s.post 0 (.pinnedReserveBuild g.part g.id)
  s.placeSoon g.part

/-- LAUNCH (R289, R365). -/
def State.startLaunch (s : State) (h : Nat) : State :=
  s.onPacket h fun q num ws =>
    let a := pktWord ws 3
    if !headerOk ws || !addrOk a 64 || !zeroFrom ws 4 then s.failStart h q num ws 6
    else match s.hubWords (s.hubCore q.part) q.ctx a 64 with
      | .inr (va, _, _) => s.hubWalk h q va
      | .inl l =>
        let g := gridOf s.ids num q l
        if !s.recordOk q g l then s.failStart h q num ws 1
        else match s.tableAddrs g g.tbcount with
          | .inr va => s.hubWalk h q va
          | .inl pas =>
            if pas.any fun pa => match s.obj? pa with | some o => !o.tile | none => false then s.failStart h q num ws 1
            else (s.takeId.expand g pas).begin h q num ws fun p => { p with grid := some g.id }
def execLaunch (hart : Nat) (s : State) : Host.Outcome State Fault Refusal := .next (s.startLaunch hart)

/-! ### Partitions (R14, R365) -/

/-- The sectors that a mask names. -/
def sectorsOf (m : Nat) : List Nat := (List.range 16).filter fun k => natBit m k

/-- The function that owns a partition of sectors (log entry 22): the lowest virtual function granted all of them, else 0. -/
def State.ownerOf (s : State) (sectors : Nat) : Nat :=
  ((List.range (s.boot.vfcount + 1)).find? fun f => f ≠ 0 && (kget 0 s.boot.grants f) &&& sectors = sectors).getD 0

/-- A core and a quad as a new partition finds them (R144, R156, R207, R294): reset, but for a token they hold. -/
def Core.renewed (k : Core) : Core := { Core.reset with token := k.token, served := k.served, bucket := k.bucket }
def Quad.renewed (q : Quad) : Quad := { q with starter := Starter.reset, shadow := [] }

/-- Whether the fields of a PART packet that creates a partition are good (R363). -/
def partFieldsOk (ws : List Dbl) : Bool :=
  let cap := pktWord ws 5 % 2 ^ 32
  natBits (pktWord ws 3) 31 16 = 0 && decide (pktWord ws 3 / 2 ^ 32 ≤ 15)
    && ((List.range 11).any fun i => cap = 2 ^ (10 + i)) && decide (pktWord ws 5 / 2 ^ 32 ≤ 4096)
    && addrOk (pktWord ws 4) 64 && addrOk (pktWord ws 6) 0x400000 && addrOk (pktWord ws 7) 65536

/-- PART with sectors (R365). -/
def State.startPartCreate (s : State) (h : Nat) : State :=
  s.onPacket h fun q num ws =>
    let mask := pktWord ws 3 % 2 ^ 32
    let n := pktWord ws 3 / 2 ^ 32
    let sectors := sectorsOf mask
    if !headerOk ws then s.failStart h q num ws 6
    else if q.qfunc ≠ 0 || (kget 0 s.boot.grants q.qfunc) &&& mask ≠ mask then s.failStart h q num ws 7
    else if !partFieldsOk ws || mask = 0 || (s.part? n).isSome || sectors.any (fun k => (s.sectorPart k).isSome) then
      s.failStart h q num ws 6
    else
      let p : Partition :=
        { num := n, sectors := sectors, func := s.ownerOf mask, bqbase := pktWord ws 4, bqcap := pktWord ws 5 % 2 ^ 32,
          logbase := pktWord ws 6, ctxbase := pktWord ws 7, ctxslots := pktWord ws 5 / 2 ^ 32, seals := [], groups := [],
          spill := [], reserve := none, aborted := [] }
      let s := { s with parts := s.parts ++ [p],
                        cores := s.cores.map fun (x : Nat × Core) => (x.1, if coreSector x.1 ∈ sectors then x.2.renewed else x.2),
                        quads := s.quads.map fun (x : Nat × Quad) =>
                          (x.1, if coreSector (quadCore x.1 0) ∈ sectors then x.2.renewed else x.2) }
      let s := s.modPacer fun x => { x with shares := kset x.shares n (48 * sectors.length) }
      s.beginDone h q num ws
def execPartCreate (hart : Nat) (s : State) : Host.Outcome State Fault Refusal := .next (s.startPartCreate hart)

/-- Whether a partition holds a frozen master (R365). -/
def State.partFrozen (s : State) (p : Partition) : Bool :=
  (s.func p.func).frozen || (s.wgs.any fun w => w.part = p.num && w.crews.any fun c => c.frozen)
    || ((s.partChannels p.num).any fun c => decide (c ∈ s.frozenChans))
    || ((s.partCores p.num).any fun c => (s.starter (coreQuad c)).frozen)

/-- PART without sectors (R365). -/
def State.startPartDissolve (s : State) (h : Nat) : State :=
  s.onPacket h fun q num ws =>
    let n := pktWord ws 3 / 2 ^ 32
    if !headerOk ws then s.failStart h q num ws 6
    else if q.qfunc ≠ 0 then s.failStart h q num ws 7
    else match s.part? n with
      | none => s.failStart h q num ws 6
      | some p =>
        let busy := s.packets.any fun x => match s.qcb? x.qcb with | some y => y.part = n | none => false
        if pktWord ws 3 % 2 ^ 32 ≠ 0 || (s.nodes.any fun x => x.part = n) || s.partFrozen p || busy then s.failStart h q num ws 6
        else
          let s := { s with parts := s.parts.filter fun x => x.num ≠ n, objs := s.objs.filter fun o => o.part ≠ n,
                            ordAccs := s.ordAccs.filter fun o => o.part ≠ n
                            results := s.results.filter fun r => r.part ≠ n }
          let s := s.modPacer fun x => { x with shares := kset x.shares n 0 }
          s.beginDone h q num ws
def execPartDissolve (hart : Nat) (s : State) : Host.Outcome State Fault Refusal := .next (s.startPartDissolve hart)

/-! ### Reading packets (R368) -/

/-- The packet that a hart has read starts, when BAR and the bound of 64 incomplete packets let it (R365), and not while it is itself in
execution, as one read again after RESUME may be (log entry 56). -/
def State.startRead? (s : State) (h : Nat) : State :=
  s.onPacket h fun q num ws =>
    let mine := s.packets.filter fun p => p.qcb = q.pa
    if (natBit (pktWord ws 0) 8 && mine ≠ []) || mine.length ≥ 64 || (mine.any fun p => p.num = num) then s
    else match pktWord ws 0 % 256 with
      | 0 => s.startNop h
      | 1 => s.startLaunch h
      | 2 => s.startWait h
      | 3 => s.startInval h
      | 4 => s.startGroup h
      | 5 => s.startPreempt h
      | 6 => if pktWord ws 3 % 2 ^ 32 = 0 then s.startPartDissolve h else s.startPartCreate h
      | _ => s.failStart h q num ws 6

/-- The half of its next packet that a hart reads: its virtual address, with the words it has of that packet (R368). -/
def Hart.nextHalf (h : Hart) (q : Qcb) : Nat × List Dbl :=
  let first := match h.half with | some x => if x.1 = q.rdptr then x.2 else [] | none => []
  (q.ring + 64 * (q.rdptr % 2 ^ q.cfg) + 8 * first.length, first)

/-- Where that half lies, if its page is at hand, and the function it is read for. -/
def State.packetPlace (s : State) (hart : Nat) : Option (Nat × Nat) :=
  match s.hart? hart with
  | none => none
  | some h => match h.qcb.bind s.qcb? with
    | none => none
    | some q => match s.hubAddr (s.hubCore q.part) q.ctx (h.nextHalf q).1 0 with
      | .inl pa => some (pa, q.ctx.func)
      | .inr _ => none

/-- A half of a packet read (R368): the first is kept while its packet is at the front; a half that misses is walked, and both are read
again; one that its slice cannot start yet is read in the next clk (R404). -/
def State.readHalf (s : State) (hart : Nat) (q : Qcb) : State :=
  let (va, first) := match s.hart? hart with | some h => h.nextHalf q | none => (0, [])
  match s.hubWords (s.hubCore q.part) q.ctx va 8 with
  | .inr (a, _, _) => (s.modHart hart fun x => { x with half := none }).hubWalk hart q a
  | .inl l =>
    match (match s.packetPlace hart with | some x => s.directStart x.1 x.2 | none => some s) with
    | none => s.post 1 (.packetRead hart)
    | some s =>
      let ws := first ++ (List.range 4).map fun i => l.getD (2 * i + 1) 0 ++ l.getD (2 * i) 0
      if ws.length < 8 then (s.modHart hart fun x => { x with half := some (q.rdptr, ws) }).post 32 (.packetRead hart)
      else (s.modHart hart fun x => { x with half := none, read := some (q.rdptr, ws) }).startRead? hart

/-- packetRead (R365, R368): the next packet is read in two halves; a failure reply faults the queue at it.
An address of a packet's own that is refused makes the packet fail: a LAUNCH is REJECTED, any other is BADPKT. -/
def execPacketRead (hart : Nat) (s : State) : Host.Outcome State Fault Refusal :=
  match s.hart? hart with
  | some { qcb := some pa, blocked := none, read := rd, denied := denied, .. } =>
    match s.qcb? pa with
    | none => .next s
    | some q =>
      if q.st != .mapped || decide (q.rdptr ≥ q.wrptr) then .next s
      else
        let s := s.modHart hart fun x => { x with denied := false }
        match rd with
        | some (num, ws) =>
          if denied then .next (s.failStart hart q num ws (if pktWord ws 0 % 256 = 1 then 1 else 6)) else .next (s.startRead? hart)
        | none =>
          if denied then .next (s.faultQueue q q.rdptr 9) else .next (s.readHalf hart q)
  | _ => .next (s.watchAgain hart)

/-! ### Queue commands (R369) -/

/-- A grid killed (R369): its batons' nodes are rolled back, its batons and unformed initial batons discarded. -/
def State.killGrid (s : State) (g : Grid) : State :=
  let nodes := dedup (g.node :: (s.batons.filter fun b => b.grid = g.id).map fun b => b.node)
  let s := (s.wgs.filter fun w => w.grid = g.id).foldl (fun (s : State) w => s.abortColls w) s
  let s := nodes.foldl (fun (s : State) n => s.rollback g.part n []) s
  let mine := s.batons.filter fun b => b.grid = g.id
  let s := mine.foldl (fun (s : State) b => (s.dropClaims b.id).dropContexts b.id) s
  let left := match s.grid? g.id with | some x => x.count - x.nextWg | none => 0
  let s := { s with
    batons := s.batons.filter fun (b : Baton) => b.grid ≠ g.id
    waiters := s.waiters.filter fun (w : Waiter) => !(decide (w.baton = g.id) || mine.any fun b => b.id = w.baton)
    grids := s.grids.filter fun (x : Grid) => x.id ≠ g.id
    nodes := s.nodes.map fun (n : Node) =>
      if n.part = g.part then
        { n with live := n.live - (mine.filter fun (b : Baton) => b.node = n.num).length - (if n.num = g.node then left else 0) }
      else n }
  nodes.foldl (fun (s : State) n => s.commitDue g.part n) (s.dropReserve g.id)

/-- A started packet killed (R369, R370): a completion of its own that falls in this clk may win. -/
def State.killPacket (s : State) (p : Packet) : State :=
  let own := s.agenda.any fun e => e.1 = s.clk && (match e.2 with
    | .packetComplete q n _ => q = p.qcb && n = p.num
    | _ => false)
  let wins := own && Config.freeChoice s.free
  let s := if own then s.takeFree else s
  if wins then s
  else
    let s := (s.grids.filter fun g => g.qcb = p.qcb && g.packet = p.num).foldl (fun (s : State) g => s.killGrid g) s
    s.complete p.qcb p.num 5

/-- Whether a queue takes a command (R361, R369): what QCMDSTAT answers when it does not. -/
def Qcb.refuses (q : Qcb) (pf resume : Bool) : Option Nat :=
  match q.st with
  | .draining => some 1
  | .frozen => if pf && !resume then none else some 2
  | .destroyed => if resume then none else some 2
  | .faulted => none
  | _ => if resume then some 2 else none

/-- A destroy in progress (R369): no further packet starts, and the packets chosen complete KILLED. -/
def State.destroy (s : State) (q : Qcb) (cmd : Option (Nat × Nat)) (victims : List Packet) : State :=
  let s := ((s.dropHart q.pa).modQcb q.pa fun x => { x with cmd := cmd }).setQState q.pa .draining
  ((victims.foldl (fun (s : State) p => s.killPacket p) s).drainDone q.pa).post 0 .queueMap

/-- Whether a command for a QID waits at the hub: it is in progress (R369). -/
def State.commandWaits (s : State) (func q : Nat) : Bool := s.hubWaits.any fun x => x.1 = func && x.2.1 = q && decide (x.2.2.1 ≠ 0)

/-- A queue command by its number and mode (R369), or one that has waited at the hub: QCMDSTAT shows it in progress, and then what
became of it. f acts on the queue unless it is refused; a function being reset takes none (R392). -/
def State.command (s : State) (func q op : Nat) (pf waited : Bool) (f : State → Qcb → State) : State :=
  if (s.func func).resetting then s
  else if !waited && s.commandWaits func q then s.setCmdStat func q 1 false
  else
    let s := if waited then s else s.setCmdStat func q 0 true
    let s := s.onQueue func q op pf.toNat fun s x =>
      match x.refuses pf (op = 3) with
      | some r => s.cmdDone func q r
      | none => f s x
    if (s.func func).frozen && !s.commandWaits func q && (match s.qidBlock func q with | .violation => true | _ => false) then
      s.cmdDone func q 2 else s

/-- DESTROY.DRAIN: a WAIT in progress completes KILLED; the other started packets run on. -/
def State.destroyDrain (s : State) (func q : Nat) (pf waited : Bool) : State :=
  s.command func q 1 pf waited fun s x => s.destroy x (some (func, q)) (s.packets.filter fun p => p.qcb = x.pa && p.watch.isSome)

/-- Every incomplete packet of a queue and every grid it launched that is not complete are killed. -/
def State.killQueue (s : State) (x : Qcb) (cmd : Option (Nat × Nat)) : State :=
  let s := s.destroy x cmd (s.packets.filter fun p => p.qcb = x.pa)
  (s.grids.filter fun g => g.qcb = x.pa && !(s.packets.any fun p => p.qcb = x.pa && p.num = g.packet)).foldl
    (fun (s : State) g => s.killGrid g) s

/-- DESTROY.KILL. -/
def State.destroyKill (s : State) (func q : Nat) (pf waited : Bool) : State :=
  s.command func q 2 pf waited fun s x => s.killQueue x (some (func, q))

/-- RESUME: a FAULTED or DESTROYED queue is IDLE or PENDING again, RDPTR kept. -/
def State.resume (s : State) (func q : Nat) (pf waited : Bool) : State :=
  s.command func q 3 pf waited fun s x =>
    (((s.modQcb x.pa fun y => { y with since := s.clk }).setQState x.pa x.resting).cmdDone func q 0).post 0 .queueMap

/-- destroyDrain (R369). -/
def execDestroyDrain (func q : Nat) (pf : Bool) (s : State) : Host.Outcome State Fault Refusal := .next (s.destroyDrain func q pf false)
/-- destroyKill (R369). -/
def execDestroyKill (func q : Nat) (pf : Bool) (s : State) : Host.Outcome State Fault Refusal := .next (s.destroyKill func q pf false)
/-- resume (R369). -/
def execResume (func q : Nat) (pf : Bool) (s : State) : Host.Outcome State Fault Refusal := .next (s.resume func q pf false)

/-! ### Mapping (R362) -/

/-- An access that waited at the hub is tried again. -/
def State.hubRetry (s : State) (x : Nat × Nat × Nat × Nat) : State :=
  match x.2.2.1 with
  | 0 => s.notify x.1 x.2.1 x.2.2.2
  | 1 => s.destroyDrain x.1 x.2.1 (x.2.2.2 = 1) true
  | 2 => s.destroyKill x.1 x.2.1 (x.2.2.2 = 1) true
  | _ => s.resume x.1 x.2.1 (x.2.2.2 = 1) true

/-- queueMap (R362): accesses that wait are tried again, then each pending queue is mapped if it can be. -/
def execQueueMap (s : State) : Host.Outcome State Fault Refusal :=
  let s := s.hubWaits.foldl (fun (s : State) x => s.hubRetry x) { s with hubWaits := [] }
  .next (s.pendingQueues.foldl (fun (s : State) q => s.mapQueue q.pa) s)

end Sys2Proof.Machine
end

