-- ==== Sys2Proof/Machine/Reliability.lean ====
section
/-! DEFINITION. Reliability and containment (R371 to R385): detected errors, patrol scrub, refresh, fabric failures, freezing and
what the host does about it, the in-field test, and paired mode's comparator. -/

namespace Sys2Proof.Machine

/-! ### Detected errors (R371, R372) -/

/-- The requester of an uncorrectable error's data gets its abort completion (R372). An operation or engine word is named by its
identity; from 2^32 on the number names a hart that reads a packet. -/
def State.abortRequester (s : State) (part pa op : Nat) : State :=
  if op ≥ 2 ^ 32 then
    match s.hart? (op - 2 ^ 32) with
    | some { qcb := some q, blocked := none, .. } =>
      match s.qcb? q with | some x => s.faultQueue x x.rdptr 9 | none => s
    | _ => s
  else match s.op? op with
    | some o =>
      match (o.lines.find? fun l => l.pa.map (fun a => a / 128) = some (pa / 128)).or o.lines.head? with
      | some l => s.abortLine o { l with pa := some pa }
      | none => s.uncorrectable part o.node (pa / 128)
    | none => match s.word? op with
      | some _ => (s.modWord op fun x => { x with causes := x.causes ++ [(0, 8)], stop := true, bad := some (pa / 128) }).post 0
          (.engineWordComplete op)
      | none => s

/-- eccError (R371, R372): an error of a partition's request, corrected, or withheld with an abort completion; SOURCE 0 is HBM, where
the word stays bad, and SOURCE 3 a compactor, which applied records of the line. -/
def execEccError (part source pa op : Nat) (correctable : Bool) (s : State) : Host.Outcome State Fault Refusal :=
  if correctable then .next (s.correctable part source)
  else
    let s := s.recordUncorrectable part source (some pa) false
    let s := if source = 0 then s.markBad pa else s
    .next (if source = 3 then s.compactorAborts part pa (s.allRecords.filter fun x => x.2.live && x.2.line = pa / 128)
      else s.abortRequester part pa op)

/-- patrolRead (R371, R373). -/
def execPatrolRead (pa : Nat) (bad : Bool) (s : State) : Host.Outcome State Fault Refusal := .next (s.patrolFound pa bad)

/-! ### Refresh (R374) -/

/-- A refresh or management of a bank ends; once none holds the bank, its requests that waited are looked at again. -/
def State.bankFree (s : State) (stack bank : Nat) : State :=
  let s := s.modHbm stack fun x => { x with busy := x.busy.erase bank }
  if bank ∈ (s.hbm stack).busy then s
  else
    ((s.hbm stack).queue.filter fun q => match s.line? q.1 q.2 with
      | some (_, l) => hbmBankOf (l.pa.getD 0) = bank
      | none => false).foldl (fun (s : State) q => s.post 0 (.hbmRequestArrival q.1 q.2)) s

/-- A bank is held. -/
def State.bankBusy (s : State) (stack bank : Nat) : State := s.modHbm stack fun x => { x with busy := x.busy ++ [bank] }

/-- The clk that the next refresh or management command takes: two together within the 1,000 clk that R381 counts (log entry 12). -/
def State.rfmClk (s : State) : Nat := Config.rfmTime s.free % 501

/-- refresh (R374): a bank is refreshed, and its rows' counts begin a new window; done ends a refresh or a refresh-management
command. -/
def execRefresh (stack bank : Nat) (done : Bool) (s : State) : Host.Outcome State Fault Refusal :=
  if done then .next (s.bankFree stack bank)
  else
    .next (((s.bankBusy stack bank).modHbm stack fun x => { x with acts := x.acts.filter fun a => a.1 ≠ bank }).post
      s.rfmClk (.refresh stack bank true)).takeFree

/-- refreshManagement (R374): the command holds the bank, and the row's count is reset. -/
def execRefreshManagement (stack bank row : Nat) (s : State) : Host.Outcome State Fault Refusal :=
  .next (((s.bankBusy stack bank).modHbm stack fun x =>
    { x with acts := x.acts.filter fun a => !(a.1 = bank && a.2.1 = row) }).post s.rfmClk
      (.refresh stack bank true)).takeFree

/-! ### The fabric (R376) -/

/-- A Haled port. -/
def State.port (s : State) (n : Nat) : Port := kget Port.reset s.ports n
def State.modPort (s : State) (n : Nat) (f : Port → Port) : State := { s with ports := kset s.ports n (f (s.port n)) }

/-- idleFlit (R376): a port with nothing else to send sends an idle flit, and again 0.5 µs later. -/
def execIdleFlit (port : Nat) (s : State) : Host.Outcome State Fault Refusal :=
  .next (((s.modPort port fun p => { p with sent := s.clk }).send (.idleFlit port)).post 625 (.idleFlit port))

/-- haledFlitArrival (R376): a flit from a named package is discarded; any other ends the port's silence and the package's. -/
def execHaledFlitArrival (port pkg : Nat) (s : State) : Host.Outcome State Fault Refusal :=
  if pkg ∈ s.namedFailures then .next s
  else .next { s.modPort port (fun p => { p with heard := s.clk, down := false }) with heardFrom := kset s.heardFrom pkg s.clk }

/-- linkFailure (R376): a port that has heard nothing for 2 µs is down. -/
def execLinkFailure (port : Nat) (s : State) : Host.Outcome State Fault Refusal :=
  if s.clk < (s.port port).heard + 2500 then .next s else .next (s.modPort port fun p => { p with down := true })

/-- Whether every port that satisfies a condition has been down for a time (R376). -/
def State.portsDown (s : State) (on : Nat → Bool) (time : Nat) : Bool :=
  (List.range 18).all fun n => !on n || decide ((s.port n).heard + 2500 + time ≤ s.clk)

/-- switchFailure (R376): a switch is down when every link through it has been down for 20 µs. -/
def execSwitchFailure (switch : Nat) (s : State) : Host.Outcome State Fault Refusal :=
  .next (if switch ∈ s.switchesDown || !s.portsDown (fun n => Config.portSwitch n = switch) 25000 then s
    else { s with switchesDown := s.switchesDown ++ [switch] })

/-- groupFailure (R376): a group is unreachable when no route has reached it for 200 µs. -/
def execGroupFailure (grp : Nat) (s : State) : Host.Outcome State Fault Refusal :=
  .next (if grp ∈ s.groupsDown || !s.portsDown (fun n => Config.portReaches n grp) 250000 then s
    else { s with groupsDown := s.groupsDown ++ [grp] })

/-- A partition's jobs with a package in their groups are told of its failure (R376): pending collectives end ABORTED, pod-scope
barriers take ABORT, and the error interrupt names SOURCE 5. -/
def State.packageLost (s : State) (p : Partition) (pkg : Nat) : State :=
  let groups := p.groups.filter fun g => g.2.1.any fun m => m.2.1 = pkg
  let gids := groups.map fun g => g.1
  if gids = [] then s
  else
    let s := groups.foldl (fun (s : State) g => s.abortGroup g.2.1 g.1) s
    let s := (s.episodes.filter fun e => e.scope = 5 && e.part = p.num && gids.contains e.gid && !e.aborted).foldl
      (fun (s : State) e => s.abortEpisode e.id none) s
    s.sourceInterrupt p.num 5

/-- namedFailure (R376): a package from which this one too has heard nothing for 250 µs is named. -/
def execNamedFailure (pkg : Nat) (s : State) : Host.Outcome State Fault Refusal :=
  if pkg ∈ s.namedFailures || s.heardFrom.any fun x => x.1 = pkg && decide (s.clk < x.2 + 312500) then .next s
  else
    let s := State.send { s with namedFailures := s.namedFailures ++ [pkg] } (.named pkg)
    .next (s.parts.foldl (fun (s : State) p => s.packageLost p pkg) s)

/-! ### Freezing (R378, R379) -/

/-- The crew of a core's number. -/
def State.crewAt (s : State) (core n : Nat) : Option Master :=
  (s.wgs.filter fun w => w.core = core).findSome? fun w =>
    ((List.range w.crews.length).find? fun c => s.crewNumber w c = n).map fun c => Master.crew w.id c

/-- violation (R378): the smallest master that caused it is frozen. -/
def execViolation (cause func unit crew : Nat) (s : State) : Host.Outcome State Fault Refusal :=
  let m := match cause with
    | 1 => if crew = 127 then some (Master.starter (coreQuad unit)) else s.crewAt unit crew
    | 2 => some (Master.channel unit)
    | _ => some (Master.function func)
  match m with
  | some m => .next (s.violate cause func unit crew m)
  | none => .next s

/-- The line requests of a crew that its violation stopped are translated again. -/
def State.rewalk (s : State) (wg crew : Nat) : State :=
  match s.wg? wg with
  | none => s
  | some w =>
    (s.ops.filter fun o => o.wg = wg && (o.lanes.any fun l => w.crewOf l.thread = crew) && !s.inTranslation o.id).foldl
      (fun (s : State) o => s.walkLines { o with lines := o.lines.filter fun l => l.pa.isNone && l.st == .walking }) s

/-- A channel is frozen no longer, unless its function is, which only a reset releases (R379). -/
def State.freeChan (s : State) (n : Nat) : State :=
  if s.parts.any fun p => (s.func p.func).frozen && decide (n ∈ s.partChannels p.num) then s
  else { s with frozenChans := s.frozenChans.filter fun c => c ≠ n }

/-- THAW (R379): a crew or channel goes on exactly where it stopped: its held requests and its replies too. -/
def State.thawMaster (s : State) (m : Master) : State :=
  match m with
  | .crew wg crew =>
    let s := (s.modWg wg fun w => w.modCrew crew fun c => { c with frozen := false }).rewalk wg crew
    match s.wg? wg with
    | some w => ((s.releaseHeld w.core).retryStores w.core).retryObjects w.core
    | none => s
  | .starter q => s.modStarter q fun k => { k with frozen := false }
  | .channel n =>
    let s := s.freeChan n
    (s.words.filter fun e => e.chan = some n || e.chan.isNone).foldl (fun (s : State) e => s.wakeWord 0 e.id) s
  | .function _ => s

/-- A killed workgroup's baton is discarded (R379). -/
def State.discardBaton (s : State) (id : Nat) : State :=
  match s.baton? id with
  | none => s
  | some b =>
    let s := (s.dropClaims id).dropContexts id
    let s := { s with batons := s.batons.filter fun (x : Baton) => x.id ≠ id,
                      waiters := s.waiters.filter fun (w : Waiter) => w.baton ≠ id }
    let s := s.modNode b.part b.node fun n => { n with live := n.live - (if b.st == .finished then 0 else 1) }
    (s.commitDue b.part b.node).gridsOver b.part

/-- A workgroup killed for good (R178, R379). -/
def State.killForGood (s : State) (wg : Nat) : State :=
  match s.wg? wg with
  | none => s
  | some w => (s.killWg wg (2 ^ 64) none).discardBaton w.baton

/-- KILL (R379): a crew's workgroup is killed and its baton discarded; a channel's word completes with ACCESS. -/
def State.killMaster (s : State) (m : Master) : State :=
  match m with
  | .crew wg _ => s.killForGood wg
  | .starter q =>
    let s := match s.starterWg q with | some w => s.killForGood w.id | none => s
    (s.starterLeaves q).idleStarter q
  | .channel n =>
    let s := s.freeChan n
    (s.words.filter fun e => e.chan = some n).foldl (fun (s : State) e =>
      ((s.dropParts e.id).modWord e.id fun x => { x with causes := x.causes ++ [(0, 4)], stop := true }).post 0 (.engineWordComplete e.id)) s
  | .function _ => s

/-- The master that THAW and KILL act on: that of FRZLOG while VALID. -/
def State.loggedMaster (s : State) : Option Master := if s.frzlog.getLsbD 63 then s.frzWho else none

/-- thaw (R379). -/
def execThaw (s : State) : Host.Outcome State Fault Refusal :=
  .next (match s.loggedMaster with | some m => s.thawMaster m | none => s)
/-- kill (R379). -/
def execKill (s : State) : Host.Outcome State Fault Refusal :=
  .next (match s.loggedMaster with | some m => s.killMaster m | none => s)
/-- acknowledge (R379). -/
def execAcknowledge (s : State) : Host.Outcome State Fault Refusal :=
  .next { s with frzlog := s.frzlog &&& 0x3FFFFFFFFFFFFFFF, frzWho := none }

/-! ### Rate limiters (R382) -/

/-- bucketFill (R382): a core's bucket filled up to now. -/
def execBucketFill (core : Nat) (s : State) : Host.Outcome State Fault Refusal := .next (s.charge core 0)

/-! ### The in-field test (R383) -/

/-- The clk of IFTINT hours. -/
def State.testPeriod (s : State) : Nat := s.boot.iftint * 4500000000000

/-- Whether a workgroup can be vacated for a test of a quad: not of a pinned grid, no heat beyond the quad, no crew in its
handler. -/
def State.testPreempts (s : State) (q : Nat) (w : Wg) : Bool :=
  (match s.grid? w.grid with | some g => decide (g.pin = 0) | none => true)
    && (s.together w).all fun x => coreQuad x.core = q && !(x.crews.any fun c => c.inHandler)

/-- inFieldTestDue (R383): the quad takes nothing new, and its workgroups are vacated. -/
def execInFieldTestDue (quad : Nat) (s : State) : Host.Outcome State Fault Refusal :=
  let s := s.post s.testPeriod (.inFieldTestDue quad)
  if (s.quad quad).failed || (s.quad quad).testing || (s.quad quad).testDue.isSome then .next s
  else
    let s := s.modQuad quad fun x => { x with testDue := some s.clk }
    let ws := s.wgs.filter fun w => coreQuad w.core = quad && s.testPreempts quad w
    let s := ws.foldl (fun (s : State) w => s.modWg w.id fun x => { x with evict := true }) s
    let s := ws.foldl (fun (s : State) w =>
      s.postAll ((List.range w.crews.length).map fun c => (0, .crewVacate w.id c))) s
    .next ((s.startTest quad).post 62500000 (.inFieldTestSkip quad))

/-- The dispatcher looks at a quad's partition again. -/
def State.quadSoon (s : State) (quad : Nat) : State :=
  match s.corePart (quadCore quad 0) with | some p => s.placeSoon p.num | none => s

/-- inFieldTestSkip (R383): a quad not clear after 50 ms skips its test; after three in a row it is blocked, and its test waits
with no ceiling. -/
def execInFieldTestSkip (quad : Nat) (s : State) : Host.Outcome State Fault Refusal :=
  match (s.quad quad).testDue with
  | none => .next s
  | some t =>
    if s.clk < t + 62500000 || (s.quad quad).blocked then .next s
    else
      let n := min 3 ((s.quad quad).skips + 1)
      let s := s.modQuad quad fun x =>
        { x with skips := n, blocked := decide (n ≥ 3), testDue := if n ≥ 3 then x.testDue else none }
      .next (s.quadSoon quad)

/-- inFieldTestComplete (R383): the tokens of the test run on as ballast. -/
def execInFieldTestComplete (quad : Nat) (pass : Bool) (s : State) : Host.Outcome State Fault Refusal :=
  if !(s.quad quad).testing then .next s
  else
    let s := (List.range 4).foldl (fun (s : State) i =>
      let c := quadCore quad i
      State.modCore { s with pacer := { s.pacer with reqs := s.pacer.reqs.filter fun r => r.core ≠ c } } c fun k =>
        { k with token := k.token.toBallast s.clk, asked := false }) s
    let s := s.modQuad quad fun x => { x with testing := false }
    if pass then
      .next ((s.modQuad quad fun x => { x with skips := 0, blocked := false, passed := s.clk }).quadSoon quad)
    else
      let s := s.modQuad quad fun x => { x with failed := true }
      match s.corePart (quadCore quad 0) with
      | some p => .next (s.sourceInterrupt p.num 4)
      | none => .next (s.event 0 0)

/-! ### Paired mode (R385) -/

/-- comparatorMismatch (R385): the node is rolled back and counted with SOURCE 4; one that has committed cannot meet it. -/
def execComparatorMismatch (part node : Nat) (s : State) : Host.Outcome State Fault Refusal :=
  match s.node? part node with
  | none => .next s
  | some _ => .next ((s.correctable part 4).rollback part node [])

end Sys2Proof.Machine
end

