-- ==== Sys2Proof/Machine/HostSide.lean ====
section
/-! DEFINITION. The host's side (R386 to R400): page requests and their replies, CXL.mem, hub registers, function-level resets,
interrupt masks, board signals, telemetry, boot and flash. -/

namespace Sys2Proof.Machine

/-! ### Page requests (R390, R391) -/

/-- Entries of the stage-2 fault ring, or none while its size code disables it (R388). -/
def State.faultRing (s : State) : Option Nat :=
  let n := natBits (s.func 0).s2fring.toNat 4 0
  if 6 ≤ n ∧ n ≤ 12 then some (2 ^ n) else none

/-- Whether the ring has room: one entry stays free (log entry 24). -/
def State.faultRoom (s : State) : Bool :=
  match s.faultRing with
  | none => false
  | some n => ((s.func 0).s2ftail.toNat + 1) % n ≠ (s.func 0).s2fhead.toNat % n

/-- A stage-2 fault entry (R390). -/
def faultEntry (r : PageReq) : Dbl × Dbl :=
  (BitVec.ofNat 64 (r.kind + r.page % 2 ^ 52 * 4096), BitVec.ofNat 64 (r.index + r.func * 256))

/-- A stage-2 request's entry is written where the ring has room (R390). -/
def State.writeFault (s : State) (req : Nat) : State :=
  match s.pageReqs.find? fun r => r.id = req, s.faultRing with
  | some r, some n =>
    if r.sent || !s.faultRoom then s
    else
      let tail := (s.func 0).s2ftail.toNat % n
      let a := natBits (s.func 0).s2fring.toNat 63 12 * 4096 + 16 * tail
      let e := faultEntry r
      let s := (s.setHomeDbl a e.1).setHomeDbl (a + 8) e.2
      let s := s.modFunc 0 fun f => { f with s2ftail := BitVec.ofNat 32 ((tail + 1) % n) }
      let s := { s with pageReqs := mapIf (fun x => x.id = req) (fun x => { x with sent := true }) s.pageReqs }
      s.event 0 4
  | _, _ => s

/-- stage2FaultEntryWrite (R390): an entry for which the ring has no room waits. -/
def execStage2FaultEntryWrite (req : Nat) (s : State) : Host.Outcome State Fault Refusal := .next (s.writeFault req)

/-- Entries that wait for room are written, in order, once their time has come (R390). -/
def State.writeFaults (s : State) : State :=
  (s.pageReqs.filter fun r => r.stage = 2 && !r.sent && !(s.agenda.any fun e => e.2 == .stage2FaultEntryWrite r.id)).foldl
    (fun (s : State) r => s.writeFault r.id) s

/-- pageRequestMessage (R390). -/
def execPageRequestMessage (req : Nat) (s : State) : Host.Outcome State Fault Refusal :=
  match s.pageReqs.find? fun r => r.id = req with
  | none => .next s
  | some r =>
    .next (State.send { s with pageReqs := mapIf (fun x => x.id = req) (fun x => { x with sent := true }) s.pageReqs }
      (.pri r.func r.index r.page))

/-- The outstanding request that a reply names: sent, and not settled by an earlier reply (R391). -/
def State.outstanding (s : State) (func stage index : Nat) : Option PageReq :=
  s.pageReqs.find? fun r => r.func = func && r.stage = stage && r.index = index && r.sent && !r.settled

/-- The hub has the reply to a request: its INDEX is free, and the walker learns of it 20 clk later (R390, R391, R401). -/
def State.settle (s : State) (r : PageReq) (ok : Bool) : State :=
  { s with pageReqs := mapIf (fun x => x.id = r.id) (fun x => { x with settled := true }) s.pageReqs }.post 20 (.pageReplyAtWalker r.id ok)

/-- Whether a reply is for a request that a reset has freed (R392): of an INDEX that has been taken again since, which of the two requests
the host answers is open. -/
def State.lateReply (s : State) (func stage index : Nat) : Bool :=
  decide ((stage, index) ∈ (s.func func).freed) && ((s.outstanding func stage index).isNone || Config.freeChoice s.free)

/-- A reply for a freed request is discarded (R392). -/
def State.discardReply (s : State) (func stage index : Nat) : State :=
  (s.modFunc func fun f => { f with freed := f.freed.filter fun n => n ≠ (stage, index) }).takeFree

/-- prgResponse (R391): the reply reaches the walker 20 clk later (R401); one that names no outstanding request is a violation,
unless a reset freed it (R392). -/
def execPrgResponse (func index : Nat) (ok : Bool) (s : State) : Host.Outcome State Fault Refusal :=
  if s.lateReply func 1 index then .next (s.discardReply func 1 index)
  else match s.outstanding func 1 index with
  | some r => .next (s.settle r ok).takeFree
  | none => .next (s.violate 5 func index 0 (.function func))

/-- A write of S2REPLY (R388, R391). -/
def State.s2Reply (s : State) (v : Dbl) : State :=
  let func := natBits v.toNat 14 9
  let index := natBits v.toNat 7 0
  if s.lateReply func 2 index then s.discardReply func 2 index
  else match s.outstanding func 2 index with
  | some r => (s.settle r (!v.getLsbD 8)).takeFree
  | none => s

/-- stage2ReplyWrite (R391). -/
def execStage2ReplyWrite (v : BitVec 64) (s : State) : Host.Outcome State Fault Refusal := .next (s.s2Reply v)

/-! ### CXL.mem and ATS (R386) -/

/-- atsInvalidation (R386): translations into host memory in the range leave every core's TLB. -/
def execAtsInvalidation (addr bytes : Nat) (s : State) : Host.Outcome State Fault Refusal :=
  let hit := fun (e : TlbEntry) => isHost e.pa && decide (e.va < addr + bytes) && decide (addr < e.va + e.size)
  .next { s with cores := s.cores.map fun (x : Nat × Core) => (x.1, { x.2 with tlb := x.2.tlb.filter fun e => !hit e }) }

/-- A host's CXL.mem request at its home slices, under the physical function's weight (R380, R386). -/
def State.hostRequest (s : State) (write : Bool) (pa len : Nat) (bytes : List (BitVec 8)) : State :=
  let lines := (rangeLines pa len).map fun n => { lineReq n (128 * n) (some (128 * n)) [] with st := .travelling }
  let part := match s.sectorPart (paSector pa) with | some p => p.num | none => 0
  let x := bareOp s (.host write) 4096 part 0 { func := 0, s1 := 0, s2 := 0 } pa 0 lines
  let put := ((List.range bytes.length).zip bytes).map fun b => (pa + b.1, b.2.toNat)
  (s.addOp { x with n := len, ranges := put }).postAll (lines.map fun l => (0, .sliceRequestArrival x.id l.line))

/-- cxlMemWrite (R386): bytes are written in place at their home slice, waking the harts that watch their lines. -/
def execCxlMemWrite (pa : Nat) (bytes : List (BitVec 8)) (s : State) : Host.Outcome State Fault Refusal :=
  .next (s.hostRequest true pa bytes.length bytes)

/-- cxlMemRead (R386): the bytes as their home slices hold them. -/
def execCxlMemRead (pa len : Nat) (s : State) : Host.Outcome State Fault Refusal :=
  .next (s.hostRequest false pa len [])

/-! ### Resets (R392, R395) -/

/-- The functions that a function's reset takes in: a physical-function reset every one. -/
def State.resetSet (s : State) (func : Nat) : List Nat := if func = 0 then List.range (s.boot.vfcount + 1) else [func]

/-- A partition drained (R377, R392): its grids are killed, its batons and contexts gone, uncommitted records void; it stays
created and empty. Tokens run on as ballast (R347). -/
def State.drainPart (s : State) (p : Partition) : State :=
  let s := (s.grids.filter fun g => g.part = p.num).foldl (fun (s : State) g =>
    let s := s.killGrid g
    s.complete g.qcb g.packet 5) s
  let s := (s.wgs.filter fun w => w.part = p.num).foldl (fun (s : State) w => s.removeWg w.id) s
  let s := (s.partCores p.num).foldl (fun (s : State) c => s.killArray c) s
  let quads := dedup ((s.partCores p.num).map coreQuad)
  let s := quads.foldl (fun (s : State) q => ((s.modQuad q fun x => { x with shadow := [] }).starterLeaves q).idleStarter q) s
  let s := s.voidNode p.num ((s.nodes.filter fun n => n.part = p.num).map fun n => n.num)
  { s with batons := s.batons.filter fun (b : Baton) => b.part ≠ p.num
           waiters := s.waiters.filter fun (w : Waiter) => w.part ≠ p.num
           episodes := s.episodes.filter fun (e : Episode) => e.part ≠ p.num || decide (e.scope ≥ 4)
           nodes := s.nodes.filter fun (n : Node) => n.part ≠ p.num
           parts := mapIf (fun x => x.num = p.num) (fun x => { x with spill := [], reserve := none, groups := [], aborted := [] }) s.parts }

/-- The translations of a function's contexts leave every TLB and walk cache (R198). -/
def State.dropTranslations (s : State) (f : Nat) : State :=
  { s with cores := s.cores.map fun (x : Nat × Core) => (x.1, { x.2 with tlb := x.2.tlb.filter fun e => e.ctx.func ≠ f })
           walkCache := s.walkCache.filter fun e => e.ctx.func ≠ f }

/-- One function is reset (R392). -/
def State.resetFunc (s : State) (f : Nat) : State :=
  let s := s.modFunc f fun x => { x with resetting := true }
  let s := (s.qcbs.filter fun q => q.qfunc = f).foldl (fun (s : State) q =>
    let s := s.killQueue q none
    let s := s.setQState q.pa .idle
    { s with qcbs := s.qcbs.filter fun x => x.pa ≠ q.pa, packets := s.packets.filter fun p => p.qcb ≠ q.pa }) s
  let s := (s.qcbsOut.filter fun x => x.2 = f).foldl (fun (s : State) x => s.setHome (x.1 + 0x0C) 0) s
  let s := { s with qcbsOut := s.qcbsOut.filter fun x => x.2 ≠ f }
  let mine := s.parts.filter fun p => p.func = f
  let chans := mine.flatMap fun p => s.partChannels p.num
  let s := mine.foldl (fun (s : State) p => s.drainPart p) s
  let freed := (s.pageReqs.filter fun r => r.func = f && r.sent && !r.settled).map fun r => (r.stage, r.index)
  let s := { s with pageReqs := s.pageReqs.filter fun r => r.func ≠ f
                    frozenChans := s.frozenChans.filter fun c => !(chans.contains c) }
  let s := s.modFunc f fun x => { x with frozen := false, fqt1 := 0, freed := x.freed ++ freed.filter fun n => !x.freed.contains n }
  (s.dropTranslations f).post 12500000 (.functionResetComplete f)

/-- functionLevelReset (R392). -/
def execFunctionLevelReset (func : Nat) (s : State) : Host.Outcome State Fault Refusal :=
  .next ((s.resetSet func).foldl (fun (s : State) f => s.resetFunc f) s)

/-- functionResetComplete (R392). -/
def execFunctionResetComplete (func : Nat) (s : State) : Host.Outcome State Fault Refusal :=
  .next (s.modFunc func fun f => { f with resetting := false })

/-- The K7 side reset (R392, R395): everything is as after reset but the memory, the flash and what has been sent; nothing runs
until RESET_N rises with PWROK high, when boot starts. -/
def State.powered (s : State) (resetN pwrok : Bool) : State :=
  { State.reset with
    mem := s.mem, caps := s.caps, clk := s.clk, free := s.free, ids := s.ids, sent := s.sent, telemetry := s.telemetry
    boot := { BootSt.reset with flash := s.boot.flash, resetN := resetN, pwrok := pwrok }
    pacer := { Pacer.reset with slotBase := s.clk }
    agenda := if resetN && pwrok then [(s.clk, .boot)] else [] }

/-- resetN (R395). -/
def execResetN (level : Bool) (s : State) : Host.Outcome State Fault Refusal :=
  if level = s.boot.resetN then .next s else .next (s.powered level s.boot.pwrok)

/-- pwrok (R395): a fall acts as RESET_N. -/
def execPwrok (level : Bool) (s : State) : Host.Outcome State Fault Refusal :=
  if level = s.boot.pwrok then .next s else .next (s.powered s.boot.resetN level)

/-- vralertN (R395): a V/F step down of every island. -/
def execVralertN (s : State) : Host.Outcome State Fault Refusal :=
  .next ((List.range 96).foldl (fun (s : State) i => s.askStep i false) s)

/-- laneRepair (R386): a module that fails is left out. -/
def execLaneRepair (module : Nat) (ok : Bool) (s : State) : Host.Outcome State Fault Refusal :=
  .next (if ok || decide (module ∈ s.leftOut) then s else { s with leftOut := s.leftOut ++ [module] })

/-! ### Boot (R397 to R400) -/

/-- CRC-32 with the IEEE 802.3 polynomial (R62): one bit, one byte, and a list of bytes. -/
def crcBit (c : Word32) : Word32 := if c.getLsbD 0 then (c >>> 1) ^^^ 0xEDB88320#32 else c >>> 1
def crcByte (c : Word32) (b : Byte) : Word32 :=
  crcBit (crcBit (crcBit (crcBit (crcBit (crcBit (crcBit (crcBit (c ^^^ b.setWidth 32))))))))
def crc32 (l : List Byte) : Word32 := (l.foldl crcByte 0xFFFFFFFF#32) ^^^ 0xFFFFFFFF#32

/-- A marker copy at an offset of flash that is valid (R398): its slot and SEQ. -/
def markerAt (m : Memory) (off : Nat) : Option (Nat × Nat) :=
  let w := fun (o : Nat) => (m.word (off + o)).toNat
  if w 0 = 0x4B4D524B ∧ w 4 < 2 ∧ crc32 (m.bytes off 16) = m.word (off + 16) ∧ w 20 = 0 ∧ w 24 = 0 ∧ w 28 = 0 then
    some (w 4, (m.dbl (off + 8)).toNat)
  else none

/-- The valid copies, by SEQ descending, the copy at 0 first among equals (R398). -/
def markerCopies (m : Memory) : List (Nat × Nat) :=
  match markerAt m 0, markerAt m 0x1000 with
  | some a, some b => if a.2 ≥ b.2 then [a, b] else [b, a]
  | some a, none => [a]
  | none, some b => [b]
  | none, none => []

/-- Where a slot begins in flash (R397). -/
def slotBase (slot : Nat) : Nat := if slot = 0 then 0x100000 else 0x900000

/-- Where a slot's configuration record lies in flash: within the slot (R397, R399). -/
def recordBase (slot : Nat) : Nat := slotBase slot + Config.recordAt slot % 0x7FFF40

/-- A slot's bytes of the flash, by their offsets in it (R398). -/
def slotBytes (m : Memory) (slot : Nat) : List (Nat × BitVec 8) :=
  (m.filter fun x => slotBase slot ≤ x.1 && x.1 < slotBase slot + 0x800000).map fun x => (x.1 - slotBase slot, x.2)

/-- A 32-bit field and a 16-bit field of a slot's configuration record. -/
def cfgWord (m : Memory) (slot off : Nat) : Nat := (m.word (recordBase slot + off)).toNat
def cfgGrant (m : Memory) (slot f : Nat) : Nat :=
  (m.get (recordBase slot + 0x40 + 2 * f)).toNat + (m.get (recordBase slot + 0x41 + 2 * f)).toNat * 256

/-- Whether a slot's configuration record passes (R399, R400). -/
def recordPasses (m : Memory) (slot : Nat) : Bool :=
  let w := cfgWord m slot
  w 0 = 0x4746434B && decide (w 4 ≤ 63) && decide (w 8 < 2 ^ 20) && decide (1 ≤ w 0x0C) && decide (w 0x0C ≤ 48)
    && decide (64 ≤ w 0x10) && decide (w 0x10 ≤ 65535) && decide (1 ≤ w 0x14) && decide (w 0x14 ≤ 255)
    && decide (1 ≤ w 0x18) && decide (w 0x18 ≤ 15)
    && (List.range 64).all fun f => decide (f ≤ w 4) || cfgGrant m slot f = 0

/-- Whether a slot verifies (R398). -/
def slotVerifies (m : Memory) (slot : Nat) : Bool := Config.slotSigned slot (slotBytes m slot) && recordPasses m slot

/-- The slot that boots (R398): those of the valid copies first, then A and B. -/
def bootSlot (m : Memory) : Option Nat := ((markerCopies m).map (fun (c : Nat × Nat) => c.1) ++ [0, 1]).find? (slotVerifies m)

/-- A slot boots (R399): its record's values go to the LK registers, which are then locked; ports and in-field tests run. -/
def State.bootFrom (s : State) (slot : Nat) : State :=
  let m := s.boot.flash
  let w := cfgWord m slot
  let grants := (List.range (w 4 + 1)).map fun f => (f, cfgGrant m slot f)
  let s := { s with
    boot := { s.boot with active := ((markerCopies m).head?.map fun (c : Nat × Nat) => c.1), recovery := false, locked := true, vfcount := w 4,
                          package := w 8 % 2 ^ 14, group := w 8 / 2 ^ 14, iftint := w 0x14, modules := w 0x18, grants := grants }
    pacer := { s.pacer with ramp := w 0x0C, rampNext := w 0x0C }
    rhctl := (List.range 8).map fun n => (n, BitVec.ofNat 32 (w 0x10)) }
  let s := (List.range 18).foldl (fun (s : State) p => (s.modPort p fun x => { x with heard := s.clk }).post 625 (.idleFlit p)) s
  let s := (List.range 192).foldl (fun (s : State) q => s.post s.testPeriod (.inFieldTestDue q)) s
  s.send (.booted slot)

/-- boot (R398): the slot that boots, or recovery. -/
def execBoot (s : State) : Host.Outcome State Fault Refusal :=
  match bootSlot s.boot.flash with
  | some slot => .next (s.bootFrom slot)
  | none =>
    .next { s with boot := { s.boot with active := ((markerCopies s.boot.flash).head?.map fun (c : Nat × Nat) => c.1), recovery := true } }

/-- flashWrite (R398): refused when it touches the active slot. -/
def execFlashWrite (offset : Nat) (bytes : List (BitVec 8)) (s : State) : Host.Outcome State Fault Refusal :=
  let touches := match s.boot.active with
    | some a => decide (offset < slotBase a + 0x800000) && decide (slotBase a < offset + bytes.length)
    | none => false
  if touches then .next (s.send (.flashRefused offset))
  else .next { s with boot := { s.boot with flash := s.boot.flash.setBytes offset bytes } }

/-! ### Interrupt masks (R389) -/

/-- A vector unmasked: one message if events came while it was masked. -/
def State.unmask (s : State) (func vec : Nat) : State :=
  let f := s.func func
  let s := s.modFunc func fun x => { x with masked := setBit x.masked vec false, pendingBits := setBit x.pendingBits vec false }
  if f.masked.getLsbD vec && f.pendingBits.getLsbD vec then s.vector func vec else s

/-- vectorUnmask (R389); a function being reset discards it (R392). -/
def execVectorUnmask (func vec : Nat) (s : State) : Host.Outcome State Fault Refusal :=
  .next (if (s.func func).resetting then s else s.unmask func vec)

/-! ### Hub registers (R5, R387) -/

/-- A register of a field that is written whole under a mask. -/
def put32 (old : Word32) (v : Dbl) (mask : Word32) : Word32 := (old &&& ~~~mask) ||| (v.truncate 32 &&& mask)

/-- A write in a function's queue register block (R357, R369). -/
def State.writeQueueBlock (s : State) (f off : Nat) (bar2 : Bool) (v : Dbl) : State :=
  let x := v.toNat
  if off = 0x00 then s.modFunc f fun r => { r with fqt1 := v &&& 0xFFFFFFFFFFFFF000 }
  else if off = 0x08 then (if bar2 then s.modFunc f fun r => { r with qkey := v } else s)
  else if off = 0x10 then
    let q := natBits x 11 0
    let pf := bar2 || f = 0
    if natBits x 31 16 ≠ 0 then s.setCmdStat f q 2 false
    else match natBits x 15 12 with
      | 1 => s.destroyDrain f q pf false
      | 2 => s.destroyKill f q pf false
      | 3 => s.resume f q pf false
      | _ => s.setCmdStat f q 2 false
  else if off = 0x18 then (if bar2 && f = 0 then s.modFunc f fun r => { r with hqt2 := v } else s)
  else if 0x8000 ≤ off ∧ off % 8 = 0 then s.notify f ((off - 0x8000) / 8) x
  else s

/-- A write in a function's control block (R388). -/
def State.writeControlBlock (s : State) (f off : Nat) (v : Dbl) : State :=
  match off with
  | 0x000 => if v.getLsbD 0 then (s.resetSet f).foldl (fun (s : State) g => s.resetFunc g) s else s
  | 0x008 => s.modFunc f fun r => { r with intcause := clearW1c s.clk r.causeSet r.intcause (v.truncate 32 &&& 0x1F) }
  | 0x010 => if f = 0 then (s.modFunc f fun r => { r with s2fring := v &&& 0xFFFFFFFFFFFFF01F }).writeFaults else s
  | 0x018 => if f = 0 then (s.modFunc f fun r => { r with s2fhead := v.truncate 32 }).writeFaults else s
  | 0x020 => if f = 0 then s.s2Reply v else s
  | _ => s

/-- A write of a word of a function's MSI-X table (R387, R389): the fourth word of an entry holds the mask bit. -/
def State.writeMsix (s : State) (f off : Nat) (v : Dbl) : State :=
  if off ≥ 1024 then s
  else
    let s := s.modFunc f fun r => { r with msix := kset r.msix (off / 4) (v.truncate 32) }
    if off % 16 = 12 then
      if v.getLsbD 0 then s.modFunc f fun r => { r with masked := setBit r.masked (off / 16) true }
      else s.unmask f (off / 16)
    else s

/-- A write in a function's window (R387): a function above VFCOUNT has none, and one being reset discards it (R392). -/
def State.writeWindow (s : State) (f off : Nat) (bar2 : Bool) (v : Dbl) : State :=
  if f > s.boot.vfcount ∨ (s.func f).resetting then s
  else if off < 0x10000 then s.writeQueueBlock f off bar2 v
  else if off < 0x11000 then s.writeControlBlock f (off - 0x10000) v
  else if 0x12000 ≤ off then s.writeMsix f (off - 0x12000) v
  else s

/-- A write in the pacer block (R343, R344, R353): PCTL is locked after boot and its RAMP holds from the next clk, a share that breaks
a limit of R343 is ignored, and counters take writes only while halted. -/
def State.writePacer (s : State) (off : Nat) (v : Dbl) : State :=
  if off = 0 then
    let r := natBits v.toNat 5 0
    if s.boot.locked || r = 0 || r > 48 then s else s.modPacer fun p => { p with rampNext := r }
  else if 0x40 ≤ off ∧ off < 0x80 ∧ off % 4 = 0 then
    let n := (off - 0x40) / 4
    let sectors := match s.part? n with | some p => p.sectors.length | none => 0
    let others := sumOf s.share ((List.range 16).filter fun p => p ≠ n)
    let x := v.toNat % 1024
    if x > 48 * sectors || others + x > 768 then s else s.modPacer fun p => { p with shares := kset p.shares n x }
  else if 0x100 ≤ off ∧ off < 0x300 then
    let n := (off - 0x100) / 0x20
    if !s.halted n then s
    else match off % 0x20 with
      | 0x00 => s.modPacer fun p => { p with waves := kset p.waves n v.toNat }
      | 0x08 => s.modPacer fun p => { p with stall := kset p.stall n v.toNat }
      | 0x10 => s.modPacer fun p => { p with ballast := kset p.ballast n v.toNat }
      | _ => s
  else s

/-- The cores of a function's partitions. -/
def State.funcCores (s : State) (f : Nat) : List Nat := (s.parts.filter fun p => p.func = f).flatMap fun p => s.partCores p.num

/-- The buckets of a function's cores filled up to now at the rate that holds till now (R382). -/
def State.settleBuckets (s : State) (f : Nat) : State := (s.funcCores f).foldl (fun (s : State) c => s.payBucket c 0) s

/-- The waits for a bucket that run counted in QDENY up to now (R382). -/
def State.settleDeny (s : State) (f : Nat) : State :=
  (s.funcCores f).foldl (fun (s : State) c => if (s.core c).denySince.isSome then s.countDeny c true else s) s

/-- A write in the reliability block (R375, R379, R382, R384). A write of RHCTL with a THRESH below its range is ignored (log entry
69). -/
def State.writeReliability (s : State) (off : Nat) (v : Dbl) : State :=
  if off < 0x400 then
    let p := off / 0x40
    match off % 0x40 with
    | 0x00 => s.modRel p fun r => { r with errstat := clearW1c s.clk r.errSet r.errstat (v.truncate 32 &&& 7) }
    | 0x10 => s.modRel p fun r => { r with cecount := v.truncate 32 }
    | 0x14 => s.modRel p fun r => { r with uecount := v.truncate 32 }
    | 0x18 => s.modRel p fun r => { r with rhbounce := v }
    | 0x20 => if s.features.paired && s.halted p then s.modRel p fun r => { r with paired := v.getLsbD 0 } else s
    | _ => s
  else if 0x800 ≤ off ∧ off < 0x840 ∧ off % 8 = 0 then
    let t := natBits v.toNat 15 0
    if s.boot.locked || decide (t < 64) then s
    else { s with rhctl := kset s.rhctl ((off - 0x800) / 8) (BitVec.ofNat 32 t) }
  else if 0x1000 ≤ off ∧ off < 0x1800 then
    let f := (off - 0x1000) / 0x20
    match off % 0x20 with
    | 0x00 => s.modFunc f fun r => { r with qosw := put32 r.qosw v 0xFF }
    | 0x04 => (s.settleBuckets f).modFunc f fun r => { r with qrate := put32 r.qrate v 0xFFFF }
    | 0x08 => (s.settleBuckets f).modFunc f fun r => { r with qburst := put32 r.qburst v 0xFFFF }
    | 0x10 => (s.settleDeny f).modFunc f fun r => { r with qdeny := v }
    | _ => s
  else if off = 0x2008 then
    match natBits v.toNat 1 0 with
    | 1 => (match s.loggedMaster with | some m => s.thawMaster m | none => s)
    | 2 => (match s.loggedMaster with | some m => s.killMaster m | none => s)
    | 3 => { s with frzlog := s.frzlog &&& 0x3FFFFFFFFFFFFFFF, frzWho := none }
    | _ => s
  else s

/-- hubRegisterWrite (R5, R387): a write through BAR2, by its offset in the hub registers, or through a function's BAR0, by its
offset in the function's window. -/
def execHubRegisterWrite (offset func : Nat) (bar2 : Bool) (v : BitVec 64) (s : State) : Host.Outcome State Fault Refusal :=
  if !bar2 then .next (s.writeWindow func offset false v)
  else if 0x1000000 ≤ offset then .next (s.writeWindow ((offset - 0x1000000) / 0x20000) (offset % 0x20000) true v)
  else if 0x200000 ≤ offset ∧ offset < 0x210000 then .next (s.writeReliability (offset - 0x200000) v)
  else if 0x100000 ≤ offset ∧ offset < 0x101000 then .next (s.writePacer (offset - 0x100000) v)
  else .next s

/-! ### What a read of a hub register gives (R5) -/

/-- A read in a function's window: WO registers read zero, and so does a window that does not exist. -/
def State.readWindow (s : State) (f off : Nat) : Dbl :=
  let r := s.func f
  let z := fun (x : Word32) => x.setWidth 64
  if f > s.boot.vfcount then 0
  else if off < 0x10000 then
    (if off = 0 then r.fqt1 else if off = 0x14 then z r.qcmdstat else if off = 0x18 ∧ f = 0 then r.hqt2 else 0)
  else if off < 0x11000 then
    match off - 0x10000 with
    | 0x004 => BitVec.ofNat 64 (r.resetting.toNat + r.frozen.toNat * 2)
    | 0x008 => z r.intcause
    | 0x010 => if f = 0 then r.s2fring else 0
    | 0x018 => if f = 0 then z r.s2fhead else 0
    | 0x01C => if f = 0 then z r.s2ftail else 0
    | _ => 0
  else if off < 0x12000 then s.capWord (off - 0x11000)
  else if off < 0x12400 then z (kget 0 r.msix ((off - 0x12000) / 4))
  else if off = 0x12400 then r.pendingBits
  else 0

/-- A read in the pacer block (R353). -/
def State.readPacer (s : State) (off : Nat) : Dbl :=
  let p := s.pacer
  let ballast := (s.cores.filter fun x => x.2.ballastSince.isSome).length
  if off = 0 then BitVec.ofNat 64 (p.rampNext + p.amps * 256)
  else if off = 8 then BitVec.ofNat 64 (s.load - ballast + ballast * 1024)
  else if off = 0x10 then BitVec.ofNat 64 p.slotNow
  else if 0x40 ≤ off ∧ off < 0x80 then BitVec.ofNat 64 (kget 0 p.shares ((off - 0x40) / 4))
  else if 0x100 ≤ off ∧ off < 0x300 then
    let n := (off - 0x100) / 0x20
    match off % 0x20 with
    | 0x00 => BitVec.ofNat 64 (kget 0 p.waves n)
    | 0x08 => BitVec.ofNat 64 (kget 0 p.stall n)
    | 0x10 => BitVec.ofNat 64 (kget 0 p.ballast n)
    | 0x18 => kget 0 p.fsinfo n
    | _ => 0
  else 0

/-- IFTSTAT of a quad (R383). -/
def State.iftstat (s : State) (q : Nat) : Nat :=
  let x := s.quad q
  x.skips + x.blocked.toNat * 4 + x.failed.toNat * 8 + min 0x0FFFFFFF ((s.clk - x.passed) / 4500000000000) * 16

/-- A read in the reliability block (R375, R379, R382 to R384). -/
def State.readReliability (s : State) (off : Nat) : Dbl :=
  let z := fun (x : Word32) => x.setWidth 64
  if off < 0x400 then
    let r := s.relPart (off / 0x40)
    match off % 0x40 with
    | 0x00 => z r.errstat
    | 0x08 => r.erraddr
    | 0x10 => z r.cecount
    | 0x14 => z r.uecount
    | 0x18 => r.rhbounce
    | 0x20 => BitVec.ofNat 64 r.paired.toNat
    | _ => 0
  else if 0x800 ≤ off ∧ off < 0x840 then z (kget 0x400 s.rhctl ((off - 0x800) / 8))
  else if 0x1000 ≤ off ∧ off < 0x1800 then
    let r := s.func ((off - 0x1000) / 0x20)
    match off % 0x20 with
    | 0x00 => z r.qosw
    | 0x04 => z r.qrate
    | 0x08 => z r.qburst
    | 0x10 => ((s.settleDeny ((off - 0x1000) / 0x20)).func ((off - 0x1000) / 0x20)).qdeny
    | _ => 0
  else if off = 0x2000 then s.frzlog
  else if 0x3000 ≤ off ∧ off < 0x3300 then BitVec.ofNat 64 (s.iftstat ((off - 0x3000) / 4))
  else 0

/-- A read of a hub register through the physical function's BAR2 (R5, R387). -/
def State.hubRead (s : State) (off : Nat) : Dbl :=
  if off < 0x1000 then s.capWord off
  else if 0x100000 ≤ off ∧ off < 0x101000 then s.readPacer (off - 0x100000)
  else if 0x200000 ≤ off ∧ off < 0x210000 then s.readReliability (off - 0x200000)
  else if 0x1000000 ≤ off ∧ off < 0x1000000 + 64 * 0x20000 then s.readWindow ((off - 0x1000000) / 0x20000) (off % 0x20000)
  else 0

/-! ### Telemetry (R395, R396) -/

/-- The reliability summary of a partition that the sideband carries: its registers of R375. -/
def RelPart.summary (r : RelPart) : List Dbl :=
  [r.errstat.setWidth 64, r.erraddr, r.cecount.setWidth 64, r.uecount.setWidth 64, r.rhbounce]

/-- telemetryReport (R395, R396): the hub holds each rail's last report and exposes them on the sideband with LOAD and the reliability
summaries. -/
def execTelemetryReport (rail volts amps temp : Nat) (s : State) : Host.Outcome State Fault Refusal :=
  let s := { s with telemetry := kset s.telemetry rail (volts, amps, temp) }
  .next (s.send (.telemetry (s.readPacer 8) s.telemetry ((List.range 16).map fun p => (p, (s.relPart p).summary))))

end Sys2Proof.Machine
end

