-- ==== Sys2Proof/Machine/Picker.lean ====
section
/-! DEFINITION. The picker (R254 to R256, R306): the words of a clk as decode delivers them (R33 to R42, R49), parks and
their ends (R412), readiness, and the choice of the groups that a core issues in a clk. -/

namespace Sys2Proof.Machine

/-! ### The words of a clk -/

/-- A word of a clk: its instruction, address and literal. -/
structure ClkWord where
  instr : Instr
  addr : Pc
  lit : Word32
deriving DecidableEq, Repr

/-- The words that issue together in a clk, the word control passes to, whether a run goes on there (R34), and the first
illegal word, if decode rejects the clk (R49). -/
structure Clk where
  words : List ClkWord
  next : Pc
  more : Bool
  bad : Option Pc
deriving DecidableEq, Repr

/-- Whether two words of one clk may stand together: different pipes, and no register or predicate written back by both
(R34, R36). -/
def apart (x y : Shape) : Bool := (x.pipe != y.pipe || x.pipe == .none) && x.writes.all fun r => !decide (r ∈ y.writes)

/-- The words of the clk that begins at an address (R34, R39, R40, R49); ok is what the stream accepts, packet the number of the
packet in its run (R37). A rep begins a group of its own, and so ends a clk that reaches it. Of two words that may not stand in one clk
the later is the illegal one (log entry 71). -/
def fetchFrom (code : List Word32) (ok : Instr → Bool) (packet : Nat) : Nat → List ClkWord → Pc → Clk
  | 0, acc, p => { words := acc, next := p, more := false, bad := none }
  | n + 1, acc, p =>
    let reject : Clk := { words := acc, next := p, more := false, bad := some p }
    match code[p.word.toNat]? with
    | none => reject
    | some x =>
      match decodeWord x with
      | .error _ => reject
      | .ok i =>
        let sh := shape i
        let slot := p.word.toNat % 3
        let lit := code[p.word.toNat + 1]?
        let after := p.plus (if sh.literal then 2 else 1)
        if !ok i || (sh.literal && (decide (slot = 2) || lit.isNone)) || !(acc.all fun y => apart sh (shape y.instr)) then reject
        else if sh.pipe == .none && acc != [] then { words := acc, next := p, more := false, bad := none }
        else
          let acc := acc ++ [{ instr := i, addr := p, lit := if sh.literal then lit.getD 0 else 0 }]
          if !sh.chain then { words := acc, next := after, more := false, bad := none }
          else if after.word.toNat % 3 = 0 then
            if packet ≥ 8 then reject else { words := acc, next := after, more := true, bad := none }
          else fetchFrom code ok packet n acc after

/-- The clk of packet number n of a run (R37). -/
def clkAt (code : List Word32) (ok : Instr → Bool) (packet : Nat) (p : Pc) : Clk := fetchFrom code ok packet 3 [] p

/-- Whether a group that begins at an address holds threads of one crew only (R83): some word of it does, filler words reached
through a chain apart. -/
def oneCrew (code : List Word32) (ok : Instr → Bool) : Nat → Nat → Pc → Bool
  | 0, _, _ => false
  | n + 1, packet, p =>
    let k := clkAt code ok packet p
    k.words.any (fun x => (shape x.instr).pipe == .none
      || ((shape x.instr).crew && code[x.addr.word.toNat]? != some filler))
      || (k.more && oneCrew code ok n (packet + 1) k.next)

/-- What the vector stream of a workgroup accepts. -/
def State.accepts (s : State) (w : Wg) (i : Instr) : Bool := legal s.features false w.nregs i
/-- What a starter stream accepts. -/
def State.starterAccepts (s : State) (i : Instr) : Bool := legal s.features true 0 i

/-! ### rep (R41, R42, R100 to R103) -/

/-- Majors whose B field is a source selector (R26, R43). -/
def selectsB (op : Nat) : Bool :=
  (decide (0x01 ≤ op) && decide (op ≤ 0x0F)) || op = 0x13 || (decide (0x18 ≤ op) && decide (op ≤ 0x2E))
    || (decide (0x30 ≤ op) && decide (op ≤ 0x34)) || (decide (0x38 ≤ op) && decide (op ≤ 0x3B)) || op = 0x3F
    || (decide (0x52 ≤ op) && decide (op ≤ 0x59)) || op = 0x5B || op = 0x5C || op = 0x64 || op = 0x65
    || (decide (0x70 ≤ op) && decide (op ≤ 0x73)) || op = 0x76 || op = 0x77 || op = 0x79 || op = 0x7E

/-- The highest value of D of a word's class, and its value now (R27). -/
def dRange (x : Word32) (sh : Shape) : Nat × Nat :=
  match sh.dst with
  | r :: _ =>
    if r ≥ 160 then ((fld x 14 3).toNat, 6) else if r ≥ 128 then ((fld x 14 6).toNat, 15)
    else if r ≥ 64 then ((fld x 14 5).toNat, 31) else ((fld x 14 6).toNat, 63)
  | [] => ((fld x 14 6).toNat, 63)

/-- Whether a selector field may be stepped by a number in all: it names a register, and its last value one of the same bank
(R42). -/
def selSteps (a by_ : Nat) : Bool := (decide (a < 64) && decide (a + by_ < 64)) || (decide (64 ≤ a) && decide (a < 96) && decide (a + by_ < 96))

/-- A word with its stepped fields increased (R42). -/
def stepWord (x : Word32) (sd sa sb : Bool) (by_ : Nat) : Word32 :=
  x + BitVec.ofNat 32 ((if sd then by_ * 2 ^ 14 else 0) + (if sa then by_ * 2 ^ 7 else 0) + (if sb then by_ else 0))

/-- STRIDE as a number (R41). -/
def strideOf (t : Nat) : Nat := 2 ^ t

/-- Whether rep may have a word as its target (R42). -/
def repTarget (i : Instr) (op : Nat) : Bool :=
  let sh := shape i
  !sh.chain && !sh.control && sh.pipe != .none && !(decide (0x48 ≤ op) && decide (op ≤ 0x50)) && op ≠ 0x7F

/-- The checks of R42 on a rep word at an address, with the fields that are in force. A stepped field is one that names a
register: an immediate or a modifier has no bank to step in (DEDUCED, log entry 29). -/
def repOk (code : List Word32) (ok : Instr → Bool) (p : Pc) (ctl : Word32) : Bool :=
  let slot := p.word.toNat % 3
  let count := (ctl.extractLsb' 6 6).toNat
  let last := count * strideOf (ctl.extractLsb' 15 2).toNat
  let sd := ctl.getLsbD 12
  let sa := ctl.getLsbD 13
  let sb := ctl.getLsbD 14
  match code[p.word.toNat + 1]? with
  | none => false
  | some x =>
    match decodeWord x with
    | .error _ => false
    | .ok i =>
      let op := (fld x 24 7).toNat
      let d := dRange x (shape i)
      slot ≠ 2 && ok i && repTarget i op && !((shape i).literal && (slot ≠ 0 || (code[p.word.toNat + 2]?).isNone))
        && (!sd || decide (d.1 + last ≤ d.2)) && (!sa || (op ≠ 0x11 && op ≠ 0x7C && op ≠ 0x7D && selSteps (fld x 7 7).toNat last))
        && (!sb || (selectsB op && selSteps (fld x 0 7).toNat last))
        && (List.range (count + 1)).all fun k =>
          match decodeWord (stepWord x sd sa sb (k * strideOf (ctl.extractLsb' 15 2).toNat)) with
          | .ok j => ok j
          | .error _ => false

/-- The word that the repeat of a number issues, with its literal; none where there is no target. -/
def repeatWord (code : List Word32) (p : Pc) (ctl : Word32) : Option ClkWord :=
  match code[p.word.toNat + 1]? with
  | none => none
  | some x =>
    let by_ := (ctl.extractLsb' 0 6).toNat * strideOf (ctl.extractLsb' 15 2).toNat
    match decodeWord (stepWord x (ctl.getLsbD 12) (ctl.getLsbD 13) (ctl.getLsbD 14) by_) with
    | .ok i => some { instr := i, addr := p, lit := (code[p.word.toNat + 2]?).getD 0 }
    | .error _ => none

/-! ### Parks (R412) -/

/-- Whether results of a workgroup have been written. -/
def Wg.pendsOver (w : Wg) (ids : List Nat) : Bool := !(w.pend.any fun p => decide (p.id ∈ ids))

/-- Whether an operation that a parked word keeps lets it issue again: it has failed, its translation or its time is over, or it is
gone. -/
def State.opSettled (s : State) (op : Nat) : Bool :=
  match s.op? op with
  | some o => (o.fail.isSome && decide (o.phase ≠ 2)) || decide (o.phase = 3) || decide (o.phase = 4)
  | none => true

/-- Whether what a parked thread waits for holds. -/
def State.parkOver (s : State) (w : Wg) (c t : Nat) : PCond → Bool
  | .members => w.xArrived c && decide (w.laneOf t ∈ w.members c)
  | .present lines => lines.all fun l => !decide (l.2 ∈ (s.core l.1).absent)
  | .woken _ _ => false
  | .settled crew n => match w.crew? crew with | some k => !(k.hreg n).open | none => true
  | .engineRoom => s.engineRoom w.core
  | .rxFlit n => (w.rxOf c n).queue != []
  | .txRoom n => decide ((w.txOf c n).unacked < 4)
  | .txClear n => (w.txOf c n).unacked = 0
  | .object off phase _ => let o := s.barObj w.core off; o.phase ≠ phase || o.ovr || !o.valid
  | .drained ops words pends upto =>
    ops.all (fun o => (s.op? o).isNone) && words.all (fun x => (s.word? x).isNone) && w.pendsOver pends
      && !(s.log w.core).outLeft upto
  | .opEnd op => s.opSettled op
  | .clear part ranges => !s.recordIn part ranges fun _ => true
  | .unpublished obj ranges =>
    match s.obj? obj with
    | some o => !(o.pubs.any fun e => (s.pubLive o e).any fun r => ranges.any fun x => x.1 ≤ r.gran * 32 && r.gran * 32 < x.1 + x.2)
    | none => true
  | .full pa => match s.obj? pa with | some o => o.full | none => true
  | .crewHere =>
    let here := fun (t : Nat) => match w.thread? t with | some x => x.wait == .parked .crewHere | none => false
    (w.live c).all here
      && (w.live c).all fun u => (w.thread? u).map (fun x => x.pc) = (w.thread? t).map (fun x => x.pc)
  | .checkpoint =>
    match (match w.thread? t with | some x => x.mark | none => none) with
    | some m => match s.op? m with | some o => o.phase = 1 && decide (o.since ≤ s.clk) | none => true
    | none => true
  | .episode id => match s.episodes.find? fun e => e.id = id with | some e => e.aborted | none => true
  | .flagsIn ops pends crews => ops.all (fun o => (s.op? o).isNone) && w.pendsOver pends && w.settledFor crews s.clk
  | .copyChannel => (List.range 8).any fun i => s.channelFree (coreQuad w.core * 8 + i)
  | .arrays mask mode upto => s.arraysReady (coreQuad w.core) mask mode upto

/-- Whether what a parked starter waits for holds. -/
def State.starterParkOver (s : State) (q : Nat) : PCond → Bool
  | .arrays mask mode upto => s.arraysReady q mask mode upto
  | .opEnd op => s.opSettled op
  | .full pa => match s.obj? pa with | some o => o.full | none => true
  | .episode id => match s.episodes.find? fun e => e.id = id with | some e => e.aborted | none => true
  | .flagsIn ops pends _ =>
    s.arraysReady q 15 0 ops && !((s.starter q).pend.any fun p => decide (p.id ∈ pends))
      && ((s.starter q).wrote = 0 || decide ((s.starter q).wrote + 1 ≤ s.clk))
  | _ => true

/-- The clk between the end of a park and the clk in which its word issues again: a word whose own rule counts from the end of
its wait issues at once (R235, R222, R265, R317, R332, R160, R322, R284), another in the next clk (R189); so does an X-pipe word after
its last member has parked, for which no rule gives the clk (log entry 74). -/
def PCond.delay : PCond → Nat
  | .drained .. => 0
  | .flagsIn .. => 0
  | .settled .. => 0
  | .checkpoint => 0
  | .episode _ => 0
  | .opEnd _ => 0
  | .object .. => 0
  | .txRoom _ => 0
  | .arrays _ mode _ => if mode < 3 then 0 else 1
  | _ => 1

/-- Whether a thread's park has ended; one held outside a handler stays (R106, R333). -/
def State.threadOver (s : State) (w : Wg) (t : Nat) : Bool :=
  match w.thread? t with
  | some { exited := false, wait := .parked c, .. } => !w.heldOut t && s.parkOver w (w.crewOf t) t c
  | _ => false

/-- Whether a bounded wait of a thread at a barrier object has reached its bound (R322). -/
def State.boundOver (s : State) (w : Wg) (t : Nat) : Bool :=
  match w.thread? t with
  | some { exited := false, wait := .parked (.object _ _ (some b)), .. } => !w.heldOut t && decide (b ≤ s.clk)
  | _ => false

/-- What a bwait of a parked thread finds as its wait ends, with one added (R322); 0 where the object is no longer valid. -/
def State.bwaitFinds (s : State) (w : Wg) (c : PCond) : Nat :=
  match c with
  | .object off phase bound =>
    let o := s.barObj w.core off
    if !o.valid then 0
    else match bwaitNow o phase (match bound with | some b => decide (b ≤ s.clk) | none => false) with
      | some v => v + o.phase * 16 + 1
      | none => 0
  | _ => 0

/-- A thread begins a new group at its word (R412): its latches are lost; a bwait keeps what it has found (R322). -/
def Thread.wake (t : Thread) (clk delay found : Nat) : Thread :=
  { t with wait := .ready, latches := [], since := clk, notBefore := max t.notBefore (clk + delay)
           notes := t.notes.map fun n => if n.clk = t.since && found ≠ 0 then { n with val := found, clk := clk } else n }

/-- parkEnd (R412): the threads of a crew whose wait is over issue their words again; a crew that completes a checkpoint makes it
first (R222). Workgroup 0 stands for a quad's starter. -/
def execParkEnd (wg crew : Nat) (s : State) : Host.Outcome State Fault Refusal :=
  if wg = 0 then
    match (s.starter crew).wait with
    | .parked c =>
      if s.starterParkOver crew c then
        .next (s.modStarter crew fun k => { k with wait := .ready, notBefore := max k.notBefore (s.clk + c.delay) })
      else .next s
    | _ => .next s
  else
    match s.wg? wg with
    | none => .next s
    | some w =>
      let s := if (s.chkptOps w).any (fun o => o.wg = wg) && s.chkptReady w then s.checkpoint w else s
      .next (s.modWg wg fun x => x.modThreads ((w.crewThreads crew).filter fun t => s.threadOver w t) fun t =>
        match t.wait with
        | .parked c => t.wake s.clk c.delay (s.bwaitFinds w c)
        | _ => t)

/-- bwaitBoundExpiry (R322): threads of a crew that parked at a clk, whose bound has passed, issue their bwait again. -/
def execBwaitBoundExpiry (wg crew since : Nat) (s : State) : Host.Outcome State Fault Refusal :=
  match s.wg? wg with
  | none => .next s
  | some w =>
    let ts := (w.crewThreads crew).filter fun t =>
      s.boundOver w t && (match w.thread? t with | some x => x.since = since | none => false)
    .next (s.modWg wg fun x => x.modThreads ts fun t =>
      match t.wait with
      | .parked c => t.wake s.clk c.delay (s.bwaitFinds w c)
      | _ => t)

/-- The address behind a bar that stands alone in the clk that begins at an address. -/
def passBar (code : List Word32) (ok : Instr → Bool) (p : Pc) : Option Pc :=
  let k := clkAt code ok 1 p
  if k.words.length = 1 && k.bad.isNone then some k.next else none

/-- barrierEpisodeRelease (R314, R317): every parked participant issues its next group in this clk. A bar that stands alone in
its clk is behind its threads then; with other words in the clk, these issue now, and the bar lets its threads through (R412).
A vacated participant finds the episode gone (R318). -/
def execBarrierEpisodeRelease (ep : Nat) (s : State) : Host.Outcome State Fault Refusal :=
  let s := { s with episodes := s.episodes.filter fun e => e.id ≠ ep }
  let quads := s.quads.map fun x => x.1
  let go := fun (w : Wg) =>
    let ts := (List.range w.threads.length).filter fun t =>
      match w.thread? t with | some x => x.wait == .parked (.episode ep) && !w.heldOut t | none => false
    w.modThreads ts fun t =>
      match passBar (s.frameCode w.core t.pc.frame) (s.accepts w) t.pc with
      | some n => { t with pc := n, wait := .ready, latches := [], since := s.clk, notBefore := s.clk, mark := none, notes := [] }
      | none => t
  let s : State := { s with wgs := s.wgs.map go }
  .next (quads.foldl (fun (s : State) q =>
    let k := s.starter q
    if k.wait == .parked (.episode ep) then
      match passBar k.code s.starterAccepts k.pc with
      | some n => s.modStarter q fun k => { k with pc := n, wait := .ready, notBefore := s.clk, mark := none }
      | none => s
    else s) s)

/-! ### Readiness (R254) -/

/-- Whether a crew may issue: neither vacated nor frozen, and its partition's function not frozen (R308, R378). -/
def State.crewMay (s : State) (w : Wg) (c : Nat) : Bool :=
  match w.crew? c with
  | some k => !k.out && !k.frozen && !(match s.part? w.part with | some p => (s.func p.func).frozen | none => false)
  | none => false

/-- The registers of a thread with a write to come, or written in this clk (R69, R99, R187); the latches while a word that
has shifted them is at work. -/
def State.busyRegs (s : State) (w : Wg) (t : Nat) : List Nat :=
  let c := w.crewOf t
  (w.pend ++ w.written).flatMap (fun p =>
    (p.v.filter (fun x => x.1 = t)).map (fun x => x.2.1) ++ (p.s.filter (fun x => x.1 = c)).map (fun x => 64 + x.2.1)
      ++ (p.p.filter (fun x => x.1 = t)).map (fun x => 160 + x.2.1) ++ (if t ∈ p.latch then [96, 97, 98, 99] else []))
  ++ (s.ops.filter fun o => o.wg = w.id && o.wb).flatMap fun o =>
    (match o.vdst with | some d => if o.lanes.any fun l => l.thread = t then [d] else [] | none => [])
      ++ (match o.sdst with | some d => if o.lanes.any fun l => w.crewOf l.thread = c then [64 + d] else [] | none => [])

/-- The registers a word reads or writes back (R254). -/
def Shape.needs (sh : Shape) : List Nat :=
  sh.sels.filter (fun a => decide (a < 100)) ++ sh.regs ++ sh.writes ++ (if sh.guard = 7 then [] else [160 + sh.guard.toNat])

/-- Whether a thread may issue words: nothing they need has a write to come. -/
def State.clear (s : State) (w : Wg) (words : List ClkWord) (t : Nat) : Bool :=
  let busy := s.busyRegs w t
  busy = [] || words.all fun x => (shape x.instr).needs.all fun r => !decide (r ∈ busy)

/-- The runs of a workgroup (R37). -/
def State.inRun (s : State) (w : Wg) (t : Nat) : Bool := s.runs.any fun r => r.who == .group w.id && decide (t ∈ r.threads)

/-- Whether a thread may issue while a repeat sequence of its crew is unfinished: one of its set (R100, R103). In a handler that holds
for the handler's own sequence; one that it has interrupted holds nobody back. -/
def State.repeatMay (_ : State) (w : Wg) (k : Crew) (t : Nat) : Bool :=
  k.repThreads = [] || !k.repctl.getLsbD 31 || (k.inHandler && k.repOuter.isNone) || decide (w.laneOf t ∈ k.repThreads)

/-- Whether a crew issues no group because a tfence of it waits (R411). -/
def Wg.fenced (w : Wg) (c : Nat) : Bool :=
  (w.crewThreads c).any fun t => match w.thread? t with
    | some { exited := false, wait := .parked (.flagsIn ..), .. } => !w.heldOut t
    | _ => false

/-- Whether the picker may look at a thread at all. -/
def State.awake (s : State) (w : Wg) (t : Nat) : Bool :=
  match w.thread? t with
  | some x =>
    !x.exited && x.wait == .ready && decide (x.notBefore ≤ s.clk) && !w.heldOut t && !s.inRun w t
      && (match w.crew? (w.crewOf t) with | some k => s.repeatMay w k t | none => false)
      && !w.fenced (w.crewOf t)
      && !s.runs.any fun r => r.packets = 0 && r.who == .group w.id && (w.crewsOf r.threads).contains (w.crewOf t)
  | none => false

/-- A thread that may issue: where its group begins, and since when it has been ready there. -/
structure Ready where
  thread : Nat
  pc : Pc
  since : Nat
deriving DecidableEq, Repr

/-- The code a thread's address lies in. -/
def State.codeFor (s : State) (w : Wg) (p : Pc) : List Word32 := s.frameCode w.core p.frame

/-- The ready threads of a workgroup (R254). -/
def State.readyThreads (s : State) (w : Wg) : List Ready :=
  if w.stopped.isSome then []
  else
    let crews := (List.range w.crews.length).filter fun c => s.crewMay w c
    let awake := (crews.flatMap fun c => w.crewThreads c).filter fun t => s.awake w t
    awake.filterMap fun t =>
      match w.thread? t with
      | some x =>
        let code := s.codeFor w x.pc
        let p := beginAt code x.pc
        let k := clkAt code (s.accepts w) 1 p
        if k.bad.isSome || s.clear w k.words t then some { thread := t, pc := p, since := if x.stalled then s.clk else max x.since x.notBefore } else none
      | none => none

/-- The picker has looked at a core (R255): a thread that has become ready waits from now; the others do not wait yet. -/
def State.noteReady (s : State) (core : Nat) : State :=
  let note := fun (w : Wg) =>
    let ready := (s.readyThreads w).map fun r => r.thread
    let mark := fun (x : Nat × Thread) =>
      if x.1 ∈ ready then (if x.2.stalled then { x.2 with stalled := false, since := s.clk } else x.2)
      else if x.2.exited || x.2.stalled then x.2
      else { x.2 with stalled := true }
    { w with threads := ((List.range w.threads.length).zip w.threads).map mark }
  { s with wgs := mapIf (fun w => w.core = core) note s.wgs }

/-! ### Units a core has once, and special functions (R70, R116, R120, R255) -/

/-- The unit a word takes and the clk it keeps it: 0 the divider, 1 the cross-lane network, 2 and 3 the special-function units of
the ports. -/
def unitOf (w : Wg) (port : Nat) : Instr → Option (Nat × Nat)
  | .sdiv .. => some (0, 36)
  | .frcp .. => some (2 + port, 2)
  | .frsq .. => some (2 + port, 2)
  | .fexp2 .. => some (2 + port, 2)
  | .flog2 .. => some (2 + port, 2)
  | .fsqrt .. => some (2 + port, 4)
  | .fsin .. => some (2 + port, 4)
  | .fcos .. => some (2 + port, 4)
  | .ftanh .. => some (2 + port, 4)
  | .xreduce _ _ _ _ _ t o => some (1, if o = 0 ∧ t = 2 then 4 * log2w w else log2w w)
  | .xscan _ _ _ _ _ _ t o => some (1, if o = 0 ∧ t = 2 then 4 * log2w w else log2w w)
  | i => if (shape i).pipe == .x then some (1, 1) else none

/-- Whether the M pipe takes words at a clk: at most 16 records wait in the append queue of the log (R224). -/
def pipeOpen (clk : Nat) (busy : List Nat) (words : List ClkWord) : Bool :=
  decide (busy.getD 4 0 ≤ 2 * clk + 16) || words.all fun x => (shape x.instr).pipe != .m

/-- Whether the units that words take are free at a clk. -/
def unitsFree (w : Wg) (port clk : Nat) (busy : List Nat) (words : List ClkWord) : Bool :=
  pipeOpen clk busy words
    && words.all fun x => match unitOf w port x.instr with | some u => decide (busy.getD u.1 0 ≤ clk) | none => true

/-- The units that words take, taken. -/
def takeUnits (w : Wg) (port clk : Nat) (busy : List Nat) (words : List ClkWord) : List Nat :=
  words.foldl (fun (b : List Nat) x => match unitOf w port x.instr with | some u => b.set u.1 (clk + u.2) | none => b) busy

/-! ### The groups of a clk (R255) -/

/-- A group to issue in this clk: its threads, where it begins, its port, the packets its run has issued before (R37), and whether
it is a repeat of a sequence. -/
structure Plan where
  who : Issuer
  threads : List Nat
  pc : Pc
  port : Nat
  packets : Nat
  again : Bool
deriving DecidableEq, Repr

/-- Whether a word at which a group stands is a rep. -/
def Clk.isRep (k : Clk) : Bool := match k.words with | [x] => (shape x.instr).pipe == .none | _ => false

/-- The live lanes of the set that goes on with a crew's repeat sequence (R100); none where a handler's threads issue freely. -/
def Wg.repeatSet (w : Wg) (c : Nat) : List Nat :=
  match w.crew? c with
  | some k =>
    if !k.repctl.getLsbD 31 || (k.inHandler && k.repOuter.isNone) then []
    else k.repThreads.filter fun l => !w.laneExited c l
  | none => []

/-- Whether a thread's word has been waited for, and keeps something for it (R412). -/
def Wg.noted (w : Wg) (t : Nat) : Bool := match w.thread? t with | some x => x.notes != [] | none => false

/-- The threads of the group that the picker forms at an address, at most room lanes (R255). Threads whose wait has ended begin a group
of their own (R412; log entry 87). The group of an X-pipe word whose members have parked is exactly its members (R105). A repeat sequence
goes on for its whole set (R100). -/
def State.formGroup (s : State) (w : Wg) (cands : List Ready) (p : Pc) (room : Nat) : List Nat :=
  let here := cands.filter fun c => c.pc = p
  let here := if here.any fun c => w.noted c.thread then here.filter fun c => w.noted c.thread else here
  let here := match sortBy (fun c => c.since) here with
    | first :: _ =>
      if oneCrew (s.codeFor w p) (s.accepts w) 8 1 p then here.filter fun (c : Ready) => w.crewOf c.thread = w.crewOf first.thread else here
    | [] => here
  let here := match here with
    | first :: _ =>
      let c := w.crewOf first.thread
      let set := w.repeatSet c
      if set = [] then here
      else if set.length ≤ room ∧ set.all (fun l => here.any fun (x : Ready) => x.thread = c * w.width + l) then here
      else []
    | [] => here
  let taken := if here.length > room then (sortBy (fun c => c.since) here).take room else here
  (sortBy (fun c => c.thread) taken).map fun c => c.thread

/-- The lowest of the addresses where ready threads stand that lies above another, frame first (R255). -/
def lowestPc (above : Option Pc) (cands : List Ready) : Option Pc :=
  match sortBy (fun c => c.pc.toNat) (cands.filter fun c => match above with | some p => decide (p.toNat < c.pc.toNat) | none => true) with
  | c :: _ => some c.pc
  | [] => none

/-- A group at an address, on the first of the free ports whose units it needs are free; one that goes on as a run leaves the lanes of
the runs that stall to them (R37, R83). -/
def State.groupOn (s : State) (w : Wg) (cands : List Ready) (p : Pc) (room runRoom : Nat) (ports busy : List Nat) : Option Plan :=
  let k := clkAt (s.codeFor w p) (s.accepts w) 1 p
  match s.formGroup w cands p (if k.more || k.isRep then runRoom else room) with
  | [] => none
  | ts =>
    (ports.find? fun n => k.bad.isSome || unitsFree w n s.clk busy k.words).map fun n =>
      { who := .group w.id, threads := ts, pc := p, port := n, packets := 0, again := false }

/-- The groups that a workgroup issues on free ports (R255); a repeat sequence begins beside no other group of its crew (R100). -/
def State.groupsOf (s : State) (w : Wg) (cands : List Ready) (room runRoom : Nat) (ports busy : List Nat) : List Plan :=
  match lowestPc none cands with
  | none => []
  | some p1 =>
    let g1 := s.groupOn w cands p1 room runRoom ports busy
    let k1 := clkAt (s.codeFor w p1) (s.accepts w) 1 p1
    match g1, lowestPc (some p1) cands with
    | none, none => []
    | none, some p2 => (s.groupOn w cands p2 room runRoom ports busy).toList
    | some g, none => [g]
    | some g, some p2 =>
      let ports2 := ports.filter fun n => n ≠ g.port
      let used := g.threads.length
      let crews := w.crewsOf g.threads
      let k2 := clkAt (s.codeFor w p2) (s.accepts w) 1 p2
      let cands2 := if k1.isRep || k2.isRep then cands.filter fun c => !crews.contains (w.crewOf c.thread) else cands
      if ports2 = [] then [g]
      else g :: (s.groupOn w cands2 p2 (room - used) (runRoom - used) ports2 (takeUnits w g.port s.clk busy k1.words)).toList

/-- The workgroup that the picker serves among those of a core with ready threads (R306): one that has waited for 64 clk, lower
slots first; else the highest QUEUE, round-robin by slot behind the one served last. -/
def State.serve (s : State) (core : Nat) (ws : List (Wg × List Ready)) : Option (Wg × List Ready) :=
  let starved := ws.filter fun x => decide (x.1.served + 65 ≤ s.clk)
  let queue := fun (w : Wg) => match s.grid? w.grid with | some g => g.queue | none => 0
  let last := (s.core core).served
  match sortBy (fun x => x.1.slot) starved with
  | x :: _ => some x
  | [] =>
    let top := ws.foldl (fun m x => max m (queue x.1)) 0
    (sortBy (fun x => if x.1.slot > last then x.1.slot else x.1.slot + 4096) (ws.filter fun x => queue x.1 = top)).head?

/-- Whether a run goes on: its threads all stand at its next word, none parked or gone (R37). -/
def State.runLives (s : State) (r : Run) : Bool :=
  match r.who with
  | .group id =>
    match s.wg? id with
    | some w =>
      w.stopped.isNone && r.threads ≠ [] && r.threads.all (fun t => match w.thread? t with
        | some x => !x.exited && x.pc = r.pc && !w.heldOut t && (match x.wait with | .parked _ => false | _ => true)
        | none => false)
        && (r.packets ≠ 0 || (w.crewsOf r.threads).all fun c => match w.crew? c with
          | some k => !k.out && k.repctl.getLsbD 31 | none => false)
    | none => false
  | .starter q => (s.starter q).run.isSome && (s.starter q).pc = r.pc && (match (s.starter q).wait with | .parked _ => false | _ => true)

/-- The words a run issues next: its next packet, or the next repeat of its sequence. -/
def State.runWords (s : State) (w : Wg) (r : Run) : Clk :=
  let code := s.codeFor w r.pc
  if r.packets = 0 then
    let word := match w.crew? (w.crewOf (r.threads.headD 0)) with | some k => repeatWord code r.pc k.repctl | none => none
    match word.filter fun x => s.accepts w x.instr with
    | some x => { words := [x], next := r.pc, more := false, bad := none }
    | none => { words := [], next := r.pc, more := false, bad := some r.pc }
  else clkAt code (s.accepts w) (r.packets + (if r.base.isSome then 0 else 1)) r.pc

/-- Whether a run may issue in this clk; else it stalls as a whole and keeps its port (R37, R99). -/
def State.runReady (s : State) (w : Wg) (r : Run) (busy : List Nat) : Bool :=
  let k := s.runWords w r
  r.threads.all (fun t => (match w.thread? t with | some x => x.wait == .ready && decide (x.notBefore ≤ s.clk) | none => false)
    && (k.bad.isSome || s.clear w k.words t))
    && (w.crewsOf r.threads).all (fun c => match w.crew? c with
      | some k => !k.frozen && !(match s.part? w.part with | some p => (s.func p.func).frozen | none => false) | none => false)
    && (k.bad.isSome || unitsFree w r.port s.clk busy k.words)

/-- The runs of a core's workgroups. -/
def State.runsOn (s : State) (core : Nat) : List (Wg × Run) :=
  s.runs.filterMap fun r =>
    match r.who with
    | .group id => match s.wg? id with | some w => if w.core = core then some (w, r) else none | none => none
    | .starter _ => none

/-- Everything that a core issues in a clk: the runs that hold its ports, and the groups of the workgroup that is served, in
ascending program counter; and that workgroup (R37, R255, R306). -/
def State.plans (s : State) (core : Nat) : List Plan × Option Nat :=
  let runs := s.runsOn core
  let held := runs.foldl (fun (a : List Plan × List Nat) (x : Wg × Run) =>
    if s.runReady x.1 x.2 a.2 then
      (a.1 ++ [{ who := x.2.who, threads := x.2.threads, pc := x.2.pc, port := x.2.port, packets := x.2.packets,
                 again := decide (x.2.packets = 0) }],
       takeUnits x.1 x.2.port s.clk a.2 (s.runWords x.1 x.2).words)
    else a) ([], (s.core core).busy)
  let ports := [0, 1].filter fun n => !(runs.any fun x => x.2.port = n)
  let lanes := 64 - (held.1.map fun p => p.threads.length).foldl (· + ·) 0
  let runLanes := 64 - (runs.map fun x => x.2.threads.length).foldl (· + ·) 0
  let ready := ((s.onCore core).map fun w => (w, s.readyThreads w)).filter fun x => x.2 ≠ []
  let new := match (if ports = [] then none else s.serve core ready) with
    | some x => (s.groupsOf x.1 x.2 lanes runLanes ports held.2, some x.1.id)
    | none => ([], none)
  (sortBy (fun p => p.pc.toNat) (held.1 ++ new.1), new.2)

/-! ### Starters -/

/-- Whether a quad's starter may issue (R254, R309, R378); a pre-emption does not interrupt its run (R37). -/
def State.starterMay (s : State) (q : Nat) : Bool :=
  let k := s.starter q
  match k.run with
  | some (g, _) =>
    k.stopped.isNone && !k.frozen && k.wait == .ready && decide (k.notBefore ≤ s.clk)
      && (s.starterRuns q || !(s.wgs.any fun w => w.grid = g && coreQuad w.core = q && w.evict))
      && !(match s.grid? g with
        | some gr => (match s.part? gr.part with | some p => (s.func p.func).frozen | none => false)
        | none => false)
  | none => false

/-- The registers of a starter with a write to come. -/
def Starter.busyRegs (k : Starter) : List Nat := (k.pend ++ k.written).flatMap fun p => p.s.map fun x => 64 + x.2.1

/-- Where a starter's next group begins. -/
def Starter.beginAt (k : Starter) : Pc := Machine.beginAt k.code k.pc

/-- The words of a starter's clk. -/
def State.starterClk (s : State) (q : Nat) : Clk :=
  let k := s.starter q
  match s.runs.find? fun r => r.who == .starter q with
  | some r => clkAt k.code s.starterAccepts (r.packets + 1) k.pc
  | none => clkAt k.code s.starterAccepts 1 k.beginAt

/-- Whether a starter issues in this clk: nothing its words need has a write to come, and its divider is free (R69, R70). -/
def State.starterReady (s : State) (q : Nat) : Bool :=
  let k := s.starter q
  let c := s.starterClk q
  s.starterMay q && (c.bad.isSome || c.words.all fun x =>
    (shape x.instr).needs.all (fun r => !decide (r ∈ k.busyRegs))
      && (match x.instr with | .sdiv .. => decide (k.divider ≤ s.clk) | _ => true))

/-! ### What a clk has to do -/

/-- A crew of a resident workgroup whose park has ended; workgroup 0 stands for starters. -/
def State.nextPark (s : State) : Option (Nat × Nat) :=
  match s.wgs.findSome? fun w =>
    if w.stopped.isSome then none
    else ((List.range w.crews.length).find? fun c =>
      s.crewMay w c && (w.crewThreads c).any fun t => s.threadOver w t).map fun c => (w.id, c) with
  | some x => some x
  | none =>
    match s.wgs.find? fun w => w.stopped.isNone && (s.chkptOps w).any (fun o => o.wg = w.id) && s.chkptReady w with
    | some w => some (w.id, 0)
    | none =>
      (s.quads.find? fun x => x.2.starter.stopped.isNone && x.2.starter.run.isSome && (match x.2.starter.wait with
        | .parked c => s.starterParkOver x.1 c
        | _ => false)).map fun x => (0, x.1)

/-- A crew with a wait at a barrier object that has reached its bound, and the clk its threads parked at. -/
def State.nextBound (s : State) : Option (Nat × Nat × Nat) :=
  s.wgs.findSome? fun w =>
    if w.stopped.isSome then none
    else (List.range w.crews.length).findSome? fun c =>
      if s.crewMay w c then
        ((w.crewThreads c).find? fun t => s.boundOver w t).map fun t =>
          (w.id, c, match w.thread? t with | some x => x.since | none => 0)
      else none

/-- The next core that has yet to issue in this clk, and after the cores the next quad whose starter has. -/
def State.nextTurn (s : State) : Option (Nat ⊕ Nat) :=
  let done := fun (key : Nat) => kget 0 s.issuedAt key = s.clk + 1
  match (sortBy id (dedup (s.wgs.map fun w => w.core))).find? fun c => !done c with
  | some c => some (.inl c)
  | none =>
    ((sortBy id (s.quads.map fun x => x.1)).find? fun q => (s.starter q).run.isSome && !done (1024 + q)).map fun q => .inr q

end Sys2Proof.Machine
end

