-- ==== Sys2Proof/Machine/Dispatch.lean ====
section
/-! DEFINITION. The meaning of every instruction and step: one arm per constructor. -/

namespace Sys2Proof.Machine

/-- What an instruction, or a step of the device, does to the state. -/
def exec (i : Instr) (s : State) : Host.Outcome State Fault Refusal :=
  match i with
  | .sadd _ g w d a b => Sys2Proof.Machine.execSadd g w d a b s
  | .ssub _ g w d a b => Sys2Proof.Machine.execSsub g w d a b s
  | .smul _ g w d a b => Sys2Proof.Machine.execSmul g w d a b s
  | .smulh _ g w d a b => Sys2Proof.Machine.execSmulh g w d a b s
  | .sdiv _ g w d a b => Sys2Proof.Machine.execSdiv g w d a b s
  | .sand _ g w d a b => Sys2Proof.Machine.execSand g w d a b s
  | .sor _ g w d a b => Sys2Proof.Machine.execSor g w d a b s
  | .sxor _ g w d a b => Sys2Proof.Machine.execSxor g w d a b s
  | .sshl _ g w d a b => Sys2Proof.Machine.execSshl g w d a b s
  | .sshr _ g w d a b => Sys2Proof.Machine.execSshr g w d a b s
  | .ssra _ g w d a b => Sys2Proof.Machine.execSsra g w d a b s
  | .smin _ g w d a b => Sys2Proof.Machine.execSmin g w d a b s
  | .smax _ g w d a b => Sys2Proof.Machine.execSmax g w d a b s
  | .ssel _ g w d a b => Sys2Proof.Machine.execSsel g w d a b s
  | .scmp _ g w k p a b => Sys2Proof.Machine.execScmp g w k p a b s
  | .smov _ g w d a => Sys2Proof.Machine.execSmov g w d a s
  | .sclz _ g w d a => Sys2Proof.Machine.execSclz g w d a s
  | .spop _ g w d a => Sys2Proof.Machine.execSpop g w d a s
  | .sli _ g w d n => Sys2Proof.Machine.execSli g w d n s
  | .slitLo _ g w d a => Sys2Proof.Machine.execSlitLo g w d a s
  | .slitHi _ g w d a => Sys2Proof.Machine.execSlitHi g w d a s
  | .saddr _ g w d a b => Sys2Proof.Machine.execSaddr g w d a b s
  | .saddImm _ g w d a im => Sys2Proof.Machine.execSaddImm g w d a im s
  | .scmpImm _ g w k p a im => Sys2Proof.Machine.execScmpImm g w k p a im s
  | .vaddI32 _ g w d a b => Sys2Proof.Machine.execVaddI32 g w d a b s
  | .vaddF32 _ g w d a b => Sys2Proof.Machine.execVaddF32 g w d a b s
  | .vsubI32 _ g w d a b => Sys2Proof.Machine.execVsubI32 g w d a b s
  | .vsubF32 _ g w d a b => Sys2Proof.Machine.execVsubF32 g w d a b s
  | .vmulI32 _ g w d a b => Sys2Proof.Machine.execVmulI32 g w d a b s
  | .vmulF32 _ g w d a b => Sys2Proof.Machine.execVmulF32 g w d a b s
  | .vmulhI32 _ g w d a b => Sys2Proof.Machine.execVmulhI32 g w d a b s
  | .vmulhN32 _ g w d a b => Sys2Proof.Machine.execVmulhN32 g w d a b s
  | .vminI32 _ g w d a b => Sys2Proof.Machine.execVminI32 g w d a b s
  | .vminN32 _ g w d a b => Sys2Proof.Machine.execVminN32 g w d a b s
  | .vminF32 _ g w d a b => Sys2Proof.Machine.execVminF32 g w d a b s
  | .vmaxI32 _ g w d a b => Sys2Proof.Machine.execVmaxI32 g w d a b s
  | .vmaxN32 _ g w d a b => Sys2Proof.Machine.execVmaxN32 g w d a b s
  | .vmaxF32 _ g w d a b => Sys2Proof.Machine.execVmaxF32 g w d a b s
  | .vfmaF32 _ g w d a b => Sys2Proof.Machine.execVfmaF32 g w d a b s
  | .vmadI32 _ g w d a b => Sys2Proof.Machine.execVmadI32 g w d a b s
  | .vand _ g w d a b => Sys2Proof.Machine.execVand g w d a b s
  | .vor _ g w d a b => Sys2Proof.Machine.execVor g w d a b s
  | .vxor _ g w d a b => Sys2Proof.Machine.execVxor g w d a b s
  | .vshl _ g w d a b => Sys2Proof.Machine.execVshl g w d a b s
  | .vshr _ g w d a b => Sys2Proof.Machine.execVshr g w d a b s
  | .vsra _ g w d a b => Sys2Proof.Machine.execVsra g w d a b s
  | .vsel _ g w d a b => Sys2Proof.Machine.execVsel g w d a b s
  | .vmov _ g w d a => Sys2Proof.Machine.execVmov g w d a s
  | .vabsI32 _ g w d a => Sys2Proof.Machine.execVabsI32 g w d a s
  | .vabsF32 _ g w d a => Sys2Proof.Machine.execVabsF32 g w d a s
  | .vnegI32 _ g w d a => Sys2Proof.Machine.execVnegI32 g w d a s
  | .vnegF32 _ g w d a => Sys2Proof.Machine.execVnegF32 g w d a s
  | .vclz _ g w d a => Sys2Proof.Machine.execVclz g w d a s
  | .vpop _ g w d a => Sys2Proof.Machine.execVpop g w d a s
  | .frcp _ g w d a => Sys2Proof.Machine.execFrcp g w d a s
  | .frsq _ g w d a => Sys2Proof.Machine.execFrsq g w d a s
  | .fsqrt _ g w d a => Sys2Proof.Machine.execFsqrt g w d a s
  | .fexp2 _ g w d a => Sys2Proof.Machine.execFexp2 g w d a s
  | .flog2 _ g w d a => Sys2Proof.Machine.execFlog2 g w d a s
  | .fsin _ g w d a => Sys2Proof.Machine.execFsin g w d a s
  | .fcos _ g w d a => Sys2Proof.Machine.execFcos g w d a s
  | .ftanh _ g w d a => Sys2Proof.Machine.execFtanh g w d a s
  | .vcmpI32 _ g w k p a b => Sys2Proof.Machine.execVcmpI32 g w k p a b s
  | .vcmpN32 _ g w k p a b => Sys2Proof.Machine.execVcmpN32 g w k p a b s
  | .vcmpF32 _ g w k p a b => Sys2Proof.Machine.execVcmpF32 g w k p a b s
  | .vclampI32 _ g w d a b => Sys2Proof.Machine.execVclampI32 g w d a b s
  | .vclampF32 _ g w d a b => Sys2Proof.Machine.execVclampF32 g w d a b s
  | .rep t x y z n => Sys2Proof.Machine.execRep t x y z n s
  | .xshuf _ g w d a b => Sys2Proof.Machine.execXshuf g w d a b s
  | .xrot _ g w d a b => Sys2Proof.Machine.execXrot g w d a b s
  | .xbcast _ g w d a b => Sys2Proof.Machine.execXbcast g w d a b s
  | .xfirst _ g w d a b => Sys2Proof.Machine.execXfirst g w d a b s
  | .xvote _ g w d a m => Sys2Proof.Machine.execXvote g w d a m s
  | .xreduce _ g w d a t o => Sys2Proof.Machine.execXreduce g w d a t o s
  | .xscan _ g w d a x t o => Sys2Proof.Machine.execXscan g w d a x t o s
  | .xcount _ g w d a b => Sys2Proof.Machine.execXcount g w d a b s
  | .cvtEnc _ g w d a r k => Sys2Proof.Machine.execCvtEnc g w d a r k s
  | .cvtDec _ g w d a p k => Sys2Proof.Machine.execCvtDec g w d a p k s
  | .cvtsEnc _ g w d a r sc => Sys2Proof.Machine.execCvtsEnc g w d a r sc s
  | .cvtsDec _ g w d a p sc => Sys2Proof.Machine.execCvtsDec g w d a p sc s
  | .plpack _ g w d a k => Sys2Proof.Machine.execPlpack g w d a k s
  | .plunpack _ g w d a p j => Sys2Proof.Machine.execPlunpack g w d a p j s
  | .plane _ g w d a m p => Sys2Proof.Machine.execPlane g w d a m p s
  | .fmtq _ g w d f sc => Sys2Proof.Machine.execFmtq g w d f sc s
  | .mclaim _ g w p a m => Sys2Proof.Machine.execMclaim g w p a m s
  | .mrelease _ g a m => Sys2Proof.Machine.execMrelease g a m s
  | .mload _ g d a sc => Sys2Proof.Machine.execMload g d a sc s
  | .mzero _ g k b m => Sys2Proof.Machine.execMzero g k b m s
  | .mma _ g y x a t z b m => Sys2Proof.Machine.execMma g y x a t z b m s
  | .mdrain _ g r o a l b m => Sys2Proof.Machine.execMdrain g r o a l b m s
  | .mchk _ g w p b m => Sys2Proof.Machine.execMchk g w p b m s
  | .mheat _ g a m => Sys2Proof.Machine.execMheat g a m s
  | .mheatOff _ g m => Sys2Proof.Machine.execMheatOff g m s
  | .mwait _ g q m => Sys2Proof.Machine.execMwait g q m s
  | .ld _ g w d a b => Sys2Proof.Machine.execLd g w d a b s
  | .st _ g d a b => Sys2Proof.Machine.execSt g d a b s
  | .lds _ g w d a b => Sys2Proof.Machine.execLds g w d a b s
  | .sts _ g d a b => Sys2Proof.Machine.execSts g d a b s
  | .ldx _ g w d a b => Sys2Proof.Machine.execLdx g w d a b s
  | .stx _ g d a b => Sys2Proof.Machine.execStx g d a b s
  | .ldw _ g w d a b => Sys2Proof.Machine.execLdw g w d a b s
  | .stw _ g d a b => Sys2Proof.Machine.execStw g d a b s
  | .pres _ g v a => Sys2Proof.Machine.execPres g v a s
  | .seal _ g n => Sys2Proof.Machine.execSeal g n s
  | .unseal _ g n => Sys2Proof.Machine.execUnseal g n s
  | .pref _ g n a l => Sys2Proof.Machine.execPref g n a l s
  | .bind _ g n a => Sys2Proof.Machine.execBind g n a s
  | .unbind _ g n a => Sys2Proof.Machine.execUnbind g n a s
  | .acq _ g a sc => Sys2Proof.Machine.execAcq g a sc s
  | .rel _ g a sc => Sys2Proof.Machine.execRel g a sc s
  | .chkpt _ g n a => Sys2Proof.Machine.execChkpt g n a s
  | .logq _ g w d a => Sys2Proof.Machine.execLogq g w d a s
  | .fence _ g sc => Sys2Proof.Machine.execFence g sc s
  | .xfence _ g o im sc => Sys2Proof.Machine.execXfence g o im sc s
  | .aadd _ g w d a t => Sys2Proof.Machine.execAadd g w d a t s
  | .amin _ g w d a t => Sys2Proof.Machine.execAmin g w d a t s
  | .amax _ g w d a t => Sys2Proof.Machine.execAmax g w d a t s
  | .aand _ g w d a => Sys2Proof.Machine.execAand g w d a s
  | .aor _ g w d a => Sys2Proof.Machine.execAor g w d a s
  | .axor _ g w d a => Sys2Proof.Machine.execAxor g w d a s
  | .aswap _ g w d a => Sys2Proof.Machine.execAswap g w d a s
  | .acas _ g w d a => Sys2Proof.Machine.execAcas g w d a s
  | .ainc _ g w d a => Sys2Proof.Machine.execAinc g w d a s
  | .radd _ g d a t => Sys2Proof.Machine.execRadd g d a t s
  | .raddPf _ g d a t => Sys2Proof.Machine.execRaddPf g d a t s
  | .raddFlush _ g a => Sys2Proof.Machine.execRaddFlush g a s
  | .oadd _ g d a b => Sys2Proof.Machine.execOadd g d a b s
  | .orinit _ g n a b => Sys2Proof.Machine.execOrinit g n a b s
  | .br g f => Sys2Proof.Machine.execBr g f s
  | .brp g f => Sys2Proof.Machine.execBrp g f s
  | .jmp g a => Sys2Proof.Machine.execJmp g a s
  | .call g f => Sys2Proof.Machine.execCall g f s
  | .calli g a => Sys2Proof.Machine.execCalli g a s
  | .ret g => Sys2Proof.Machine.execRet g s
  | .exit g => Sys2Proof.Machine.execExit g s
  | .yield g => Sys2Proof.Machine.execYield g s
  | .fwait _ g h => Sys2Proof.Machine.execFwait g h s
  | .ftest _ g w p h => Sys2Proof.Machine.execFtest g w p h s
  | .fcancel _ g h => Sys2Proof.Machine.execFcancel g h s
  | .fmovHh _ g w e h => Sys2Proof.Machine.execFmovHh g w e h s
  | .fmovSh _ g w d h => Sys2Proof.Machine.execFmovSh g w d h s
  | .fmovHs _ g w e a => Sys2Proof.Machine.execFmovHs g w e a s
  | .cpy _ g w h a b => Sys2Proof.Machine.execCpy g w h a b s
  | .cpyw _ g w h a b => Sys2Proof.Machine.execCpyw g w h a b s
  | .ovl _ g w h a b => Sys2Proof.Machine.execOvl g w h a b s
  | .gth _ g w h a b => Sys2Proof.Machine.execGth g w h a b s
  | .coll _ g w h a y q k => Sys2Proof.Machine.execColl g w h a y q k s
  | .rlink _ g r a => Sys2Proof.Machine.execRlink g r a s
  | .rclose _ g x r => Sys2Proof.Machine.execRclose g x r s
  | .spawn _ g w d a b => Sys2Proof.Machine.execSpawn g w d a b s
  | .done _ g w d a => Sys2Proof.Machine.execDone g w d a s
  | .tbfull _ g a => Sys2Proof.Machine.execTbfull g a s
  | .tbempty _ g a => Sys2Proof.Machine.execTbempty g a s
  | .tbwait _ g a => Sys2Proof.Machine.execTbwait g a s
  | .heatid _ g w d a => Sys2Proof.Machine.execHeatid g w d a s
  | .bar _ g a sc => Sys2Proof.Machine.execBar g a sc s
  | .binit _ g n a => Sys2Proof.Machine.execBinit g n a s
  | .barrive _ g w d a k => Sys2Proof.Machine.execBarrive g w d a k s
  | .bwait _ g w d a t => Sys2Proof.Machine.execBwait g w d a t s
  | .btest _ g w p a => Sys2Proof.Machine.execBtest g w p a s
  | .sysrd _ g w d n => Sys2Proof.Machine.execSysrd g w d n s
  | .syswr _ g d n => Sys2Proof.Machine.execSyswr g d n s
  | .caprd _ g w d a => Sys2Proof.Machine.execCaprd g w d a s
  | .tfence _ g => Sys2Proof.Machine.execTfence g s
  | .trap g a => Sys2Proof.Machine.execTrap g a s
  | .tret g => Sys2Proof.Machine.execTret g s
  | .flagrd _ g w d a => Sys2Proof.Machine.execFlagrd g w d a s
  | .flagclr _ g a => Sys2Proof.Machine.execFlagclr g a s
  | .ctxsave _ g a => Sys2Proof.Machine.execCtxsave g a s
  | .ctxload _ g a => Sys2Proof.Machine.execCtxload g a s
  | .multiClkResultWrite wg id => Sys2Proof.Machine.execMultiClkResultWrite wg id s
  | .loadReply op line => Sys2Proof.Machine.execLoadReply op line s
  | .sliceRequestArrival op line => Sys2Proof.Machine.execSliceRequestArrival op line s
  | .sliceHoldBoundExpiry op line => Sys2Proof.Machine.execSliceHoldBoundExpiry op line s
  | .hbmHoldBoundExpiry op line => Sys2Proof.Machine.execHbmHoldBoundExpiry op line s
  | .routerPacket op line reply blocked => Sys2Proof.Machine.execRouterPacket op line reply blocked s
  | .bounceNotice op line cause => Sys2Proof.Machine.execBounceNotice op line cause s
  | .replayReissue op line => Sys2Proof.Machine.execReplayReissue op line s
  | .walkOutcome walk => Sys2Proof.Machine.execWalkOutcome walk s
  | .stage2FaultEntryWrite req => Sys2Proof.Machine.execStage2FaultEntryWrite req s
  | .pageRequestMessage req => Sys2Proof.Machine.execPageRequestMessage req s
  | .pageReplyAtWalker req ok => Sys2Proof.Machine.execPageReplyAtWalker req ok s
  | .pageFailureDelivery req => Sys2Proof.Machine.execPageFailureDelivery req s
  | .heatWindowRequest op line => Sys2Proof.Machine.execHeatWindowRequest op line s
  | .absenceNotice core owner line => Sys2Proof.Machine.execAbsenceNotice core owner line s
  | .wakeNotice core owner line => Sys2Proof.Machine.execWakeNotice core owner line s
  | .stxAcknowledge op line => Sys2Proof.Machine.execStxAcknowledge op line s
  | .logBufferDrain core => Sys2Proof.Machine.execLogBufferDrain core s
  | .logWaitExpiry op => Sys2Proof.Machine.execLogWaitExpiry op s
  | .releaseAtSlice op => Sys2Proof.Machine.execReleaseAtSlice op s
  | .acquireAtSlice op => Sys2Proof.Machine.execAcquireAtSlice op s
  | .releaseReply op => Sys2Proof.Machine.execReleaseReply op s
  | .acquireReply op => Sys2Proof.Machine.execAcquireReply op s
  | .nodeCommit part node => Sys2Proof.Machine.execNodeCommit part node s
  | .compactorApply core seq => Sys2Proof.Machine.execCompactorApply core seq s
  | .atomicAtSlice op line => Sys2Proof.Machine.execAtomicAtSlice op line s
  | .atomicReply op line => Sys2Proof.Machine.execAtomicReply op line s
  | .replyAcknowledgeNotice op line => Sys2Proof.Machine.execReplyAcknowledgeNotice op line s
  | .joinWake part counter => Sys2Proof.Machine.execJoinWake part counter s
  | .waiterRegistration part baton => Sys2Proof.Machine.execWaiterRegistration part baton s
  | .spawnEntry op => Sys2Proof.Machine.execSpawnEntry op s
  | .spawnStatus op status => Sys2Proof.Machine.execSpawnStatus op status s
  | .batonPlacement part => Sys2Proof.Machine.execBatonPlacement part s
  | .batonStart part baton cores => Sys2Proof.Machine.execBatonStart part baton cores s
  | .heatReservation part grid => Sys2Proof.Machine.execHeatReservation part grid s
  | .placementLevelAging part baton => Sys2Proof.Machine.execPlacementLevelAging part baton s
  | .batonFinish part baton => Sys2Proof.Machine.execBatonFinish part baton s
  | .timeSliceExpiry wg => Sys2Proof.Machine.execTimeSliceExpiry wg s
  | .crewVacate wg crew => Sys2Proof.Machine.execCrewVacate wg crew s
  | .batonResume part baton cores => Sys2Proof.Machine.execBatonResume part baton cores s
  | .engineWordStart word chan => Sys2Proof.Machine.execEngineWordStart word chan s
  | .engineLineWrite word line => Sys2Proof.Machine.execEngineLineWrite word line s
  | .gatherElement word lane => Sys2Proof.Machine.execGatherElement word lane s
  | .engineWordComplete word => Sys2Proof.Machine.execEngineWordComplete word s
  | .relayFlitArrival flit => Sys2Proof.Machine.execRelayFlitArrival flit s
  | .relayAcknowledge flit refused => Sys2Proof.Machine.execRelayAcknowledge flit refused s
  | .relayResend flit => Sys2Proof.Machine.execRelayResend flit s
  | .barrierEpisodeRelease ep => Sys2Proof.Machine.execBarrierEpisodeRelease ep s
  | .macroOperationStart core => Sys2Proof.Machine.execMacroOperationStart core s
  | .tokenRequest core => Sys2Proof.Machine.execTokenRequest core s
  | .tokenServe part => Sys2Proof.Machine.execTokenServe part s
  | .tokenGrant core => Sys2Proof.Machine.execTokenGrant core s
  | .mmaRowStep core => Sys2Proof.Machine.execMmaRowStep core s
  | .mmaComplete core => Sys2Proof.Machine.execMmaComplete core s
  | .mzeroComplete core => Sys2Proof.Machine.execMzeroComplete core s
  | .checkComplete core => Sys2Proof.Machine.execCheckComplete core s
  | .drainLineWrite core line => Sys2Proof.Machine.execDrainLineWrite core line s
  | .drainComplete core => Sys2Proof.Machine.execDrainComplete core s
  | .slotScrubComplete core slot => Sys2Proof.Machine.execSlotScrubComplete core slot s
  | .pinnedReserveBuild part grid => Sys2Proof.Machine.execPinnedReserveBuild part grid s
  | .refresh stack bank done => Sys2Proof.Machine.execRefresh stack bank done s
  | .packetRead hart => Sys2Proof.Machine.execPacketRead hart s
  | .packetComplete qcb num status => Sys2Proof.Machine.execPacketComplete qcb num status s
  | .watchWake hart => Sys2Proof.Machine.execWatchWake hart s
  | .waitTimeout hart num => Sys2Proof.Machine.execWaitTimeout hart num s
  | .inFieldTestComplete quad pass => Sys2Proof.Machine.execInFieldTestComplete quad pass s
  | .hbmRequestArrival op line => Sys2Proof.Machine.execHbmRequestArrival op line s
  | .refreshManagement stack bank row => Sys2Proof.Machine.execRefreshManagement stack bank row s
  | .functionResetComplete func => Sys2Proof.Machine.execFunctionResetComplete func s
  | .inFieldTestSkip quad => Sys2Proof.Machine.execInFieldTestSkip quad s
  | .idleFlit port => Sys2Proof.Machine.execIdleFlit port s
  | .inFieldTestDue quad => Sys2Proof.Machine.execInFieldTestDue quad s
  | .starterBegin quad wg => Sys2Proof.Machine.execStarterBegin quad wg s
  | .contextSpill quad => Sys2Proof.Machine.execContextSpill quad s
  | .parkEnd wg crew => Sys2Proof.Machine.execParkEnd wg crew s
  | .repeatIssue wg crew => Sys2Proof.Machine.execRepeatIssue wg crew s
  | .transmitRegisterWrite n v => Sys2Proof.Machine.execTransmitRegisterWrite n v s
  | .receiveRegisterRead n d w => Sys2Proof.Machine.execReceiveRegisterRead n d w s
  | .repctlWrite v => Sys2Proof.Machine.execRepctlWrite v s
  | .prgResponse func index ok => Sys2Proof.Machine.execPrgResponse func index ok s
  | .stage2ReplyWrite v => Sys2Proof.Machine.execStage2ReplyWrite v s
  | .atsInvalidation addr bytes => Sys2Proof.Machine.execAtsInvalidation addr bytes s
  | .cxlMemWrite pa bytes => Sys2Proof.Machine.execCxlMemWrite pa bytes s
  | .cxlMemRead pa len => Sys2Proof.Machine.execCxlMemRead pa len s
  | .nodeRollback part node => Sys2Proof.Machine.execNodeRollback part node s
  | .contextSave part => Sys2Proof.Machine.execContextSave part s
  | .collectiveAbort part gid => Sys2Proof.Machine.execCollectiveAbort part gid s
  | .bwaitBoundExpiry wg crew since => Sys2Proof.Machine.execBwaitBoundExpiry wg crew since s
  | .workgroupKill wg addr => Sys2Proof.Machine.execWorkgroupKill wg addr s
  | .pacerCreditTick => Sys2Proof.Machine.execPacerCreditTick s
  | .vfStep island up => Sys2Proof.Machine.execVfStep island up s
  | .rampSlotStart => Sys2Proof.Machine.execRampSlotStart s
  | .notify func q n => Sys2Proof.Machine.execNotify func q n s
  | .destroyDrain func q pf => Sys2Proof.Machine.execDestroyDrain func q pf s
  | .destroyKill func q pf => Sys2Proof.Machine.execDestroyKill func q pf s
  | .resume func q pf => Sys2Proof.Machine.execResume func q pf s
  | .queueMap => Sys2Proof.Machine.execQueueMap s
  | .nop hart => Sys2Proof.Machine.execNop hart s
  | .launch hart => Sys2Proof.Machine.execLaunch hart s
  | .wait hart => Sys2Proof.Machine.execWait hart s
  | .inval hart => Sys2Proof.Machine.execInval hart s
  | .group hart => Sys2Proof.Machine.execGroup hart s
  | .preempt hart => Sys2Proof.Machine.execPreempt hart s
  | .partCreate hart => Sys2Proof.Machine.execPartCreate hart s
  | .partDissolve hart => Sys2Proof.Machine.execPartDissolve hart s
  | .eccError part source pa op correctable => Sys2Proof.Machine.execEccError part source pa op correctable s
  | .patrolRead pa bad => Sys2Proof.Machine.execPatrolRead pa bad s
  | .bucketFill core => Sys2Proof.Machine.execBucketFill core s
  | .linkFailure port => Sys2Proof.Machine.execLinkFailure port s
  | .switchFailure switch => Sys2Proof.Machine.execSwitchFailure switch s
  | .groupFailure grp => Sys2Proof.Machine.execGroupFailure grp s
  | .namedFailure pkg => Sys2Proof.Machine.execNamedFailure pkg s
  | .violation cause func unit crew => Sys2Proof.Machine.execViolation cause func unit crew s
  | .thaw => Sys2Proof.Machine.execThaw s
  | .kill => Sys2Proof.Machine.execKill s
  | .acknowledge => Sys2Proof.Machine.execAcknowledge s
  | .queuePendingAging qcb => Sys2Proof.Machine.execQueuePendingAging qcb s
  | .comparatorMismatch part node => Sys2Proof.Machine.execComparatorMismatch part node s
  | .functionLevelReset func => Sys2Proof.Machine.execFunctionLevelReset func s
  | .vectorUnmask func vec => Sys2Proof.Machine.execVectorUnmask func vec s
  | .resetN level => Sys2Proof.Machine.execResetN level s
  | .pwrok level => Sys2Proof.Machine.execPwrok level s
  | .vralertN => Sys2Proof.Machine.execVralertN s
  | .telemetryReport rail volts amps temp => Sys2Proof.Machine.execTelemetryReport rail volts amps temp s
  | .boot => Sys2Proof.Machine.execBoot s
  | .hubRegisterWrite offset func bar2 v => Sys2Proof.Machine.execHubRegisterWrite offset func bar2 v s
  | .haledFlitArrival port pkg => Sys2Proof.Machine.execHaledFlitArrival port pkg s
  | .qcbLoad func q => Sys2Proof.Machine.execQcbLoad func q s
  | .laneRepair module ok => Sys2Proof.Machine.execLaneRepair module ok s
  | .atsTranslationCompletion core va pa ok => Sys2Proof.Machine.execAtsTranslationCompletion core va pa ok s
  | .flashWrite offset bytes => Sys2Proof.Machine.execFlashWrite offset bytes s

end Sys2Proof.Machine
end

