-- ==== Sys2Proof/Machine/Issue.lean ====
section
/-! DEFINITION. Issue: the words of a clk run in order on the state before it, a clk that parks or is rejected as a whole (R36,
R49, R326, R412), runs (R37), repeats (R42, R100 to R103), and what a core and a starter do in a clk. -/

namespace Sys2Proof.Machine

/-- One outcome carried into the next. -/
def andThen (o : Host.Outcome State Fault Refusal) (f : State → Host.Outcome State Fault Refusal) :
    Host.Outcome State Fault Refusal :=
  match o with
  | .next s => f s
  | .fault r => .fault r
  | .refused r => .refused r

/-- How the last word ended its clk. -/
def State.howEnded (s : State) : Ended := match s.cur with | some is => is.ended | none => .no

/-- A workgroup as the words of a run see it: what earlier words of the run wrote of system registers is still to come (R330, R336). -/
def Wg.withHidden (w : Wg) (l : List (Nat × Nat × Dbl)) : Wg :=
  l.foldl (fun (w : Wg) x => w.modCrew x.1 fun c => c.before x.2) w

/-- What a run goes on hiding behind a clk that has taken a workgroup from one state to another. -/
def hideMore (old new : Wg) (threads : List Nat) (l : List (Nat × Nat × Dbl)) : List (Nat × Nat × Dbl) :=
  (old.crewsOf threads).foldl (fun (l : List (Nat × Nat × Dbl)) c =>
    match old.crew? c, new.crew? c with
    | some x, some y =>
      l ++ ((x.hides y).filter fun h => decide (h.1 < 9) || !(l.any fun z => z.1 = c && z.2.1 = h.1)).map fun h => (c, h)
    | _, _ => l) l

/-- A starter as the words of its run see it. -/
def Starter.withHidden (k : Starter) (l : List (Nat × Nat × Dbl)) : Starter := l.foldl (fun (k : Starter) x => k.before x.2) k

/-- What a starter's run goes on hiding. -/
def hideMoreStarter (old new : Starter) (l : List (Nat × Nat × Dbl)) : List (Nat × Nat × Dbl) :=
  l ++ ((old.hides new).filter fun h => decide (h.1 < 9) || !(l.any fun z => z.2.1 = h.1)).map fun h => (0, h)

/-- What the words of a clk read and where they stand: the plan and its words, the workgroup or starter as it was before, identities
below which work is older than the clk, and what its run hides. -/
structure IssueClk where
  plan : Plan
  clk : Clk
  base : Option Wg
  starter : Option Starter
  older : Nat
  hidden : List (Nat × Nat × Dbl)
deriving DecidableEq, Repr

/-- The word of a clk as it is being issued. -/
def IssueClk.issue (k : IssueClk) (threads : List Nat) (x : ClkWord) : Issue :=
  { who := k.plan.who, threads := threads, addr := x.addr, first := k.plan.pc, next := k.clk.next, lit := x.lit,
    chain := (shape x.instr).chain, older := k.older, base := k.base, baseStarter := k.starter, ended := .no }

/-- The threads of a word that its trap has not taken: those of crews that had been in no handler and are in one now go (R333);
none where the workgroup has stopped (R335). -/
def untrapped (old new : State) (p : Plan) (threads : List Nat) : List Nat :=
  match p.who with
  | .starter _ => []
  | .group id =>
    match old.wg? id, new.wg? id with
    | some w, some x =>
      let inn := fun (y : Wg) (t : Nat) => match y.crew? (y.crewOf t) with | some c => c.inHandler | none => true
      if x.stopped.isSome then [] else threads.filter fun t => !(inn x t && !inn w t)
    | _, _ => []

/-- The threads of a parked word that it has let through (R314): a bar parks only those that are not guarded off. -/
def letThrough (new : State) (p : Plan) (threads : List Nat) : List Nat :=
  match p.who with
  | .starter _ => []
  | .group id =>
    match new.wg? id with
    | some w => threads.filter fun t => match w.thread? t with | some x => x.wait == .ready && !x.exited && x.pc = p.pc | none => false
    | none => []

/-- The program counters of a group as a word has set them, whatever later words of its clk did (R341). -/
def State.keepPlaces (old new : State) (p : Plan) : State :=
  match p.who with
  | .group id =>
    match old.wg? id with
    | some w =>
      new.modWg id fun x => p.threads.foldl (fun (x : Wg) t => match w.thread? t with
        | some o => x.modThread t fun y => { y with pc := o.pc, notBefore := o.notBefore }
        | none => x) x
    | none => new
  | .starter _ => new

/-- Whether an operation may still end in an exact trap at its word, or in a park: it waits for a translation, for room in the log, or
for another core's scratchpad. -/
def MemOp.unsettled (o : MemOp) : Bool := o.kind == .ldx || o.lines.any fun l => l.pa.isNone || (o.kind == .store && l.st != .done)

/-- Whether a memory word of the clk holds back the words behind it: its threads wait until its checks are passed (R199, R209, R326). -/
def State.holdsBack (s : State) (p : Plan) (threads : List Nat) : Bool :=
  match p.who with
  | .group id =>
    match s.wg? id with
    | some w => threads.any fun t => match w.thread? t with
      | some { wait := .blocked n, .. } => (match s.op? n with | some o => o.unsettled | none => false)
      | _ => false
    | none => false
  | .starter _ => false

/-- The words from one on are put off: they issue on the state before their clk once the memory word before them has passed its
checks. -/
def State.putOff (s : State) (k : IssueClk) (threads : List Nat) (x : ClkWord) : State :=
  match k.plan.who with
  | .group id =>
    let r : Run := { who := k.plan.who, threads := threads, pc := x.addr, packets := k.plan.packets + 1, port := k.plan.port
                     hidden := k.hidden, base := k.base }
    let s := s.modWg id fun w => w.modThreads threads fun t => { t with pc := x.addr }
    ({ s with runs := s.runs.filter (fun (y : Run) => !(y.who == k.plan.who && y.threads == k.plan.threads)) ++ [r] } : State).ended .held
  | .starter _ => s

/-- The words of a clk, each on what the ones before it left (R36), up to one that parks or takes ILLOP at issue. Behind an exact trap the
threads that it has not taken go on (R326). The words behind one that has moved its threads leave them where they are; those behind a
memory word that may still trap are put off. -/
def runWith (k : IssueClk) : List ClkWord → List Nat → State → Host.Outcome State Fault Refusal
  | [], _, s => .next s
  | x :: rest, threads, s =>
    match exec x.instr { s with cur := some (k.issue threads x) } with
    | .next s1 =>
      match s1.howEnded with
      | .parked => .next s1
      | .illegal => .next s1
      | .trapped =>
        match untrapped s s1 k.plan threads with
        | [] => .next s1
        | left =>
          if rest = [] then
            match k.plan.who with
            | .group id => .next ((s1.retire (k.issue left x) id).ended .trapped)
            | .starter _ => .next s1
          else runWith k rest left s1
      | .moved =>
        if rest = [] then .next s1
        else andThen (runWith k rest threads s1) fun t => .next (if t.howEnded == .no then s1.keepPlaces t k.plan else t)
      | _ =>
        match rest with
        | y :: _ => if s1.holdsBack k.plan threads then .next (s1.putOff k threads y) else runWith k rest threads s1
        | [] => .next s1
    | .fault r => .fault r
    | .refused r => .refused r

/-- The words of a clk but those that park some of its threads, for the others (R314). -/
def runLeft (k : IssueClk) (left : List Nat) (s : State) : Host.Outcome State Fault Refusal :=
  let k := { k with plan := { k.plan with threads := left } }
  let bar := fun (x : ClkWord) => match x.instr with | .bar .. => true | _ => false
  match k.clk.words.filter fun x => !bar x, k.clk.words, k.plan.who with
  | [], x :: _, .group id => .next (s.retire (k.issue left x) id)
  | words, _, _ => runWith k words left s

/-- A clk one of whose words has parked: the threads that it has let through go on with the other words (R314). -/
def settle (k : IssueClk) (a : State) : Host.Outcome State Fault Refusal :=
  if a.howEnded == .parked then
    match letThrough a k.plan k.plan.threads with
    | [] => .next a
    | left => andThen (runLeft k left a) fun b => .next { b with cur := a.cur }
  else .next a

/-- Whether a word parks or takes ILLOP at issue. -/
def State.stopsClk (s : State) : Bool := s.howEnded == .parked || s.howEnded == .illegal

/-- A word of a clk by itself, on the state before the clk. -/
def IssueClk.alone (k : IssueClk) (s0 : State) (x : ClkWord) : Option State :=
  match exec x.instr { s0 with cur := some (k.issue k.plan.threads x) } with
  | .next a => some a
  | _ => none

/-- The words of a clk (R36, R49, R326). The first one that parks, or takes ILLOP at issue, stands alone on the state before the clk, and
no other takes effect (R412). A word that an earlier one of its clk would park goes first, since it parks by the state before the clk
only (log entry 33). -/
def runClk (k : IssueClk) (s0 : State) (words : List ClkWord) : Host.Outcome State Fault Refusal :=
  match words with
  | [x] => andThen (runWith k [x] k.plan.threads s0) (settle k)
  | _ =>
    match words.findSome? fun x => (k.alone s0 x).filter fun a => a.stopsClk with
    | some a => settle k a
    | none =>
      andThen (runWith k words k.plan.threads s0) fun s1 =>
        if s1.stopsClk then
          let late := fun (x : ClkWord) => match s1.cur with | some is => is.addr = x.addr | none => false
          runWith k (words.filter late ++ words.filter fun x => !late x) k.plan.threads s0
        else .next s1

/-- A group begins: its threads stand at its first word, their latches lost (R35, R38). -/
def Wg.beginGroup (w : Wg) (p : Plan) : Wg := w.modThreads p.threads fun t => { t with pc := p.pc, latches := [] }

/-- Whether a plan begins an issue group: no packet of a run behind its first. -/
def Plan.fresh (p : Plan) : Bool := p.packets = 0

/-- The run of an issuer kept up: it goes on behind a clk whose chain does, hiding what its words have written of system registers
(R37, R336), and ends otherwise; one whose words are put off stands already. -/
def State.keepRun (s : State) (p : Plan) (k : Clk) (hidden : List (Nat × Nat × Dbl)) : State :=
  if s.howEnded == .held then s
  else
    let others := s.runs.filter fun r => !(r.who == p.who && r.threads == p.threads)
    { s with runs := if k.more then others ++ [{ who := p.who, threads := p.threads, pc := k.next, packets := p.packets + 1, port := p.port
                                                 hidden := hidden, base := none }]
                     else others }

/-- The units that an issued clk takes (R70, R116, R120). -/
def State.useUnits (s : State) (w : Wg) (port : Nat) (words : List ClkWord) : State :=
  if s.stopsClk || words.all (fun x => (unitOf w port x.instr).isNone) then s
  else s.modCore w.core fun c => { c with busy := takeUnits w port s.clk c.busy words }

/-- The operations that a repeat has begun and that may still fail or be discarded keep REPCTL as it stood (R103). -/
def State.markRepeat (s : State) (from_ crew : Nat) (ctl : Word32) : State :=
  let held := fun (o : MemOp) => decide (from_ ≤ o.id) && (match s.wg? o.wg with
    | some w => o.threads.any fun t => match w.thread? t with | some x => x.wait == .blocked o.id | none => false
    | none => false)
  { s with ops := mapIf held (fun o => { o with rep := some (crew, ctl) }) s.ops }

/-- The s registers (crew, number) and predicates (thread, number) that the words of a clk have written or are to write (R69). -/
def writtenBy (w : Wg) (threads : List Nat) (words : List ClkWord) : List (Nat × Nat) × List (Nat × Nat) :=
  words.foldl (fun (a : List (Nat × Nat) × List (Nat × Nat)) x =>
    let sh := shape x.instr
    let act := threads.filter fun t => match w.thread? t with | some y => guardOn y.p sh.guard | none => false
    let sregs := (sh.writes.filter fun r => decide (64 ≤ r) && decide (r < 96)).flatMap fun r =>
      (w.crewsOf act).map fun c => (c, r - 64)
    let preds := (sh.writes.filter fun r => decide (160 ≤ r)).flatMap fun r => act.map fun t => (t, r - 160)
    (a.1 ++ sregs, a.2 ++ preds)) ([], [])

/-- The group of the higher program counter writes second (R69): results that a group issued before it in this clk is still to write in
the same registers are not written. -/
def State.writesLast (s : State) (w : Wg) (older upto : Nat) (regs : List (Nat × Nat) × List (Nat × Nat)) : State :=
  if upto ≤ older ∨ (regs.1 = [] ∧ regs.2 = []) then s
  else
    let here := fun (n : Nat) => decide (older ≤ n) && decide (n < upto)
    let cut := fun (p : PendWr) =>
      { p with s := p.s.filter fun x => !regs.1.contains (x.1, x.2.1), p := p.p.filter fun x => !regs.2.contains (x.1, x.2.1) }
    let lost := fun (o : MemOp) => here o.id && o.wg = w.id && (match o.sdst with
      | some d => (w.crewsOf (o.lanes.map fun l => l.thread)).any fun c => regs.1.contains (c, d)
      | none => false)
    { s.modWg w.id fun x => { x with pend := mapIf (fun p => here p.id) cut x.pend } with
      ops := mapIf lost (fun o => { o with wb := false }) s.ops }

/-- The words of a clk that have had their effect, with the threads for which: all, but where one trapped those before it, and those behind
it for the threads that it has not taken (R326), and those before the ones that are put off. -/
def IssueClk.ran (k : IssueClk) (s0 s1 : State) (words : List ClkWord) : List (List Nat × List ClkWord) :=
  match s1.howEnded with
  | .trapped =>
    let traps := fun (x : ClkWord) => match k.alone s0 x with | some a => a.howEnded == .trapped | none => false
    [(k.plan.threads, words.takeWhile fun x => !traps x), (untrapped s0 s1 k.plan k.plan.threads, words.dropWhile fun x => !traps x)]
  | .held =>
    let upto := match s1.cur with | some is => is.addr.word.toNat | none => 0
    [(k.plan.threads, words.filter fun x => decide (x.addr.word.toNat ≤ upto))]
  | _ => if s1.stopsClk then [] else [(k.plan.threads, words)]

/-- The results of a clk prevail over those of the groups that issued before it in the same clk (R69). -/
def State.prevails (s1 : State) (k : IssueClk) (w base : Wg) (s0 : State) (words : List ClkWord) : State :=
  (k.ran s0 s1 words).foldl (fun (s : State) x => s.writesLast w k.older s0.ids (writtenBy base x.1 x.2)) s1

/-- The next repeat of a crew's sequence issues, as an issue group of its own (R42, R100, R102): NEXT moves on unless the word
parks or traps (R103). -/
def State.issueRepeat (before : State) (w : Wg) (p : Plan) (s : State) : Host.Outcome State Fault Refusal :=
  let base := w.beginGroup p
  let crew := w.crewOf (p.threads.headD 0)
  let s0 := s.modWg w.id fun x => x.beginGroup p
  let k := s0.runWords base { who := p.who, threads := p.threads, pc := p.pc, packets := 0, port := p.port, hidden := [], base := none }
  match k.words with
  | [] => .next (s0.groupTrap w.id p.threads .illop p.pc p.pc)
  | x :: _ =>
    let ic : IssueClk := { plan := p, clk := k, base := some base, starter := none, older := before.ids, hidden := [] }
    andThen (runClk ic s0 [x]) fun s1 =>
      let s2 := (s1.prevails ic w base s0 [x]).useUnits w p.port [x]
      match s1.howEnded with
      | .parked => .next s2
      | .illegal => .next s2
      | .trapped => .next s2
      | _ =>
        let ctl := match w.crew? crew with | some c => c.repctl | none => 0
        execRepeatIssue w.id crew (s2.markRepeat s.ids crew ctl)

/-- A workgroup as it stood before a clk, with the repeat sequence that a rep word of the clk has begun (R36, R102). -/
def Wg.withSequence (w new : Wg) (threads : List Nat) : Wg :=
  (w.crewsOf threads).foldl (fun (w : Wg) c => match new.crew? c with
    | some k => w.modCrew c fun x => { x with repctl := k.repctl, repThreads := k.repThreads, repOuter := k.repOuter }
    | none => w) w

/-- A rep word at which a group stands (R42, R100, R102): checked, its X-pipe target's members waited for (R105), then REPCTL
loaded and the first repeat issued in the same slot when nothing holds it back. A target that may not be one is reported at the rep
word's own address (log entry 71). -/
def State.issueRep (before : State) (w : Wg) (p : Plan) (k : Clk) (x : ClkWord) (t : BitVec 2) (sb sa sd : Bool) (n : BitVec 6)
    (s : State) : Host.Outcome State Fault Refusal :=
  let base := w.beginGroup p
  let s0 := s.modWg w.id fun y => y.beginGroup p
  let code := s.codeFor w p.pc
  let own := match w.crew? (w.crewOf (p.threads.headD 0)) with | some c => c.repctl | none => 0
  let ctl := if own.getLsbD 31 then own else repctlOf t sb sa sd n
  let ic : IssueClk := { plan := p, clk := k, base := some base, starter := none, older := before.ids, hidden := [] }
  let is := ic.issue p.threads x
  if !repOk code (s.accepts w) p.pc ctl then .next (s0.groupTrap w.id p.threads .illop p.pc p.pc)
  else if (match repeatWord code p.pc ctl with | some y => (shape y.instr).pipe == .x | none => false) && !xHere is base then
    .next ({ s0 with cur := some is }.xPark is base)
  else
    andThen (exec x.instr { s0 with cur := some is }) fun s1 =>
      let r : Run := { who := p.who, threads := p.threads, pc := p.pc, packets := 0, port := p.port, hidden := [], base := none }
      let s2 : State := { s1 with runs := s1.runs.filter (fun y => !(y.who == p.who && y.threads == p.threads)) ++ [r] }
      match s2.wg? w.id with
      | some w2 =>
        if s2.runReady w2 r (s.core w.core).busy then before.issueRepeat (w.withSequence w2 p.threads) { p with again := true } s2
        else .next s2
      | none => .next s2

/-- One planned group of a core issues; before is the state that every group of the clk reads (R36). -/
def State.issueGroup (before : State) (p : Plan) (s : State) : Host.Outcome State Fault Refusal :=
  match p.who with
  | .starter _ => .next s
  | .group id =>
    match before.wg? id with
    | none => .next s
    | some w =>
      if p.again then before.issueRepeat w p s
      else
        let run := if p.fresh then none else before.runs.find? fun r => r.who == p.who && r.threads == p.threads
        let hidden := match run with | some r => r.hidden | none => []
        let held := match run with | some r => r.base | none => none
        let base := match held with | some b => b | none => if p.fresh then w.beginGroup p else w.withHidden hidden
        let s0 := if p.fresh then s.modWg id fun x => x.beginGroup p else s
        let k := clkAt (before.codeFor w p.pc) (before.accepts w) (p.packets + (if held.isSome then 0 else 1)) p.pc
        let p := if held.isSome then { p with packets := p.packets - 1 } else p
        match k.bad with
        | some bad => .next (({ s0 with cur := none }.groupTrap id p.threads .illop bad p.pc).keepRun p { k with more := false } hidden)
        | none =>
          match k.words with
          | [{ instr := .rep t sb sa sd n, addr := a, lit := l }] =>
            before.issueRep w p k { instr := .rep t sb sa sd n, addr := a, lit := l } t sb sa sd n s
          | words =>
            let ic : IssueClk := { plan := p, clk := k, base := some base, starter := none, older := before.ids, hidden := hidden }
            andThen (runClk ic s0 words) fun s1 =>
              let s2 := (s1.prevails ic w base s0 words).useUnits w p.port words
              let more := match s0.wg? id, s2.wg? id with
                | some x, some y => if k.more then hideMore x y p.threads hidden else []
                | _, _ => []
              .next (s2.keepRun p k more)

/-- A core's clk is over: the picker's round moves on (R306), and crews of a workgroup whose slice has ended leave at the safe
points, or ends, that they have come to (R308). -/
def State.endCoreClk (before : State) (core : Nat) (served : Option Nat) (plans : List Plan) (s : State) : State :=
  let s := { s with cur := none, issuedAt := kset s.issuedAt core (s.clk + 1) }
  let s := match served with
    | some id => (match before.wg? id with | some w => s.modCore core fun c => { c with served := w.slot } | none => s)
    | none => s
  let idle := fun (w : Wg) => served = some w.id || before.readyThreads w = []
  let mine := fun (w : Wg) => w.core = core && (match before.wg? w.id with | some x => idle x | none => false)
  let s : State := { s with wgs := mapIf mine (fun (w : Wg) => { w with served := s.clk }) s.wgs }
  plans.foldl (fun (s : State) p =>
    match p.who with
    | .group id =>
      match s.wg? id with
      | some w =>
        if w.due.isSome then
          (w.crewsOf p.threads).foldl (fun (s : State) c => if w.live c = [] then s.post 0 (.crewVacate id c) else s)
            (s.vacateSafe w)
        else s
      | none => s
    | .starter _ => s) s

/-- What a core issues in a clk. -/
def State.coreClk (core : Nat) (s : State) : Host.Outcome State Fault Refusal :=
  let s := { s with runs := s.runs.filter s.runLives }.noteReady core
  let ps := s.plans core
  andThen (ps.1.foldl (fun o p => andThen o (s.issueGroup p)) (.next s)) fun t => .next (s.endCoreClk core ps.2 ps.1 t)

/-- What a quad's starter issues in a clk. -/
def State.starterTurn (q : Nat) (s : State) : Host.Outcome State Fault Refusal :=
  let s := { s with runs := s.runs.filter s.runLives }
  let finish := fun (t : State) => { t with cur := none, issuedAt := kset t.issuedAt (1024 + q) (t.clk + 1) }
  if !s.starterReady q then .next (finish s)
  else
    let k := s.starter q
    let c := s.starterClk q
    let run := s.runs.find? fun r => r.who == .starter q
    let packets := match run with | some r => r.packets | none => 0
    let hidden := match run with | some r => r.hidden | none => []
    let pc := if packets = 0 then k.beginAt else k.pc
    let p : Plan := { who := .starter q, threads := [], pc := pc, port := 0, packets := packets, again := false }
    let s0 := s.modStarter q fun x => { x with pc := pc }
    match c.bad with
    | some bad => .next (finish (({ s0 with cur := none }.starterTrap q .illop bad pc).keepRun p { c with more := false } []))
    | none =>
      let ic : IssueClk :=
        { plan := p, clk := c, base := none, starter := some ({ k with pc := pc }.withHidden hidden), older := s.ids, hidden := hidden }
      andThen (runClk ic s0 c.words) fun t =>
        let t := if (c.words.any fun x => match x.instr with | .sdiv .. => true | _ => false) && !(t.howEnded == .parked) then
            t.modStarter q fun x => { x with divider := t.clk + 36 } else t
        .next (finish (t.keepRun p c (if c.more then hideMoreStarter (s0.starter q) (t.starter q) hidden else [])))

end Sys2Proof.Machine
end

