-- ==== Sys2Proof/Machine/Agenda.lean ====
section
/-! DEFINITION. What the machine does next: a step of its agenda that is due, the end of a park, a core's or a starter's clk, or
the next clk; and how an instruction is put where the machine runs it next. -/

namespace Sys2Proof.Machine

/-- The place of a record's application among what its slice takes (R404). -/
def State.applyRank (s : State) (core seq : Nat) : Nat :=
  match (s.log core).recs.find? fun r => r.num = seq, s.corePart core with
  | some r, some p => s.directRank (r.gran * 32) p.func 3584
  | _, _ => 0

/-- The place of a packet's read (R404); the half lies at the queue's next packet. -/
def State.packetRank (s : State) (hart : Nat) : Nat :=
  match s.packetPlace hart with
  | some x => s.directRank x.1 x.2 2560
  | none => 0

/-- The place of a due step among those of one clk: an array first looks at what held before the clk (R159), and a
ramp slot begins before what is placed in it (R349); requests arrive at
slices behind the other steps, in the order of R404, and those that waited for a bank are served in the order of R380. -/
def State.rank (s : State) (i : Instr) : Nat :=
  match i with
  | .macroOperationStart _ | .rampSlotStart => 0
  | .hbmRequestArrival op line => 1 + s.hbmRank op line
  | .sliceRequestArrival op line => 2 ^ 90 + s.sliceRank op line
  | .packetRead h => 2 ^ 90 + s.packetRank h
  | .compactorApply core seq => 2 ^ 90 + s.applyRank core seq
  | _ => 1

/-- An agenda without the first entry that equals a given one. -/
def without (e : Nat × Instr) : List (Nat × Instr) → List (Nat × Instr)
  | [] => []
  | x :: t => if x = e then t else x :: without e t

/-- Whether a step vacates a crew, which comes behind the traps of its clk (R335). -/
def isVacate : Instr → Bool
  | .crewVacate .. => true
  | _ => false

/-- Whether a step brings a frozen master a reply or a result, or moves a frozen channel's word: it is held until the master is thawed
(R379). -/
def State.held (s : State) (i : Instr) : Bool :=
  let ofOp := fun (op : Nat) => match s.op? op with | some o => s.frozenWg o.wg o.threads | none => false
  let ofWord := fun (id : Nat) => match s.word? id with | some e => s.chanFrozen e | none => false
  match i with
  | .loadReply op _ | .atomicReply op _ | .stxAcknowledge op _ | .spawnStatus op _ => ofOp op
  | .acquireReply op | .releaseReply op | .logWaitExpiry op => ofOp op
  | .absenceNotice core owner line => s.ops.any fun o => o.core = core && o.kind == .ldx && s.frozenWg o.wg o.threads
      && o.lines.any fun l => l.line = owner * 2048 + line
  | .multiClkResultWrite wg id => match s.wg? wg with
    | some w => w.pend.any fun p => p.id = id && s.frozenWg wg (p.v.map (fun x => x.1) ++ p.p.map (fun x => x.1) ++ p.mem
        ++ p.s.map fun x => x.1 * w.width)
    | none => false
  | .engineLineWrite word _ | .gatherElement word _ | .engineWordStart word _ => ofWord word
  | _ => false

/-- The step of the agenda that is due first. -/
def State.nextDue (s : State) : Option (Nat × Instr) :=
  (sortBy (fun e => s.rank e.2) (s.agenda.filter fun e => decide (e.1 ≤ s.clk) && !isVacate e.2 && !s.held e.2)).head?

/-- A crew's vacate that is due. -/
def State.nextVacate (s : State) : Option (Nat × Instr) := s.agenda.find? fun e => decide (e.1 ≤ s.clk) && isVacate e.2

/-- One step of the machine. -/
def State.advance (s : State) : Host.Outcome State Fault Refusal :=
  match s.nextDue with
  | some e => exec e.2 { s with agenda := without e s.agenda }
  | none =>
    match s.nextPark with
    | some x => execParkEnd x.1 x.2 s
    | none =>
      match s.nextBound with
      | some x => execBwaitBoundExpiry x.1 x.2.1 x.2.2 s
      | none =>
        match s.nextTurn with
        | some (.inl core) => s.coreClk core
        | some (.inr quad) => s.starterTurn quad
        | none =>
          match s.nextVacate with
          | some e => exec e.2 { s with agenda := without e s.agenda }
          | none => exec .pacerCreditTick s

end Sys2Proof.Machine
end

