-- ==== Sys2Proof/Machine/Load.lean ====
section
/-! DEFINITION. A program put where the machine runs it next. A K7 has no program after reset: its boot, a LAUNCH packet and the
dispatcher bring one in. These definitions stand for that load (log entry 25): one workgroup of one crew on core 0 with a packet in
its frame 0, or quad 0's starter with a packet in its instruction memory. -/

namespace Sys2Proof.Machine

/-- The packet of a word: zero behind a user of a literal, filler words elsewhere. -/
def loadPacket (w : Word32) : List Word32 :=
  match decodeWord w with
  | .ok i => if (shape i).literal then [w, 0, filler] else [w, filler, filler]
  | .error _ => [w, filler, filler]

/-- The partition of a loaded program: sector 0. -/
def loadPart : Partition :=
  { num := 0, sectors := [0], func := 0, bqbase := 0, bqcap := 0, logbase := 0, ctxbase := 0, ctxslots := 0, seals := [], groups := [],
    spill := [], reserve := none, aborted := [] }

/-- Its grid. -/
def loadGrid (id : Nat) (starter : Bool) : Grid :=
  { id := id, part := 0, ctx := { func := 0, s1 := 0, s2 := 0 }, qcb := 0, packet := 0, kernel := 0, starter := starter.toNat, count := 1,
    crews := 1, width := 16, nregs := 64, hcols := 0, hrows := 0, novl := 0, scratch := 4096, node := 0, queue := 0, slice := 0,
    heatwait := 0, args := 0, tbbase := 0, tbcount := 0, die := 0, cond := 0, waitj := 0, pin := 0, wave := 0,
    fslots := List.replicate 8 [0, 0, 0, 0], nextWg := 1, placedAt := 0, waiting := none, level := 0, woken := false,
    waveSlot := none, waveCores := 0, waveShut := none }

/-- A thread at word 0 of frame 0 with 64 v registers. -/
def loadThread (clk : Nat) : Thread := freshThread clk 64 { frame := false, word := 0 }

/-- Its workgroup: one crew of 16 threads on core 0. -/
def loadWg (id clk : Nat) : Wg :=
  { id := id, core := 0, slot := 0, part := 0, grid := id, baton := 0, index := 0, node := 0, heat := none, hcore := 0, width := 16,
    nregs := 64, scratchBase := 0, scratchBytes := 4096, ctx := { func := 0, s1 := 0, s2 := 0 },
    threads := List.replicate 16 (loadThread clk), crews := [{ Crew.reset with members := laneMask 16 }], pend := [], written := [],
    remain := 0, debt := 0, due := none, started := clk, served := clk, stopped := none, collCount := [], barCount := [],
    collFailed := false, begun := clk, evict := false, saving := none }

/-- A state that runs a vector-stream packet next. -/
def State.loadCode (s : State) (code : List Word32) : State :=
  { s with
    wgs := [loadWg s.ids s.clk]
    cores := kset s.cores 0 { s.core 0 with frames := [{ ovl := some (0, 0), code := code, ready := 0 }, Frame.reset],
                                            busy := [0, 0, 0, 0, 0] }
    quads := s.quads.map fun (x : Nat × Quad) => (x.1, { x.2 with starter := { x.2.starter with run := none } })
    parts := [loadPart], grids := [loadGrid s.ids false], nodes := [{ part := 0, num := 0, live := 1, taints := [], finished := none, aborts := [] }],
    ids := s.ids + 1, agenda := [], runs := [], issuedAt := [], cur := none }

/-- A state that runs a starter-stream packet next: quad 0's starter, for the grid of a workgroup on core 0. -/
def State.loadStarter (s : State) (code : List Word32) : State :=
  let t := s.loadCode [filler, filler, filler]
  { t with
    grids := [loadGrid s.ids true]
    quads := kset t.quads 0 { t.quad 0 with
      starter := { Starter.reset with run := some (s.ids, s.ids), code := code, notBefore := s.clk } }
    issuedAt := [(0, s.clk + 1)] }

/-- A state that runs a word next, in the stream that accepts it. -/
def State.loadNext (s : State) (w : Word32) : State :=
  match decodeWord w with
  | .ok i => if starterOnly i then s.loadStarter (loadPacket w) else s.loadCode (loadPacket w)
  | .error _ => s.loadCode (loadPacket w)

end Sys2Proof.Machine
end

