-- ==== Sys2Proof/Machine/Step.lean ====
section
/-! DEFINITION. One step of the machine, and a state whose next step runs a given word. -/

namespace Sys2Proof.Machine

/-- One step: of the agenda, of a park's end, of a core's or a starter's clk, or the next clk (Agenda.lean). -/
def step (s : State) : Host.Outcome State Fault Refusal := s.advance

/-- s with the word w placed so that the very next step issues it (log entry 25). -/
def State.withFetchWord (s : State) (_nbits w : Nat) : State := s.loadNext (BitVec.ofNat 32 w)

end Sys2Proof.Machine
end

