-- ==== Sys2Proof/Safety.lean ====
section
/-! DEFINITION. What claims are stated in: a word being issued, the forms in which scalar, vector and cross-lane words give their
results, the device steps, and the invariants of a run. -/

namespace Sys2Proof.Machine

/-! ### A word being issued -/

/-- A word of workgroup w is being issued: is says which, and w is the workgroup as the word reads it (R36). -/
structure Issues (s : State) (is : Issue) (w : Wg) : Prop where
  cur : s.cur = some is
  who : is.who = .group w.id
  reads : s.reading = some w

/-- A word of quad q's starter is being issued, and k is the starter as the word reads it (R36). -/
structure StarterIssues (s : State) (is : Issue) (q : Nat) (k : Starter) : Prop where
  cur : s.cur = some is
  who : is.who = .starter q
  reads : (match is.baseStarter with | some x => x | none => s.starter q) = k

/-! ### Forms of results -/

/-- s_D := x in each crew that has an active thread, with flags in each active thread (R67, R84, R97). -/
def scalarEffect (is : Issue) (w : Wg) (g : BitVec 3) (wr : Bool) (d : BitVec 5) (x : Dbl) (fl : BitVec 8) : Effect :=
  { s := if wr then [] else (activeCrews is w g).map fun c => (c, d.toNat, x)
    flags := (active is w g).map fun t => (t, fl) }

/-- D := the result of each active thread, which shifts into its latches, with its flags (R32, R38, R97). -/
def vectorEffect (is : Issue) (w : Wg) (g : BitVec 3) (wr : Bool) (d : BitVec 6) (f : Nat → Word32 × BitVec 8) : Effect :=
  { v := if wr then [] else (active is w g).map fun t => (t, d.toNat, (f t).1)
    shift := (active is w g).map fun t => (t, (f t).1)
    flags := (active is w g).map fun t => (t, (f t).2) }

/-- pn := a bit of each active thread, with its flags (R80, R91). -/
def predEffect (is : Issue) (w : Wg) (g : BitVec 3) (wr : Bool) (p : BitVec 3) (f : Nat → Bool × BitVec 8) : Effect :=
  { p := if wr then [] else (active is w g).map fun t => (t, p.toNat, (f t).1)
    flags := (active is w g).map fun t => (t, (f t).2) }

/-- What a scalar word does (R67, R68, R70): f gives the result and the flags from the reading of a source and the old s_D. In a
group it acts once if a thread is active; in a starter if the guard predicate is 1. Otherwise it only goes on. -/
def ScalarGives (i : Instr) (g : BitVec 3) (wr : Bool) (d : BitVec 5) (lat : Nat)
    (f : (BitVec 7 → Dbl) → Dbl → Dbl × BitVec 8) : Prop :=
  (∀ s is w, Issues s is w → active is w g ≠ [] →
    exec i s = .next (s.finish is w (scalarEffect is w g wr d (f (fun x => uniSrc s is w x.toNat) (uniS is w d.toNat)).1
      (f (fun x => uniSrc s is w x.toNat) (uniS is w d.toNat)).2) lat)) ∧
  (∀ s is w, Issues s is w → active is w g = [] → exec i s = .next (s.retire is w.id)) ∧
  (∀ s is q k, StarterIssues s is q k → guardOn k.p g = true →
    exec i s = .next (s.starterFinish is q
      (if wr then [] else [(d.toNat, (f (fun x => starterSrc s is q k x.toNat) (k.s.getD d.toNat 0)).1)]) []
      (f (fun x => starterSrc s is q k x.toNat) (k.s.getD d.toNat 0)).2 lat)) ∧
  (∀ s is q k, StarterIssues s is q k → guardOn k.p g = false → exec i s = .next (s.starterRetire is q))

/-- What a scalar compare does (R80): f gives the bit from the reading of a source. -/
def ScalarCompares (i : Instr) (g : BitVec 3) (wr : Bool) (p : BitVec 3) (f : (BitVec 7 → Dbl) → Bool) : Prop :=
  (∀ s is w, Issues s is w →
    exec i s = .next (s.finish is w
      { p := if wr then [] else (active is w g).map fun t => (t, p.toNat, f fun x => uniSrc s is w x.toNat) } 1)) ∧
  (∀ s is q k, StarterIssues s is q k → guardOn k.p g = true →
    exec i s = .next (s.starterFinish is q []
      (if wr then [] else [(p.toNat, f fun x => starterSrc s is q k x.toNat)]) 0 1)) ∧
  (∀ s is q k, StarterIssues s is q k → guardOn k.p g = false → exec i s = .next (s.starterRetire is q))

/-- What a vector word does (R86, R98, R99): in each active thread f gives the result and the flags from the mode of its crew, the
sources a and b of its lane and its old D; LATCH is raised where a source is a lost latch (R38). -/
def VectorGives (i : Instr) (g : BitVec 3) (wr : Bool) (d : BitVec 6) (a b : BitVec 7) (lat : Nat)
    (f : FpMode → Word32 → Word32 → Word32 → Word32 × BitVec 8) : Prop :=
  ∀ s is w, Issues s is w →
    exec i s = .next (s.finish is w (vectorEffect is w g wr d fun t =>
      ((f (laneMode w t) (laneSrc s is w t a.toNat).1 (laneSrc s is w t b.toNat).1 (laneD w t d.toNat)).1,
        (f (laneMode w t) (laneSrc s is w t a.toNat).1 (laneSrc s is w t b.toNat).1 (laneD w t d.toNat)).2
          ||| flagIf ((laneSrc s is w t a.toNat).2 || (laneSrc s is w t b.toNat).2) flLATCH)) lat)

/-- What a vector word with one source does: as VectorGives, and k.zero (selector 100) stands for the source it has not. -/
def VectorGives1 (i : Instr) (g : BitVec 3) (wr : Bool) (d : BitVec 6) (a : BitVec 7) (lat : Nat)
    (f : FpMode → Word32 → Word32 × BitVec 8) : Prop :=
  VectorGives i g wr d a 100#7 lat fun md x _ _ => f md x

/-- What a vector compare does (R91): the latches do not shift. -/
def VectorCompares (i : Instr) (g : BitVec 3) (wr : Bool) (p : BitVec 3) (a b : BitVec 7)
    (f : FpMode → Word32 → Word32 → Bool × BitVec 8) : Prop :=
  ∀ s is w, Issues s is w →
    exec i s = .next (s.finish is w (predEffect is w g wr p fun t =>
      ((f (laneMode w t) (laneSrc s is w t a.toNat).1 (laneSrc s is w t b.toNat).1).1,
        (f (laneMode w t) (laneSrc s is w t a.toNat).1 (laneSrc s is w t b.toNat).1).2
          ||| flagIf ((laneSrc s is w t a.toNat).2 || (laneSrc s is w t b.toNat).2) flLATCH)) 1)

/-- What a cross-lane word with a result in each active lane does once its members are here (R105, R107): f gives the result and
the flags from the word, the workgroup, the active threads and the thread; LATCH where a per-lane source is a lost latch. -/
def CrossGives (i : Instr) (g : BitVec 3) (wr : Bool) (d : BitVec 6) (srcs : List (BitVec 7)) (lat : Wg → Nat)
    (f : State → Issue → Wg → List Nat → Nat → Word32 × BitVec 8) : Prop :=
  ∀ s is w, Issues s is w → xHere is w = true →
    exec i s = .next (s.finish is w (vectorEffect is w g wr d fun t =>
      ((f s is w (active is w g) t).1,
        srcs.foldl (fun fl a => fl ||| flagIf (laneSrc s is w t a.toNat).2 flLATCH) (f s is w (active is w g) t).2)) (lat w))

/-- What a cross-lane word with one result for the crew does once its members are here (R107, R109, R110). -/
def CrossGivesOne (i : Instr) (g : BitVec 3) (wr : Bool) (d : BitVec 5) (src : BitVec 7)
    (f : State → Issue → Wg → List Nat → Dbl) : Prop :=
  ∀ s is w, Issues s is w → xHere is w = true → active is w g ≠ [] →
    exec i s = .next (s.finish is w
      { s := if wr then [] else [(w.crewOf (is.threads.headD 0), d.toNat, f s is w (active is w g))]
        flags := (active is w g).map fun t => (t, flagIf (laneSrc s is w t src.toNat).2 flLATCH) } 2)

/-- What a word of the starter stream does when its guard is 1: the next state that f gives. -/
def StarterGives (i : Instr) (g : BitVec 3) (cond : State → Issue → Nat → Starter → Prop)
    (f : State → Issue → Nat → Starter → State) : Prop :=
  ∀ s is q k, StarterIssues s is q k → guardOn k.p g = true → cond s is q k → exec i s = .next (f s is q k)

/-- What a word of the vector stream does when a thread is active and a condition on the state and operands holds. -/
def GroupGives (i : Instr) (g : BitVec 3) (cond : State → Issue → Wg → Prop) (f : State → Issue → Wg → State) : Prop :=
  ∀ s is w, Issues s is w → active is w g ≠ [] → cond s is w → exec i s = .next (f s is w)

/-! ### Exact values of f32 words -/

/-- The exact value ± m × 2^e. -/
def ratOf (neg : Bool) (m : Nat) (e : Int) : ℚ := (if neg then -1 else 1) * (m : ℚ) * (2 : ℚ) ^ e

/-- Whether an f32 word is finite (R122). -/
def f32Fin (x : Word32) : Prop := x.extractLsb' 23 8 ≠ 255#8

/-- The exact value of a finite f32 word (R122). -/
def f32Rat (x : Word32) : ℚ := match Ieee.f32.val x.toNat with | .fin n m e => ratOf n m e | _ => 0

/-- r is the greatest finite f32 word at or below t. -/
def F32Below (t : ℚ) (r : Word32) : Prop := f32Fin r ∧ f32Rat r ≤ t ∧ ∀ y, f32Fin y → f32Rat y ≤ t → f32Rat y ≤ f32Rat r

/-- r is the least finite f32 word at or above t. -/
def F32Above (t : ℚ) (r : Word32) : Prop := f32Fin r ∧ t ≤ f32Rat r ∧ ∀ y, f32Fin y → t ≤ f32Rat y → f32Rat r ≤ f32Rat y

/-- r is a finite f32 word nearest to t, and an even one where another is as near. -/
def F32Nearest (t : ℚ) (r : Word32) : Prop := f32Fin r ∧
  ∀ y, f32Fin y → |f32Rat r - t| ≤ |f32Rat y - t| ∧ (|f32Rat y - t| = |f32Rat r - t| → f32Rat y ≠ f32Rat r → r.getLsbD 0 = false)

/-- r is t rounded to f32 by a rounding mode, with the overflows of R94. -/
def F32Rounded (rm : Nat) (t : ℚ) (r : Word32) : Prop :=
  match rm with
  | 0 => if |t| < 2 ^ 128 - 2 ^ 103 then F32Nearest t r else r = f32Inf (decide (t < 0))
  | 1 => if 0 ≤ t then F32Below t r else F32Above t r
  | 2 => if t < -(2 ^ 128 - 2 ^ 104) then r = f32Inf true else F32Below t r
  | _ => if 2 ^ 128 - 2 ^ 104 < t then r = f32Inf false else F32Above t r

/-- Hart h has read packet num, with words ws, of its mapped queue q, and has not started it (R361, R368). -/
structure HartHas (s : State) (h : Nat) (q : Qcb) (num : Nat) (ws : List Dbl) : Prop where
  hart : ∃ x, s.hart? h = some x ∧ x.qcb = some q.pa ∧ x.read = some (num, ws) ∧ x.blocked = none
  queue : s.qcb? q.pa = some q
  mapped : q.st = .mapped

/-! ### Runs -/

/-- A device step: an instruction that has no word, and is no part of one (R103, R283, R284). -/
def isDevice (i : Instr) : Bool :=
  (encode i).isNone && !(match i with | .transmitRegisterWrite .. | .receiveRegisterRead .. | .repctlWrite .. => true | _ => false)

/-- The agenda holds device steps only. -/
def State.AgendaOk (s : State) : Prop := ∀ e ∈ s.agenda, isDevice e.2 = true

/-- Nothing is due before the issue of a clk: no device step, no park that has ended, no bound that has passed. -/
structure Quiet (s : State) : Prop where
  due : s.nextDue = none
  park : s.nextPark = none
  bound : s.nextBound = none

/-- It is a core's turn, and what it issues is one group p that begins, of workgroup w; s1 is s without the runs that have ended
(R37, R255). -/
structure CoreTurn (s s1 : State) (core : Nat) (p : Plan) (served : Option Nat) (w : Wg) : Prop where
  quiet : Quiet s
  turn : s.nextTurn = some (.inl core)
  runs : s1 = { s with runs := s.runs.filter s.runLives }.noteReady core
  plans : s1.plans core = ([p], served)
  who : p.who = .group w.id
  begins : p.packets = 0 ∧ p.again = false
  group : s1.wg? w.id = some w

/-- It is the turn of quad q's starter k, which begins a group; s1 is s without the runs that have ended. -/
structure StarterTurn (s s1 : State) (q : Nat) (k : Starter) : Prop where
  quiet : Quiet s
  turn : s.nextTurn = some (.inr q)
  runs : s1 = { s with runs := s.runs.filter s.runLives }
  ready : s1.starterReady q = true
  begins : s1.runs.find? (fun r => r.who == .starter q) = none
  starter : s1.starter q = k

/-- The word at an address of a stream's code stands for i with a literal, is accepted, and is chained to nothing (R34, R39, R40, R49);
rep has a statement of its own. -/
structure WordAt (code : List Word32) (ok : Instr → Bool) (p : Pc) (i : Instr) (lit : Word32) : Prop where
  word : ∃ x, code[p.word.toNat]? = some x ∧ decodeWord x = .ok i
  accepted : ok i = true
  chain : (shape i).chain = false
  literal : (shape i).literal = true → p.word.toNat % 3 ≠ 2 ∧ code[p.word.toNat + 1]? = some lit
  none : (shape i).literal = false → lit = 0
  noRep : ∀ t sb sa sd n, i ≠ .rep t sb sa sd n

/-- The address behind a word and its literal (R39). -/
def afterWord (p : Pc) (i : Instr) : Pc := p.plus (if (shape i).literal then 2 else 1)

/-- The word i at p of a clk that holds it alone, as it is being issued: identities below older are those of earlier clks' work. -/
def issueAt (who : Issuer) (threads : List Nat) (p : Pc) (i : Instr) (lit : Word32) (older : Nat)
    (base : Option Wg) (starter : Option Starter) : Issue :=
  { who := who, threads := threads, addr := p, first := p, next := afterWord p i, lit := lit, chain := false, older := older,
    base := base, baseStarter := starter, ended := .no }

/-- The majors that R44 leaves unused. -/
def unusedMajors : List (BitVec 7) := [0x00, 0x16, 0x17, 0x36, 0x37, 0x46, 0x47, 0x51, 0x66, 0x67, 0x6F]

/-- The words that only read and write registers, predicates, latches and flags: the scalar and vector arithmetic, the special
functions and the conversions that take nothing from a slot's check. -/
def registerOnly : Instr → Bool
  | .sadd .. | .ssub .. | .smul .. | .smulh .. | .sdiv .. | .sand .. | .sor .. | .sxor .. | .sshl .. | .sshr .. | .ssra .. | .smin ..
  | .smax .. | .ssel .. | .scmp .. | .smov .. | .sclz .. | .spop .. | .sli .. | .slitLo .. | .slitHi .. | .saddr .. | .saddImm ..
  | .scmpImm .. | .vaddI32 .. | .vaddF32 .. | .vsubI32 .. | .vsubF32 .. | .vmulI32 .. | .vmulF32 .. | .vmulhI32 .. | .vmulhN32 ..
  | .vminI32 .. | .vminN32 .. | .vminF32 .. | .vmaxI32 .. | .vmaxN32 .. | .vmaxF32 .. | .vfmaF32 .. | .vmadI32 .. | .vand .. | .vor ..
  | .vxor .. | .vshl .. | .vshr .. | .vsra .. | .vsel .. | .vmov .. | .vabsI32 .. | .vabsF32 .. | .vnegI32 .. | .vnegF32 .. | .vclz ..
  | .vpop .. | .frcp .. | .frsq .. | .fsqrt .. | .fexp2 .. | .flog2 .. | .fsin .. | .fcos .. | .ftanh .. | .vcmpI32 .. | .vcmpN32 ..
  | .vcmpF32 .. | .vclampI32 .. | .vclampF32 .. | .cvtEnc .. | .cvtDec .. | .plpack .. | .plunpack .. | .plane .. | .fmtq .. => true
  | _ => false

/-- The machine goes on: the outcome is a next state. -/
def GoesOn (o : Host.Outcome State Fault Refusal) : Prop := ∃ t, o = .next t

end Sys2Proof.Machine
end

