-- ==== Sys2Proof/Certificates/Slice0/Obligations.lean ====
section
/-! DEFINITION. The statements for the provers, family by family. -/

open Sys2Proof Sys2Proof.Machine

/-! ### Scalar words (04_scalar) -/

/-- R72, the twelve binary instructions beside sdiv, with the latencies of R70: the result of each, in a group and in a starter, and that none
of them sets a flag. Completion: sadd, ssub, smul, smulh, sand, sor, sxor, sshl, sshr, ssra, smin, smax. R73: the quotient truncated towards
zero after 36 clk (R70); division by 0 gives 0 and DIVZ; −2^63 divided by −1 gives −2^63 and no flag. Completion: sdiv. -/
def Obligations.ScalarBinaryResults : Prop :=
  (∀ (c : Bool) (g : BitVec 3) (wr : Bool) (d : BitVec 5) (a b : BitVec 7),
     ScalarGives (.sadd c g wr d a b) g wr d 1 (fun x _ => (x a + x b, 0)) ∧
     ScalarGives (.ssub c g wr d a b) g wr d 1 (fun x _ => (x a - x b, 0)) ∧
     ScalarGives (.smul c g wr d a b) g wr d 4 (fun x _ => (x a * x b, 0)) ∧
     ScalarGives (.smulh c g wr d a b) g wr d 4
       (fun x _ => ((((x a).signExtend 128) * ((x b).signExtend 128)).extractLsb' 64 64, 0)) ∧
     ScalarGives (.sand c g wr d a b) g wr d 1 (fun x _ => (x a &&& x b, 0)) ∧
     ScalarGives (.sor c g wr d a b) g wr d 1 (fun x _ => (x a ||| x b, 0)) ∧
     ScalarGives (.sxor c g wr d a b) g wr d 1 (fun x _ => (x a ^^^ x b, 0)) ∧
     ScalarGives (.sshl c g wr d a b) g wr d 1 (fun x _ => (if (x b).toNat ≥ 64 then 0 else x a <<< (x b).toNat, 0)) ∧
     ScalarGives (.sshr c g wr d a b) g wr d 1 (fun x _ => (if (x b).toNat ≥ 64 then 0 else x a >>> (x b).toNat, 0)) ∧
     ScalarGives (.ssra c g wr d a b) g wr d 1 (fun x _ =>
       (if (x b).toNat ≥ 64 then (if (x a).getLsbD 63 then BitVec.allOnes 64 else 0) else (x a).sshiftRight (x b).toNat, 0)) ∧
     ScalarGives (.smin c g wr d a b) g wr d 1 (fun x _ => (if (x a).toInt ≤ (x b).toInt then x a else x b, 0)) ∧
     ScalarGives (.smax c g wr d a b) g wr d 1 (fun x _ => (if (x b).toInt ≤ (x a).toInt then x a else x b, 0))) ∧
  (∀ (c : Bool) (g : BitVec 3) (wr : Bool) (d : BitVec 5) (a b : BitVec 7),
     ScalarGives (.sdiv c g wr d a b) g wr d 36 (fun x _ =>
       if x b = 0 then (0, 0x20#8)
       else if x a = 0x8000000000000000 ∧ x b = 0xFFFFFFFFFFFFFFFF then (0x8000000000000000, 0)
       else (BitVec.ofInt 64 ((x a).toInt.tdiv (x b).toInt), 0)))

/-- R74: smov gives a, sclz the number of leading zero bits (64 when a = 0), spop the number of one bits. Completion: smov, sclz, spop. R75:
ssel gives a if the old s_D is not 0 and b otherwise; D is read before it is written, and with W = 1 nothing is written. Completion: ssel.
R76 to R79: sli sign-extends IMM14; slit.lo zero-extends the low half of a and slit.hi replaces the high half of the old s_D; sadd with IMM7
adds its sign extension; saddr adds four times the sign extension of the low half of b. Completion: sli, slitLo, slitHi, saddr, saddImm. -/
def Obligations.ScalarUnaryAndImmediates : Prop :=
  (∀ (c : Bool) (g : BitVec 3) (wr : Bool) (d : BitVec 5) (a : BitVec 7),
     ScalarGives (.smov c g wr d a) g wr d 1 (fun x _ => (x a, 0)) ∧
     (∃ f : Dbl → Nat, (f 0 = 64 ∧ ∀ v, v ≠ 0 → f v < 64 ∧ v.getLsbD (63 - f v) = true ∧ ∀ k, 63 - f v < k → v.getLsbD k = false) ∧
       ScalarGives (.sclz c g wr d a) g wr d 1 (fun x _ => (BitVec.ofNat 64 (f (x a)), 0))) ∧
     ScalarGives (.spop c g wr d a) g wr d 1
       (fun x _ => (BitVec.ofNat 64 ((List.range 64).filter fun k => (x a).getLsbD k).length, 0))) ∧
  (∀ (c : Bool) (g : BitVec 3) (wr : Bool) (d : BitVec 5) (a b : BitVec 7),
     ScalarGives (.ssel c g wr d a b) g wr d 1 (fun x old => (if old ≠ 0 then x a else x b, 0))) ∧
  (∀ (c : Bool) (g : BitVec 3) (wr : Bool) (d : BitVec 5) (a b im : BitVec 7) (n : BitVec 14),
     ScalarGives (.sli c g wr d n) g wr d 1 (fun _ _ => (BitVec.ofInt 64 n.toInt, 0)) ∧
     ScalarGives (.slitLo c g wr d a) g wr d 1 (fun x _ => (BitVec.ofNat 64 ((x a).toNat % 2 ^ 32), 0)) ∧
     ScalarGives (.slitHi c g wr d a) g wr d 1
       (fun x old => (BitVec.ofNat 64 ((x a).toNat % 2 ^ 32 * 2 ^ 32 + old.toNat % 2 ^ 32), 0)) ∧
     ScalarGives (.saddImm c g wr d a im) g wr d 1 (fun x _ => (x a + BitVec.ofInt 64 im.toInt, 0)) ∧
     ScalarGives (.saddr c g wr d a b) g wr d 1
       (fun x _ => (x a + BitVec.ofInt 64 (4 * ((x b).truncate 32).toInt), 0)))

/-- R80 and R81: scmp, and scmp with IMM7 sign-extended in place of b (R78), write the bit of the condition to pn of every thread
whose guard is 1, or of the starter; p7 is named by no well-formed word.
Completion: scmp, scmpImm. -/
def Obligations.ScalarCompare : Prop :=
  let cond : BitVec 3 → Dbl → Dbl → Bool := fun k x y =>
    if k = 0 then decide (x = y)
    else if k = 1 then decide (x ≠ y)
    else if k = 2 then decide (x.toInt < y.toInt)
    else if k = 3 then decide (x.toInt ≥ y.toInt)
    else if k = 4 then decide (x.toNat < y.toNat)
    else if k = 5 then decide (x.toNat ≥ y.toNat)
    else if k = 6 then decide (x &&& y ≠ 0)
    else decide (x &&& y = 0)
  ∀ (c : Bool) (g : BitVec 3) (wr : Bool) (k p : BitVec 3) (a b im : BitVec 7),
    ScalarCompares (.scmp c g wr k p a b) g wr p (fun x => cond k (x a) (x b)) ∧
    ScalarCompares (.scmpImm c g wr k p a im) g wr p (fun x => cond k (x a) (BitVec.ofInt 64 im.toInt)) ∧
    ¬ WellFormed (.scmp c g wr k 7 a b) ∧ ¬ WellFormed (.scmpImm c g wr k 7 a im)

/-! ### Vector words (05_vector, 06_crosslane) -/

/-- R88: the integer and bitwise vector words in each active thread, with the latencies of R99; none of them sets a flag of its
own.
Completion: vaddI32, vsubI32, vmulI32, vmulhI32, vmulhN32, vminI32, vminN32, vmaxI32, vmaxN32, vmadI32, vand, vor, vxor, vshl, vshr, vsra, vclampI32. -/
def Obligations.VectorIntegerResults : Prop :=
  ∀ (c : Bool) (g : BitVec 3) (wr : Bool) (d : BitVec 6) (a b : BitVec 7),
    VectorGives (.vaddI32 c g wr d a b) g wr d a b 1 (fun _ x y _ => (x + y, 0)) ∧
    VectorGives (.vsubI32 c g wr d a b) g wr d a b 1 (fun _ x y _ => (x - y, 0)) ∧
    VectorGives (.vmulI32 c g wr d a b) g wr d a b 3 (fun _ x y _ => (x * y, 0)) ∧
    VectorGives (.vmulhI32 c g wr d a b) g wr d a b 3
      (fun _ x y _ => ((x.signExtend 64 * y.signExtend 64).extractLsb' 32 32, 0)) ∧
    VectorGives (.vmulhN32 c g wr d a b) g wr d a b 3
      (fun _ x y _ => ((x.zeroExtend 64 * y.zeroExtend 64).extractLsb' 32 32, 0)) ∧
    VectorGives (.vmadI32 c g wr d a b) g wr d a b 3 (fun _ x y old => (x * y + old, 0)) ∧
    VectorGives (.vminI32 c g wr d a b) g wr d a b 1 (fun _ x y _ => (if x.toInt ≤ y.toInt then x else y, 0)) ∧
    VectorGives (.vmaxI32 c g wr d a b) g wr d a b 1 (fun _ x y _ => (if y.toInt ≤ x.toInt then x else y, 0)) ∧
    VectorGives (.vminN32 c g wr d a b) g wr d a b 1 (fun _ x y _ => (if x.toNat ≤ y.toNat then x else y, 0)) ∧
    VectorGives (.vmaxN32 c g wr d a b) g wr d a b 1 (fun _ x y _ => (if y.toNat ≤ x.toNat then x else y, 0)) ∧
    VectorGives (.vand c g wr d a b) g wr d a b 1 (fun _ x y _ => (x &&& y, 0)) ∧
    VectorGives (.vor c g wr d a b) g wr d a b 1 (fun _ x y _ => (x ||| y, 0)) ∧
    VectorGives (.vxor c g wr d a b) g wr d a b 1 (fun _ x y _ => (x ^^^ y, 0)) ∧
    VectorGives (.vshl c g wr d a b) g wr d a b 1 (fun _ x y _ => (if y.toNat ≥ 32 then 0 else x <<< y.toNat, 0)) ∧
    VectorGives (.vshr c g wr d a b) g wr d a b 1 (fun _ x y _ => (if y.toNat ≥ 32 then 0 else x >>> y.toNat, 0)) ∧
    VectorGives (.vsra c g wr d a b) g wr d a b 1 (fun _ x y _ =>
      (if y.toNat ≥ 32 then (if x.getLsbD 31 then BitVec.allOnes 32 else 0) else x.sshiftRight y.toNat, 0)) ∧
    VectorGives (.vclampI32 c g wr d a b) g wr d a b 1 (fun _ x y old =>
      let m := if old.toInt < x.toInt then x else old
      (if y.toInt < m.toInt then y else m, 0))

/-- R89: the unary vector words; the absolute value and the negative of −2^31 are 0x7FFF_FFFF with SAT. Completion: vmov, vabsI32, vabsF32,
vnegI32, vnegF32, vclz, vpop. R90: vsel gives every thread of the issue group a where predicate n is 1 and b otherwise; no thread is guarded
off by it; the word with n = 7 takes ILLOP (it is no well-formed instruction). Completion: vsel. -/
def Obligations.VectorUnaryAndSelect : Prop :=
  (∀ (c : Bool) (g : BitVec 3) (wr : Bool) (d : BitVec 6) (a : BitVec 7),
     VectorGives1 (.vmov c g wr d a) g wr d a 1 (fun _ x => (x, 0)) ∧
     VectorGives1 (.vabsI32 c g wr d a) g wr d a 1
       (fun _ x => if x = 0x80000000 then (0x7FFFFFFF, 0x10) else (if x.toInt < 0 then -x else x, 0)) ∧
     VectorGives1 (.vabsF32 c g wr d a) g wr d a 1 (fun _ x => (x &&& 0x7FFFFFFF, 0)) ∧
     VectorGives1 (.vnegI32 c g wr d a) g wr d a 1 (fun _ x => if x = 0x80000000 then (0x7FFFFFFF, 0x10) else (-x, 0)) ∧
     VectorGives1 (.vnegF32 c g wr d a) g wr d a 1 (fun _ x => (x ^^^ 0x80000000, 0)) ∧
     (∃ f : Word32 → Nat, (f 0 = 32 ∧ ∀ v, v ≠ 0 → f v < 32 ∧ v.getLsbD (31 - f v) = true ∧ ∀ k, 31 - f v < k → v.getLsbD k = false) ∧
       VectorGives1 (.vclz c g wr d a) g wr d a 1 (fun _ x => (BitVec.ofNat 32 (f x), 0))) ∧
     VectorGives1 (.vpop c g wr d a) g wr d a 1
       (fun _ x => (BitVec.ofNat 32 ((List.range 32).filter fun k => x.getLsbD k).length, 0))) ∧
  ((∀ (c : Bool) (g : BitVec 3) (wr : Bool) (d : BitVec 6) (a b : BitVec 7) (s : State) (is : Issue) (w : Wg), Issues s is w →
     let lane := fun t =>
       ((if (match w.thread? t with | some k => k.p.getLsbD g.toNat | none => false) then (laneSrc s is w t a.toNat).1
         else (laneSrc s is w t b.toNat).1),
         flagIf ((laneSrc s is w t a.toNat).2 || (laneSrc s is w t b.toNat).2) flLATCH)
     exec (.vsel c g wr d a b) s = .next (s.finish is w
       { v := if wr then [] else is.threads.map fun t => (t, d.toNat, (lane t).1)
         shift := is.threads.map fun t => (t, (lane t).1)
         flags := is.threads.map fun t => (t, (lane t).2) } 1)) ∧
   (∀ (c wr : Bool) (d : BitVec 6) (a b : BitVec 7), ¬ WellFormed (.vsel c 7 wr d a b)))

/-- R93 to R96 on the f32 words: each gives the model's rounded value under its crew's FPCTL with its flags, after the latencies of R99;
vsub.f32 adds the operand with its sign inverted. Completion: vaddF32, vsubF32, vmulF32, vminF32, vmaxF32, vfmaF32, vclampF32. R117 and
R120: the special functions in each active thread, by their numbers, after their latencies. The value is the model's specialValue, which
keeps a free choice within the spec's bound (log entry 10). Completion: frcp, frsq, fsqrt, fexp2, flog2, fsin, fcos, ftanh. -/
def Obligations.VectorFloatResults : Prop :=
  (∀ (c : Bool) (g : BitVec 3) (wr : Bool) (d : BitVec 6) (a b : BitVec 7),
     VectorGives (.vaddF32 c g wr d a b) g wr d a b 4 (fun md x y _ => f32Add md x y) ∧
     VectorGives (.vsubF32 c g wr d a b) g wr d a b 4 (fun md x y _ => f32Add md x (y ^^^ 0x80000000)) ∧
     VectorGives (.vmulF32 c g wr d a b) g wr d a b 4 (fun md x y _ => f32Mul md x y) ∧
     VectorGives (.vfmaF32 c g wr d a b) g wr d a b 4 (fun md x y old => f32Fma md x y old) ∧
     VectorGives (.vminF32 c g wr d a b) g wr d a b 2 (fun md x y _ => f32MinMax false md.daz x y) ∧
     VectorGives (.vmaxF32 c g wr d a b) g wr d a b 2 (fun md x y _ => f32MinMax true md.daz x y) ∧
     VectorGives (.vclampF32 c g wr d a b) g wr d a b 2 (fun md x y old =>
       ((f32MinMax false md.daz (f32MinMax true md.daz old x).1 y).1,
         (f32MinMax true md.daz old x).2 ||| (f32MinMax false md.daz (f32MinMax true md.daz old x).1 y).2))) ∧
  (∀ (c : Bool) (g : BitVec 3) (wr : Bool) (d : BitVec 6) (a : BitVec 7),
     VectorGives1 (.frcp c g wr d a) g wr d a 8 (fun md x => specialValue 8 md x) ∧
     VectorGives1 (.frsq c g wr d a) g wr d a 8 (fun md x => specialValue 9 md x) ∧
     VectorGives1 (.fsqrt c g wr d a) g wr d a 12 (fun md x => specialValue 10 md x) ∧
     VectorGives1 (.fexp2 c g wr d a) g wr d a 8 (fun md x => specialValue 11 md x) ∧
     VectorGives1 (.flog2 c g wr d a) g wr d a 8 (fun md x => specialValue 12 md x) ∧
     VectorGives1 (.fsin c g wr d a) g wr d a 12 (fun md x => specialValue 13 md x) ∧
     VectorGives1 (.fcos c g wr d a) g wr d a 12 (fun md x => specialValue 14 md x) ∧
     VectorGives1 (.ftanh c g wr d a) g wr d a 12 (fun md x => specialValue 15 md x))

/-- R93 to R96, the invalid and NaN cases of an f32 sum, product and fused product, whatever the rounding mode: a signalling NaN among
the operands gives the canonical NaN 0x7FC0_0000 with NV; so does 0 × ∞, in the fused product whatever the third operand is, and so do
infinities of opposite signs in a sum, and in a fused product whose product is infinite; a quiet NaN in any other case gives it without a
flag. Infinities of one sign add to that infinity. -/
def Obligations.FloatSpecialCases : Prop :=
  let snan := fun (md : FpMode) (x : Word32) => (f32Val md x).isSnan = true
  let nan := fun (md : FpMode) (x : Word32) => (f32Val md x).isNan = true
  let zeroInf := fun (md : FpMode) (x y : Word32) => ∃ (n m : Bool) (e : Int),
    (f32Val md x = .fin n 0 e ∧ f32Val md y = .inf m) ∨ (f32Val md x = .inf m ∧ f32Val md y = .fin n 0 e)
  let infProduct := fun (md : FpMode) (x y : Word32) (n : Bool) => ∃ (i j : Bool), (i != j) = n ∧ ¬ zeroInf md x y ∧
    ¬ nan md x ∧ ¬ nan md y ∧ (f32Val md x = .inf i ∨ f32Val md y = .inf j) ∧ x.getLsbD 31 = i ∧ y.getLsbD 31 = j
  ∀ (md : FpMode) (x y z : Word32),
    ((snan md x ∨ snan md y) → f32Add md x y = (0x7FC00000, 1) ∧ f32Mul md x y = (0x7FC00000, 1)) ∧
    ((snan md x ∨ snan md y ∨ snan md z) → f32Fma md x y z = (0x7FC00000, 1)) ∧
    (¬ snan md x → ¬ snan md y → (nan md x ∨ nan md y) → f32Add md x y = (0x7FC00000, 0) ∧ f32Mul md x y = (0x7FC00000, 0)) ∧
    (¬ snan md x → ¬ snan md y → ¬ snan md z → ¬ zeroInf md x y → (nan md x ∨ nan md y ∨ nan md z) →
      f32Fma md x y z = (0x7FC00000, 0)) ∧
    (zeroInf md x y → f32Mul md x y = (0x7FC00000, 1) ∧ f32Fma md x y z = (0x7FC00000, 1)) ∧
    (∀ n, f32Val md x = .inf n → f32Val md y = .inf (!n) → f32Add md x y = (0x7FC00000, 1)) ∧
    (∀ n, f32Val md x = .inf n → f32Val md y = .inf n → f32Add md x y = (if n then 0xFF800000 else 0x7F800000, 0)) ∧
    (∀ n, infProduct md x y n → f32Val md z = .inf (!n) → f32Fma md x y z = (0x7FC00000, 1))

/-- R93, R94 and R96: a sum, a product and a fused product of finite values are the exact value rounded once: the value that the rounding mode
selects among the finite f32 words, or the infinity or the largest value of R94 beyond them, with its sign, NX where the result is not
exact, and under FTZ a zero with UF and NX for what lies below the normal range. An exact zero sum has the common sign of its operands, and
else is negative under RM 2 only. -/
def Obligations.FloatRounding : Prop :=
  (∀ (md : FpMode) (neg : Bool) (m : Nat) (e : Int), md.rm < 4 → md.ftz = false →
    let r := f32Round md neg m 1 e
    F32Rounded md.rm (ratOf neg m e) r.1 ∧ r.1.getLsbD 31 = neg ∧ (r.2.getLsbD 3 = true ↔ ¬ (f32Fin r.1 ∧ f32Rat r.1 = ratOf neg m e))) ∧
  (∀ (md : FpMode) (neg : Bool) (m : Nat) (e : Int), md.ftz = true →
    ((2 : ℚ) ^ (-126 : Int) ≤ ratOf false m e → f32Round md neg m 1 e = f32Round { md with ftz := false } neg m 1 e) ∧
    (0 < m → ratOf false m e ≤ (2 : ℚ) ^ (-126 : Int) - (2 : ℚ) ^ (-150 : Int) →
      f32Round md neg m 1 e = (if neg then 0x80000000 else 0, 0xC))) ∧
  (∀ (md : FpMode) (x y z : Word32) (n n' n2 : Bool) (m m' m2 : Nat) (e e' e2 : Int),
    f32Val md x = .fin n m e → f32Val md y = .fin n' m' e' → f32Val md z = .fin n2 m2 e2 →
    (∃ k j i, f32Add md x y = f32Round md k j 1 i ∧ ratOf k j i = ratOf n m e + ratOf n' m' e' ∧
      (j = 0 → k = if n = n' then n else decide (md.rm = 2))) ∧
    (∃ j i, f32Mul md x y = f32Round md (n != n') j 1 i ∧ ratOf (n != n') j i = ratOf n m e * ratOf n' m' e') ∧
    (∃ k j i, f32Fma md x y z = f32Round md k j 1 i ∧ ratOf k j i = ratOf n m e * ratOf n' m' e' + ratOf n2 m2 e2 ∧
      (j = 0 → k = if (n != n') = n2 then n2 else decide (md.rm = 2))))

/-- R91, the integer compares: the bit of the condition, signed for i32 and unsigned for n32, in pn of each active thread; no result and no
shift of the latches. Completion: vcmpI32, vcmpN32. R91, vcmp.f32: the ordered conditions are 0 and ne and uno are 1 where an operand is a
NaN; NV where one is signalling, and under lt, ge, le and gt where one is a NaN at all; −0 equals +0. DAZ is applied to both operands first
(R96). Completion: vcmpF32. -/
def Obligations.VectorCompare : Prop :=
  (let cond : (Word32 → Int) → BitVec 3 → Word32 → Word32 → Bool := fun v k x y =>
     if k = 0 then decide (x = y)
     else if k = 1 then decide (x ≠ y)
     else if k = 2 then decide (v x < v y)
     else if k = 3 then decide (v x ≥ v y)
     else if k = 4 then decide (v x ≤ v y)
     else if k = 5 then decide (v x > v y)
     else if k = 6 then decide (x &&& y ≠ 0)
     else decide (x &&& y = 0)
   ∀ (c : Bool) (g : BitVec 3) (wr : Bool) (k p : BitVec 3) (a b : BitVec 7),
     VectorCompares (.vcmpI32 c g wr k p a b) g wr p a b (fun _ x y => (cond (fun v => v.toInt) k x y, 0)) ∧
     VectorCompares (.vcmpN32 c g wr k p a b) g wr p a b (fun _ x y => (cond (fun v => (v.toNat : Int)) k x y, 0))) ∧
  (let cond : BitVec 3 → Bool → Word32 → Word32 → Bool := fun k uno x y =>
     if k = 0 then !uno && decide (f32Cmp x = f32Cmp y)
     else if k = 1 then uno || decide (f32Cmp x ≠ f32Cmp y)
     else if k = 2 then !uno && decide (f32Cmp x < f32Cmp y)
     else if k = 3 then !uno && decide (f32Cmp x ≥ f32Cmp y)
     else if k = 4 then !uno && decide (f32Cmp x ≤ f32Cmp y)
     else if k = 5 then !uno && decide (f32Cmp x > f32Cmp y)
     else if k = 6 then !uno
     else uno
   f32Cmp 0x80000000 = f32Cmp 0 ∧
   ∀ (c : Bool) (g : BitVec 3) (wr : Bool) (k p : BitVec 3) (a b : BitVec 7),
     VectorCompares (.vcmpF32 c g wr k p a b) g wr p a b (fun md x y =>
       let x := dazWord md.daz x
       let y := dazWord md.daz y
       let uno := f32IsNan x || f32IsNan y
       (cond k uno x y,
         if f32IsSnan x || f32IsSnan y || (uno && decide (k = 2 ∨ k = 3 ∨ k = 4 ∨ k = 5)) then 1 else 0)))

/-- R118 and R119, what the special functions give without a choice: the table of the special inputs, the saturations of 2^x, and the exact
cases, whatever the mode: the reciprocal of ±2^k where it is normal, 1/√ of 4^k, 2^x of the integers from −126 to 127, and the logarithm of
2^k. -/
def Obligations.SpecialInputs : Prop :=
  ∀ (md : FpMode) (x : Word32),
    let all := (List.range 8).map fun k => specialValue (8 + k) md x
    let nan : Word32 × BitVec 8 := (0x7FC00000, 1)
    (∀ s, f32Val md x = .nan s → all = List.replicate 8 (0x7FC00000, if s then 1 else 0)) ∧
    (f32Val md x = .inf true → all = [(0x80000000, 0), nan, nan, (0, 0), nan, nan, nan, (0xBF800000, 0)]) ∧
    (∀ m e, f32Val md x = .fin true m e → m ≠ 0 → specialValue 9 md x = nan ∧ specialValue 10 md x = nan ∧ specialValue 12 md x = nan) ∧
    (∀ e, f32Val md x = .fin true 0 e → all = [(0xFF800000, 0), (0xFF800000, 0), (0x80000000, 0), (0x3F800000, 0), (0xFF800000, 0),
      (0x80000000, 0), (0x3F800000, 0), (0x80000000, 0)]) ∧
    (∀ e, f32Val md x = .fin false 0 e → all = [(0x7F800000, 0), (0x7F800000, 0), (0, 0), (0x3F800000, 0), (0xFF800000, 0),
      (0, 0), (0x3F800000, 0), (0, 0)]) ∧
    (f32Val md x = .inf false → all = [(0, 0), (0, 0), (0x7F800000, 0), (0x7F800000, 0), (0x7F800000, 0), nan, nan, (0x3F800000, 0)]) ∧
    (∀ n m e, f32Val md x = .fin n m e →
      (128 ≤ ratOf n m e → specialValue 11 md x = (0x7F800000, 0)) ∧ (ratOf n m e < -150 → specialValue 11 md x = (0, 0)) ∧
      (∀ k : Int, -127 ≤ k → k ≤ 126 → ratOf false m e = (2 : ℚ) ^ k →
        (specialValue 8 md x).2 = 0 ∧ f32Rat (specialValue 8 md x).1 = (if n then -1 else 1) * (2 : ℚ) ^ (-k)) ∧
      (∀ k : Int, ratOf n m e = (4 : ℚ) ^ k → (specialValue 9 md x).2 = 0 ∧ f32Rat (specialValue 9 md x).1 = (2 : ℚ) ^ (-k)) ∧
      (∀ k : Int, -126 ≤ k → k ≤ 127 → ratOf n m e = (k : ℚ) →
        (specialValue 11 md x).2 = 0 ∧ f32Rat (specialValue 11 md x).1 = (2 : ℚ) ^ k) ∧
      (∀ k : Int, ratOf n m e = (2 : ℚ) ^ k → (specialValue 12 md x).2 = 0 ∧ f32Rat (specialValue 12 md x).1 = (k : ℚ)))

/-- R118, how near the special functions come, with subnormals kept. fsqrt of a positive value is the correctly rounded root, told by the
squares of the words beside it, with NX where its square is not the value. A finite reciprocal lies within 1 ulp of 1/x and a reciprocal root
within 2 ulp of 1/√x, told by squares. The other five, like these two, give their exact case or the word nearest to the model's reference
value, or a word within the rule's bound of that value: the reference is the model's own (log 10). -/
def Obligations.SpecialBounds : Prop :=
  ∀ (md : FpMode) (x : Word32) (n : Bool) (m : Nat) (e : Int), md.rm < 4 → md.ftz = false → f32Val md x = .fin n m e → m ≠ 0 →
    let v := ratOf n m e
    let root := specialValue 10 md x
    let r := f32Rat root.1
    (n = false → f32Fin root.1 ∧ 0 < r ∧ (root.2.getLsbD 3 = true ↔ r ^ 2 ≠ v) ∧
      (md.rm = 0 → ∀ y, f32Fin y → 0 ≤ f32Rat y → (r < f32Rat y → 4 * v ≤ (r + f32Rat y) ^ 2) ∧
        (f32Rat y < r → (r + f32Rat y) ^ 2 ≤ 4 * v)) ∧
      (md.rm = 1 ∨ md.rm = 2 → r ^ 2 ≤ v ∧ ∀ y, f32Fin y → 0 ≤ f32Rat y → f32Rat y ^ 2 ≤ v → f32Rat y ≤ r) ∧
      (md.rm = 3 → v ≤ r ^ 2 ∧ ∀ y, f32Fin y → 0 ≤ f32Rat y → v ≤ f32Rat y ^ 2 → r ≤ f32Rat y)) ∧
    (f32Fin (specialValue 8 md x).1 → ∀ k : Int, -149 ≤ k → |1 / v| < (2 : ℚ) ^ (k + 24) →
      |f32Rat (specialValue 8 md x).1 - 1 / v| ≤ (2 : ℚ) ^ k) ∧
    (n = false → ∀ k : Int, v * ((2 : ℚ) ^ (k + 23)) ^ 2 ≤ 1 → 1 < v * ((2 : ℚ) ^ (k + 24)) ^ 2 →
      let y := f32Rat (specialValue 9 md x).1
      1 ≤ v * (y + 2 * (2 : ℚ) ^ k) ^ 2 ∧ v * (y - 2 * (2 : ℚ) ^ k) ^ 2 ≤ 1) ∧
    ∀ f ∈ [8, 9, 11, 12, 13, 14, 15], (f = 9 ∨ f = 12 → n = false) → (f = 11 → -150 ≤ v ∧ v < 128) →
      let ref := specialRef f n m e
      let y := (specialValue f md x).1
      y = (f32Round plainMode ref.1 ref.2.1 1 ref.2.2).1 ∨
        specialWithin f y ref.1 ref.2.1 ref.2.2 (decide ((1 / 2 : ℚ) ≤ v ∧ v ≤ 2)) = true

/-- R109 to R111: the cross-lane moves and votes once the members are here. xshuf reads lane b mod the width, xrot the lane b places on, xbcast
lane b; xfirst joins b and a of the lowest active lane; xvote gives the ballot, any, all or whether all are equal; xcount counts the active
lanes below with a and b meeting. A register that a result of more clk reaches in this clk gives another lane what it held before. A lost
latch as a per-lane source raises LATCH in each active lane that reads one; that a lost B of xfirst does so in every active lane is the
model's choice (log entry 73). Completion: xshuf, xrot, xbcast, xfirst, xvote, xcount. R112 to R116: xreduce gives each active lane the
pairwise tree over the active lanes, and xscan the tree over those up to the lane (below it when exclusive), or the operation's identity
when there is none. Completion: xreduce, xscan. R105: a cross-lane word whose issue group is not exactly the members parks its threads at it
and checks the crew for XMEMBER (R106), its threads being those that have just parked. -/
def Obligations.CrossLaneResults : Prop :=
  (∀ (c : Bool) (g : BitVec 3) (wr : Bool) (d : BitVec 6) (e : BitVec 5) (a b : BitVec 7),
     let srcAt := fun (s : State) (is : Issue) (w : Wg) (l : Nat) =>
       let t := w.crewOf (is.threads.headD 0) * w.width + l % w.width
       match (w.written.flatMap fun p => p.v).reverse.find? fun x => x.1 = t && x.2.1 = a.toNat with
       | some x => x.2.2
       | none => (laneSrc s is w t a.toNat).1
     let va := fun (s : State) (is : Issue) (w : Wg) (t : Nat) => (laneSrc s is w t a.toNat).1
     let vb := fun (s : State) (is : Issue) (w : Wg) (t : Nat) => (laneSrc s is w t b.toNat).1
     let one := fun (s : State) (is : Issue) (w : Wg) => (uniSrc s is w b.toNat).toNat % 2 ^ 32
     CrossGives (.xshuf c g wr d a b) g wr d [b] (fun _ => 2) (fun s is w _ t => (srcAt s is w (vb s is w t).toNat, 0)) ∧
     CrossGives (.xrot c g wr d a b) g wr d [] (fun _ => 2)
       (fun s is w _ t => (srcAt s is w (w.laneOf t + one s is w), 0)) ∧
     CrossGives (.xbcast c g wr d a b) g wr d [] (fun _ => 2) (fun s is w _ _ => (srcAt s is w (one s is w), 0)) ∧
     CrossGivesOne (.xfirst c g wr e a b) g wr e b
       (fun s is w act => vb s is w (act.headD 0) ++ va s is w (act.headD 0)) ∧
     CrossGivesOne (.xvote c g wr e a 0) g wr e a
       (fun s is w act => act.foldl (fun m t => setBit m (w.laneOf t) (va s is w t != 0)) 0) ∧
     CrossGivesOne (.xvote c g wr e a 1) g wr e a
       (fun s is w act => if act.any (fun t => va s is w t != 0) then 1 else 0) ∧
     CrossGivesOne (.xvote c g wr e a 2) g wr e a
       (fun s is w act => if act.all (fun t => va s is w t != 0) then 1 else 0) ∧
     CrossGivesOne (.xvote c g wr e a 3) g wr e a
       (fun s is w act => if act.all (fun t => va s is w t == va s is w (act.headD 0)) then 1 else 0) ∧
     CrossGives (.xcount c g wr d a b) g wr d [a, b] (fun _ => 3)
       (fun s is w act t =>
         (BitVec.ofNat 32 (act.filter fun m => decide (m < t ∧ va s is w m &&& vb s is w m ≠ 0)).length, 0))) ∧
  (∀ (c : Bool) (g : BitVec 3) (wr : Bool) (d : BitVec 6) (a : BitVec 7) (x : Bool) (ty : BitVec 2) (op : BitVec 4),
     let lanes := fun (s : State) (is : Issue) (w : Wg) (act : List Nat) (ok : Nat → Bool) (l : Nat) =>
       (act.find? fun m => w.laneOf m = l && ok m).map fun m => (laneSrc s is w m a.toNat).1
     let tree := fun (s : State) (is : Issue) (w : Wg) (act : List Nat) (t : Nat) (ok : Nat → Bool) =>
       treeOver (nodeOp (laneMode w t) op.toNat ty.toNat) (log2w w) w.width (lanes s is w act ok)
     CrossGives (.xreduce c g wr d a ty op) g wr d [a] (reduceLatency op ty) (fun s is w act t =>
       (tree s is w act t fun _ => true).getD (0, 0)) ∧
     CrossGives (.xscan c g wr d a x ty op) g wr d [a] (reduceLatency op ty) (fun s is w act t =>
       (tree s is w act t fun m => if x then decide (m < t) else decide (m ≤ t)).getD (identity op.toNat ty.toNat, 0))) ∧
  (∀ (c : Bool) (g : BitVec 3) (wr : Bool) (d : BitVec 6) (e : BitVec 5) (a b : BitVec 7) (m ty : BitVec 2) (op : BitVec 4) (x : Bool)
     (s : State) (is : Issue) (w : Wg), Issues s is w → xHere is w = false →
     let parked := ((s.parkNote is w.id .members 0).xCheck w.id (w.crewOf (is.threads.headD 0)) (is.threads.map w.laneOf)).ended .parked
     exec (.xshuf c g wr d a b) s = .next parked ∧ exec (.xrot c g wr d a b) s = .next parked ∧
     exec (.xbcast c g wr d a b) s = .next parked ∧ exec (.xfirst c g wr e a b) s = .next parked ∧
     exec (.xvote c g wr e a m) s = .next parked ∧ exec (.xcount c g wr d a b) s = .next parked ∧
     exec (.xreduce c g wr d a ty op) s = .next parked ∧ exec (.xscan c g wr d a x ty op) s = .next parked)

/-- R130 to R140: the conversions and the plane words in each active thread. A cvts word whose slot it accepts converts through the slot; one
whose slot or PART it does not accept takes ILLOP (R136). Completion: cvtEnc, cvtDec, cvtsEnc, cvtsDec. R137 to R140: plpack takes bit 7 − k
of the bytes of eight registers, plunpack rebuilds four elements from planes 0 to p − 1, plane works byte by byte with SAT, and fmtq writes
a word of a format slot in every active lane. Completion: plpack, plunpack, plane, fmtq. -/
def Obligations.ConversionsAndPlanes : Prop :=
  ((∀ (c : Bool) (g : BitVec 3) (wr : Bool) (d : BitVec 6) (a : BitVec 7) (r : BitVec 2) (k : BitVec 4),
     VectorGives1 (.cvtEnc c g wr d a r k) g wr d a 4 (fun md x => cvtEncode md k.toNat r.toNat x) ∧
     VectorGives1 (.cvtDec c g wr d a r k) g wr d a 4
       (fun md x => toF32 md (fieldVal k.toNat (laneField k.toNat r.toNat x)))) ∧
   (∀ (c : Bool) (g : BitVec 3) (wr : Bool) (d : BitVec 6) (a : BitVec 7) (r : BitVec 2) (n : BitVec 3) (s : State) (is : Issue)
     (w : Wg), Issues s is w →
     let sl := wgSlot s w n.toNat
     let conv := fun (f : FpMode → Word32 → Word32 × BitVec 8) => Host.Outcome.next (s.finish is w (vectorEffect is w g wr d fun t =>
       ((f (laneMode w t) (laneSrc s is w t a.toNat).1).1,
         (f (laneMode w t) (laneSrc s is w t a.toNat).1).2 ||| flagIf (laneSrc s is w t a.toNat).2 flLATCH)) 4)
     (cvtsSlotOk sl = true → exec (.cvtsEnc c g wr d a r n) s = conv fun md x => cvtsEncode md sl r.toNat x) ∧
     (cvtsSlotOk sl = true → partOk (slotCode sl) r.toNat = true →
       exec (.cvtsDec c g wr d a r n) s = conv fun md x => cvtsDecode md sl r.toNat x) ∧
     (cvtsSlotOk sl = false → exec (.cvtsEnc c g wr d a r n) s = .next (s.trapHere is w.id is.threads .illop)) ∧
     ((cvtsSlotOk sl = false ∨ partOk (slotCode sl) r.toNat = false) →
       exec (.cvtsDec c g wr d a r n) s = .next (s.trapHere is w.id is.threads .illop)))) ∧
  (∀ (c : Bool) (g : BitVec 3) (wr : Bool) (d : BitVec 6) (a : BitVec 7) (m f : BitVec 2) (p k n : BitVec 3) (s : State) (is : Issue)
     (w : Wg), Issues s is w →
     let reg := fun (t r : Nat) => match w.thread? t with | some x => x.v.getD r 0 | none => 0
     let plain := fun (x : Nat → Word32) (lat : Nat) => Host.Outcome.next (s.finish is w
       { v := if wr then [] else (active is w g).map fun t => (t, d.toNat, x t)
         shift := (active is w g).map fun t => (t, x t) } lat)
     exec (.plpack c g wr d a k) s = plain (fun t => (List.range 32).foldl (fun z i =>
       setBit z i ((reg t (a.toNat + i / 4)).getLsbD (8 * (i % 4) + 7 - k.toNat))) 0) 2 ∧
     exec (.plunpack c g wr d a p k) s = plain (fun t => (List.range 4).foldl (fun z e => (List.range 8).foldl (fun z b =>
       setBit z (8 * e + b)
         ((reg t (a.toNat + (if b ≥ p.toNat + 1 then 0 else p.toNat - b))).getLsbD (4 * k.toNat + e))) z) 0) 2 ∧
     exec (.fmtq c g wr d f n) s = plain (fun _ => (wgSlot s w n.toNat).getD f.toNat 0) 1 ∧
     VectorGives1 (.plane c g wr d a m p) g wr d a 2 (fun _ x =>
       let b := fun i => planeByte m.toNat (p.toNat + 1) (x.extractLsb' (8 * i) 8)
       ((b 3).1 ++ (b 2).1 ++ (b 1).1 ++ (b 0).1, if (b 0).2 || (b 1).2 || (b 2).2 || (b 3).2 then 0x10 else 0)))

/-- R41, R42, R100 to R103: rep fixes the thread set and, while no sequence of the crew is unfinished, loads REPCTL with VALID 1 and
NEXT 0 from its fields, a handler keeping the set of the sequence it has interrupted; a repeat that has issued moves NEXT on, and the
last clears REPCTL, sends the set to the next packet and gives an interrupted sequence its set back; a write of REPCTL keeps its fields, with VALID 0 where NEXT would exceed COUNT.
Completion: rep, repeatIssue, repctlWrite. -/
def Obligations.RepeatControl : Prop :=
  (∀ (t : BitVec 2) (x y z : Bool) (n : BitVec 6) (s : State) (is : Issue) (w : Wg), Issues s is w →
    exec (.rep t x y z n) s = .next (s.modWg w.id fun u => u.modCrew (w.crewOf (is.threads.headD 0)) fun k =>
      { k with
        repctl := if k.repctl.getLsbD 31 then k.repctl
          else 1#1 ++ (0#14 ++ (t ++ (BitVec.ofBool x ++ (BitVec.ofBool y ++ (BitVec.ofBool z ++ (n ++ 0#6))))))
        repThreads := is.threads.map w.laneOf
        repOuter := if k.inHandler && !k.repctl.getLsbD 31 then some k.repThreads else k.repOuter })) ∧
  (∀ (wg crew : Nat) (s : State) (w : Wg) (k : Crew), s.wg? wg = some w → w.crew? crew = some k → k.repThreads.Nodup →
    let next := (k.repctl.extractLsb' 0 6).toNat
    let count := (k.repctl.extractLsb' 6 6).toNat
    ∃ t w', exec (.repeatIssue wg crew) s = .next t ∧ t = { s with wgs := t.wgs } ∧ (∀ id, id ≠ wg → t.wg? id = s.wg? id) ∧
      t.wg? wg = some w' ∧
      (next < count → w'.threads = w.threads ∧ w'.crew? crew = some { k with repctl := k.repctl + 1 }) ∧
      (next ≥ count → w'.crew? crew = some { k with repctl := 0, repThreads := k.repOuter.getD [], repOuter := none } ∧
        ∀ l ∈ k.repThreads, ∀ x, w.thread? (crew * w.width + l) = some x → ∃ y, w'.thread? (crew * w.width + l) = some y ∧
          y.pc = { x.pc with word := BitVec.ofNat 14 (x.pc.word.toNat / 3 * 3 + 3) })) ∧
  (∀ (v : BitVec 64) (s : State) (is : Issue) (w : Wg), Issues s is w →
    exec (.repctlWrite v) s = .next (s.modWg w.id fun u => u.modCrew (w.crewOf (is.threads.headD 0)) fun k =>
      { k with
        repctl :=
          let r := v.truncate 32 &&& 0x8001FFFF#32
          if (r.extractLsb' 6 6).toNat < (r.extractLsb' 0 6).toNat then r &&& 0x7FFFFFFF else r }))

/-! ### Matrix words and the sequencers (08_matrix, 09_drain) -/

/-- R151 and R152. mclaim with no slot named or a bit above 14 set takes ILLOP; when every named slot of every named array is FREE all are
CLAIMED with LINES and no valid word and pn := 1, otherwise nothing but pn := 0 changes. mrelease with a bit above 7 takes ILLOP; otherwise
a FREE or SCRUB slot stays, a CLAIMED or FULL one becomes FREE, at once when it has no readers and later else. Completion: mclaim, mrelease.
R154, R156, R169 and R176: with room in every named queue, mzero, mheat and mheat.off queue their operation on each named array and the
starter goes on; mchk queues a check and stalls the starter on it, and a word that comes back with its checks complete writes pn; with a
queue full all stall. mwait goes on when the named arrays satisfy its mode and stalls otherwise (R160). Completion: mzero, mchk, mheat,
mheatOff, mwait. -/
def Obligations.OperandSlotAndQueueWords : Prop :=
  ((∀ (c : Bool) (g : BitVec 3) (wr : Bool) (p : BitVec 3) (a : BitVec 7) (m : BitVec 4) (s : State) (is : Issue) (q : Nat)
     (k : Starter), StarterIssues s is q k → guardOn k.p g = true →
     let v := (starterSrc s is q k a.toNat).toNat
     let slots := (List.range 8).filter fun n => (v % 256).testBit n
     let cores := ((List.range 4).filter fun i => m.getLsbD i).map (quadCore q)
     let free := cores.all fun x => slots.all fun n => decide (((s.core x).slot n).state = .free)
     ((v % 256 = 0 ∨ v ≥ 2 ^ 15) → exec (.mclaim c g wr p a m) s = .next (s.starterTrapHere is q .illop)) ∧
     (v % 256 ≠ 0 → v < 2 ^ 15 → free = true → exec (.mclaim c g wr p a m) s =
       .next ((cores.foldl (fun (u : State) x => u.modCore x fun y => slots.foldl (fun (z : Core) n =>
         (z.modSlot n fun sl => { sl with state := .claimed, lines := v / 256 + 1 }).clearValid n) y) s).starterFinish is q []
           (if wr then [] else [(p.toNat, true)]) 0 1)) ∧
     (v % 256 ≠ 0 → v < 2 ^ 15 → free = false → exec (.mclaim c g wr p a m) s =
       .next (s.starterFinish is q [] (if wr then [] else [(p.toNat, false)]) 0 1)) ∧
     (v ≥ 256 → exec (.mrelease c g a m) s = .next (s.starterTrapHere is q .illop)) ∧
     (v < 256 → exec (.mrelease c g a m) s =
       .next ((cores.foldl (fun (u : State) x => u.modCore x fun y => slots.foldl (fun (z : Core) n => z.releaseSlot n) y) s).starterRetire
         is q))) ∧
   (∀ (k : Core) (n : Nat),
     (((k.slot n).state = .free ∨ (k.slot n).state = .scrub) → k.releaseSlot n = k) ∧
     (((k.slot n).state = .claimed ∨ (k.slot n).state = .full) → (k.slot n).readers = 0 → k.releaseSlot n = k.freeSlot n) ∧
     (((k.slot n).state = .claimed ∨ (k.slot n).state = .full) → (k.slot n).readers ≠ 0 →
       k.releaseSlot n = k.modSlot n fun x => { x with releasing := true }))) ∧
  (∀ (c : Bool) (g : BitVec 3) (a : BitVec 7) (kind b wr : Bool) (p : BitVec 3) (mode : BitVec 2) (m : BitVec 4) (s : State) (is : Issue)
     (q : Nat) (k : Starter), StarterIssues s is q k → guardOn k.p g = true →
     let cores := ((List.range 4).filter fun i => m.getLsbD i).map (quadCore q)
     let room := cores.all fun x => decide ((s.core x).queue.length < 4)
     let v := (starterSrc s is q k a.toNat).toNat
     let stall := Host.Outcome.next (s.starterPark is q (.arrays m 3 []) none)
     (room = true → exec (.mzero c g kind b m) s = .next ((s.enqueue q k cores fun _ => .zero b kind).starterRetire is q)) ∧
     (room = false → exec (.mzero c g kind b m) s = stall) ∧
     (∀ gr, s.starterGrid k = some gr → gr.hcols ≠ 0 → v < 2 ^ 16 → room = true → exec (.mheat c g a m) s =
       .next ((s.enqueue q k cores fun x => .heat true (v / 2 ^ (4 * coreArray x) % 4) (v / 2 ^ (4 * coreArray x + 2) % 4)).starterRetire
         is q)) ∧
     ((s.starterGrid k = none ∨ v ≥ 2 ^ 16 ∨ ∃ gr, s.starterGrid k = some gr ∧ gr.hcols = 0) → room = true →
       exec (.mheat c g a m) s = .next (s.starterTrapHere is q .illop)) ∧
     (room = false → exec (.mheat c g a m) s = stall ∧ exec (.mheatOff c g m) s = stall ∧
       (k.mark = none → exec (.mchk c g wr p b m) s = stall)) ∧
     (room = true → exec (.mheatOff c g m) s = .next ((s.enqueue q k cores fun _ => .heat false 0 0).starterRetire is q)) ∧
     (k.mark = none → room = true → exec (.mchk c g wr p b m) s = .next ((s.enqueue q k cores fun _ => .check b).starterPark is q
       (.arrays m 0 ((List.range cores.length).map fun i => s.ids + i)) (some (2 * s.ids)))) ∧
     (∀ x, k.mark = some x → exec (.mchk c g wr p b m) s =
       .next (s.starterFinish is q [] (if wr then [] else [(p.toNat, decide (x % 2 = 0))]) 0 1)) ∧
     (let ids := cores.flatMap fun x => (s.core x).queue.map fun o => o.id
      exec (.mwait c g mode m) s = if s.arraysReady q m mode.toNat ids then .next (s.starterRetire is q)
        else .next (s.starterPark is q (.arrays m mode.toNat ids) none)))

/-- R154, R157, R158 and R352: with a queue full an mma or mdrain stalls the starter. With room, an mma that passes its checks marks the
slots it reads and is queued on each named array; one that fails them takes ILLOP; one of a pinned grid that needs more tokens than the
reserve holds is recorded and takes FALSE_START. R170, R171: with room, an mdrain whose descriptor is well formed and whose output and
residual fit the allocation of every array is queued; one that does not fit takes MEMFAULT.
Completion: mma, mdrain. -/
def Obligations.MacroOperationWords : Prop :=
  ∀ (c : Bool) (g x y : BitVec 3) (a : BitVec 7) (st z b clr : Bool) (m : BitVec 4) (s : State) (is : Issue) (q : Nat) (k : Starter),
    StarterIssues s is q k → guardOn k.p g = true →
    let gr := s.starterGrid k
    let cores := ((List.range 4).filter fun i => m.getLsbD i).map (quadCore q)
    let room := cores.all fun x => decide ((s.core x).queue.length < 4)
    let v := starterSrc s is q k a.toNat
    let n := v.toNat
    (room = false → exec (.mma c g y x a st z b m) s = .next (s.starterPark is q (.arrays m 3 []) none) ∧
      exec (.mdrain c g y x a clr b m) s = .next (s.starterPark is q (.arrays m 3 []) none)) ∧
    (room = true → s.mmaOk gr cores x.toNat y.toNat z b v = false →
      exec (.mma c g y x a st z b m) s = .next (s.starterTrapHere is q .illop)) ∧
    (∀ gd, gr = some gd → s.mmaOk gr cores x.toNat y.toNat z b v = true → room = true →
      let need := (cores.filter fun e => decide ((s.core e).token = .none) && (s.core e).queue.isEmpty).length
      let have_ := (s.cores.filter fun e => e.2.pinned = some gd.id && (match e.2.token with | .ballast _ => true | _ => false)).length
      ((gd.pin = 0 ∨ need ≤ have_) → exec (.mma c g y x a st z b m) s =
        .next (((s.mmaTake gr cores x.toNat y.toNat (n % 8) (n / 8 % 8) (n / 64 % 16 + 1) z b).enqueue
          q k cores fun _ => .mma b x.toNat y.toNat (n % 8) (n / 8 % 8) (n / 64 % 16 + 1) z st).starterRetire is q)) ∧
      (gd.pin ≠ 0 → need > have_ → exec (.mma c g y x a st z b m) s =
        .next ((s.recordFalseStart gd.part q need have_).starterTrapHere is q .falseStart))) ∧
    (let so := gridSlot gr x.toNat
     let sr := gridSlot gr y.toNat
     let resen := n.testBit 22
     let out := n % 2 ^ 11
     let res := n / 2 ^ 11 % 2 ^ 11
     let bo := tileBytes (slotCode so)
     let br := if resen then tileBytes (slotCode sr) else 0
     let good := n < 2 ^ 40 ∧ slotCode so ≠ 0 ∧ slotSmode so = 0 ∧ (resen = true → slotCode sr ≠ 0 ∧ slotSmode sr = 0) ∧
       (resen = false → y = 0) ∧ (resen = true → 128 * out ≥ 128 * res + br ∨ 128 * res ≥ 128 * out + bo ∨ (out = res ∧ bo = br))
     let grid := match gr with | some gd => gd.id | none => 0
     (¬ good → room = true → exec (.mdrain c g y x a clr b m) s = .next (s.starterTrapHere is q .illop)) ∧
     (good → s.drainBad q grid out res bo (if resen then some br else none) m = none → room = true → exec (.mdrain c g y x a clr b m) s =
       .next ((s.enqueue q k cores fun e => .drain b (kindAfter gr b.toNat (s.core e).queue ((s.core e).bank b.toNat).int) x.toNat y.toNat
         out res (n / 2 ^ 24 % 2 ^ 16) resen (n.testBit 23) clr 0 0).starterRetire is q)) ∧
     (∀ w arrays, good → room = true → s.drainBad q grid out res bo (if resen then some br else none) m = some (w, arrays) → exec (.mdrain c g y x a clr b m) s =
       .next ((s.modStarter q fun e =>
         { e with mfinfo := mfinfoOf 3 w, mfaddr := BitVec.ofNat 64 (128 * if w then out else res),
                  mflanes := arrays.foldl (fun z i => setBit z i true) 0 }).starterTrapHere is q .memfault)))

/-- R155, R156, R159, R161, R167 and R176: an operation alone in its queue and not started begins when its array is looked at: an mzero for 16
clk, a check for 140, a drain too, whose scale vectors are then loaded (R172), a heat position at once; an mma that holds its token and
whose operands are ready begins its rows after the latency of its format class, and waits while they are not; one without a token asks for
it once; while its quad is being saved (R162) it is looked at again a clk later. From which clk an mma's operands have been ready is kept
first. Completion: macroOperationStart. R156, R172 and R178: the ends of a bank clear, of a drain and of a scrub. A cleared bank holds 0 in
every element and in its checksums, and takes its kind, unless an mma with Z = 1 that has issued behind it has set it (R157); a drain gives
up its scale load and clears its bank when CLR is 1; each leaves its queue; a scrubbed slot's 16 KiB are 0, no word of it is valid and it is
FREE. Completion: mzeroComplete, drainComplete, slotScrubComplete. -/
def Obligations.SequencerSteps : Prop :=
  (∀ (core : Nat) (s : State) (o : MacroOp), (s.core core).queue = [o] → o.entered = true → o.started = none → o.stepsDone = false →
     let held := (s.noteSince core []).modCore core fun k => { k with token := k.token.takeBack }
     let begun := held.modMacro core o.id fun x => { x with started := some s.clk, waiting := false, line := 0 }
     ((∃ b i, o.kind = .zero b i) → exec (.macroOperationStart core) s = .next (begun.post 15 (.mzeroComplete core))) ∧
     ((∃ b, o.kind = .check b) → exec (.macroOperationStart core) s = .next (begun.post 139 (.checkComplete core))) ∧
     (∀ b i x y e f h r d c u v, o.kind = .drain b i x y e f h r d c u v →
       exec (.macroOperationStart core) s = .next ((begun.post 139 (.checkComplete core)).scaleLoad core o b)) ∧
     (∀ en tr tc, o.kind = .heat en tr tc → exec (.macroOperationStart core) s =
       .next ((held.modCore core fun k => { k with mtile := if en then BitVec.ofNat 32 (tr + 4 * tc + 16) else 0 }).popMacro core)) ∧
     (∀ b fa fb oa ob kc z st, o.kind = .mma b fa fb oa ob kc z st →
       ((s.core core).asked = true → exec (.macroOperationStart core) s = .next held) ∧
       ((s.core core).asked = false → s.saving (coreQuad core) = true →
         exec (.macroOperationStart core) s = .next (held.post 1 (.macroOperationStart core))) ∧
       ((s.core core).asked = false → s.saving (coreQuad core) = false → (held.core core).token = .none →
         exec (.macroOperationStart core) s =
           .next ((held.modCore core fun k => { k with asked := true }).post 6 (.tokenRequest core))) ∧
       ((s.core core).asked = false → s.saving (coreQuad core) = false → (held.core core).token ≠ .none →
         exec (.macroOperationStart core) s =
           .next (if held.mmaReady core o (s.core core).nextc then begun.stepIn core (mmaClass (s.grid? o.grid) fa fb).2
             else held.modMacro core o.id fun x => { x with waiting := true })))) ∧
  ((∀ (core : Nat) (s : State) (o : MacroOp) (rest : List MacroOp) (b int : Bool), (s.core core).queue = o :: rest → o.kind = .zero b int →
     exec (.mzeroComplete core) s = .next ((s.modCore core fun k => k.modBank b.toNat fun _ =>
       { acc := [], int := kindIssued (s.grid? o.grid) b.toNat int rest, cr := [], cc := [], nc := 0, exRows := [], exCols := [], fmts := none }).popMacro core)) ∧
   (∀ (core : Nat) (s : State) (o : MacroOp) (rest : List MacroOp) (b int : Bool) (fo fr out res keep : Nat) (resen drop : Bool)
     (key org : Dbl) (clr : Bool), (s.core core).queue = o :: rest →
     o.kind = .drain b int fo fr out res keep resen drop clr key org →
     let u := { s with ops := s.ops.filter fun x => !(x.kind == OpKind.scale && decide (x.a = o.id)) }
     exec (.drainComplete core) s = .next ((if clr then u.modCore core fun k => k.modBank b.toNat fun _ =>
       { Bank.reset with int := kindIssued (s.grid? o.grid) b.toNat false rest } else u).popMacro core)) ∧
   (∀ (g : Option Grid) (b : Nat) (own : Bool) (l : List MacroOp) (o : MacroOp),
     kindIssued g b own [] = own ∧
     (∀ x fa fb oa ob kc st, o.kind = .mma x fa fb oa ob kc true st → x.toNat = b →
       kindIssued g b own (l ++ [o]) = isIntCode (slotCode (gridSlot g fa))) ∧
     ((∀ x fa fb oa ob kc st, o.kind = .mma x fa fb oa ob kc true st → x.toNat ≠ b) →
       kindIssued g b own (l ++ [o]) = kindIssued g b own l)) ∧
   (∀ (core n : Nat) (s : State), ((s.core core).slot n).state = .scrub →
     exec (.slotScrubComplete core n) s = .next (s.modCore core fun k =>
       ({ k with opmem := k.opmem.clear (16384 * n) 16384 }.clearValid n).freeSlot n)) ∧
   (∀ (m : Memory) (a n x : Nat), m.wf = true → (m.clear a n).get x = if a ≤ x ∧ x < a + n then 0 else m.get x))

/-- R158, R159, R161, R162 and R166, the rows of an mma: rows made 70 clk before are written with their flags; when a step is due and chunks
remain, a row of A that is there makes a row step on the bank, and the next row of the chunk follows R/128 clk later by its class; after the
last chunk the operation is done 70 clk later and what follows looks at the array; at a chunk's end a save of the quad holds the array, and
a streamed mma goes on once the B of its next chunk has been present for its load, or waits for it. Its completion recounts READERS and
takes it off the queue. Completion: mmaRowStep, mmaComplete. R167, R169, R172: a check that passes ends its operation, or lets its drain
write its first line in the next clk; a bank that a single correction mends is written back 8 clk later, counted in MCORR and marked for
mchk. R174: a drain that has come past the last output line goes on to its end; one it writes is present from then on; an absent residual
line, or a line of its scale vectors still on its way, makes it wait. Completion: checkComplete, drainLineWrite. -/
def Obligations.MmaRowsAndChecks : Prop :=
  ((∀ (core : Nat) (s : State), (∀ t, (s.core core).stepDue = some t → s.clk < t) →
     exec (.mmaRowStep core) s = .next (s.rowsWritten core)) ∧
   (∀ (core : Nat) (s : State) (o : MacroOp) (b : Bool) (fa fb oa ob kc : Nat) (z stream : Bool) (due : Nat),
     stepping ((s.rowsWritten core).core core).queue = some o → o.kind = .mma b fa fb oa ob kc z stream →
     ((s.rowsWritten core).core core).stepDue = some due → due ≤ s.clk →
     let u := (s.rowsWritten core).modCore core fun k => { k with stepDue := none }
     let k := u.core core
     let g := u.grid? o.grid
     let r := (mmaClass g fa fb).1
     let l := (mmaClass g fa fb).2
     let here := stream = true → (rowLinesA (chunkOf g fa fb oa ob k.nextc) k.nextrow).all k.lineFull = true
     let next := u.stepRow core o.id b fa fb oa ob g z (max 1 (r / 128))
     let stop := next.modMacro core o.id fun x => { x with waiting := true, line := 1 }
     let saved := next.saving (coreQuad core)
     (k.nextc ≥ kc → exec (.mmaRowStep core) s = .next (u.rowsDone core o)) ∧
     (k.nextc < kc → ¬ here → exec (.mmaRowStep core) s = .next (u.modMacro core o.id fun x => { x with waiting := true, line := 0 })) ∧
     (k.nextc < kc → here → k.nextrow < 127 → exec (.mmaRowStep core) s =
       .next (next.stepIn core (((k.nextrow + 1) * r) / 128 - k.nextrow * r / 128))) ∧
     (k.nextc + 1 = kc → here → k.nextrow = 127 → exec (.mmaRowStep core) s = .next (next.stepIn core (r - 1 - 127 * r / 128))) ∧
     (k.nextc + 1 < kc → here → k.nextrow = 127 → saved = true → exec (.mmaRowStep core) s =
       .next (stop.post 1 (.macroOperationStart core))) ∧
     (k.nextc + 1 < kc → stream = false → k.nextrow = 127 → saved = false → exec (.mmaRowStep core) s =
       .next (next.stepIn core (r - 127 * r / 128))) ∧
     (k.nextc + 1 < kc → stream = true → here → k.nextrow = 127 → saved = false → exec (.mmaRowStep core) s =
       .next (match o.since.find? fun x => x.1 = k.nextc + 1 with
         | some x => next.stepIn core (max (r - 127 * r / 128) (x.2 + l + 1 - s.clk))
         | none => if next.mmaReady core o (k.nextc + 1) then next.stepIn core (max (r - 127 * r / 128) (l + 1)) else stop))) ∧
   (∀ (core : Nat) (s : State) (o : MacroOp) (rest : List MacroOp), (s.core core).queue = o :: rest → o.kind.isMma = true →
     o.stepsDone = true → exec (.mmaComplete core) s = .next (((s.opSlots o).foldl (fun (u : State) n =>
       let left := (rest.filter fun p => decide (n ∈ u.opSlots p)).length
       u.modCore core fun k =>
         let k := k.modSlot n fun x => { x with readers := left }
         if left = 0 && (k.slot n).releasing then k.freeSlot n else k) s).popMacro core))) ∧
  ((∀ (core : Nat) (s : State) (o : MacroOp) (rest : List MacroOp) (b : Bool), (s.core core).queue = o :: rest → o.kind = .check b →
     let k := s.core core
     let int := (k.bank b.toNat).int
     (checkBank (k.bank b.toNat) int = .pass → exec (.checkComplete core) s = .next (s.popMacro core)) ∧
     (∀ m, checkBank (k.bank b.toNat) int = .corrected m → o.stepsDone = false → exec (.checkComplete core) s =
       .next ((s.modMacro core o.id fun x => { x with stepsDone := true }).post 8 (.checkComplete core))) ∧
     (∀ m, checkBank (k.bank b.toNat) int = .corrected m → o.stepsDone = true → exec (.checkComplete core) s =
       .next ((((s.modCore core fun k => k.modBank b.toNat fun _ => m).countCorrection core o.part).markCheck core o.id).popMacro core)) ∧
     (checkBank (k.bank b.toNat) int = .bad → exec (.checkComplete core) s = .next (s.checkFailed core o))) ∧
   (∀ (core : Nat) (s : State) (o : MacroOp) (rest : List MacroOp) (b int : Bool) (fo fr out res keep : Nat) (resen drop clr : Bool)
     (key org : Dbl), (s.core core).queue = o :: rest → o.kind = .drain b int fo fr out res keep resen drop clr key org →
     (checkBank ((s.core core).bank b.toNat) int = .pass →
       exec (.checkComplete core) s = .next (s.post 1 (.drainLineWrite core 0))) ∧
     (let fO := gridSlot (s.grid? o.grid) fo
      let fR := gridSlot (s.grid? o.grid) fr
      let base := (s.gridAlloc core o.grid).1
      let bo := tileBytes (slotCode fO)
      let br := if resen then tileBytes (slotCode fR) else 0
      ∀ line,
       let need := if resen && !(decide (out = res) && decide (bo = br)) then
           residualLines (base / 128 + res) (slotCode fR) (slotCode fO) line bo br else []
       let waits := (∃ x, s.ops.find? (fun x => x.kind == .scale && x.a = o.id) = some x ∧ ∃ l ∈ x.lines, l.isOpen = true) ∨
         ∃ l ∈ need, l ∈ (s.core core).absent
       (waits → exec (.drainLineWrite core line) s =
         .next (s.modMacro core o.id fun x => { x with waiting := true, line := line })) ∧
       (¬ waits → 128 * line ≥ bo → exec (.drainLineWrite core line) s = .next (s.drainNext core line (max bo br / 128))) ∧
       (¬ waits → 128 * line < bo → ∃ t, exec (.drainLineWrite core line) s = .next t ∧ t.mem = s.mem ∧ t.wgs = s.wgs ∧
           (base + 128 * out) / 128 + line ∉ (t.core core).absent))))

/-! ### Local memory (10_memory) -/

/-- R179, R185 and R200, the causes of an address: ALIGN (1) comes first and names every lane whose address is no multiple of 4; then
the cause of an address outside the window, or CANON (2) of one that is not canonical, naming every such lane; otherwise there is
none. -/
def Obligations.AddressCauses : Prop :=
  ∀ (lanes : List LaneAcc) (size cause : Nat),
    let named := fun (p : LaneAcc → Bool) => (lanes.filter p).map fun l => (l.thread, l.ea)
    ((∃ l ∈ lanes, l.ea % 4 ≠ 0) → offsetCause lanes size cause = some (1, named fun l => decide (l.ea % 4 ≠ 0)) ∧
      addrCause lanes = some (1, named fun l => decide (l.ea % 4 ≠ 0))) ∧
    ((∀ l ∈ lanes, l.ea % 4 = 0) → (∃ l ∈ lanes, l.ea ≥ size) →
      offsetCause lanes size cause = some (cause, named fun l => decide (l.ea ≥ size))) ∧
    ((∀ l ∈ lanes, l.ea % 4 = 0) → (∃ l ∈ lanes, canonical l.ea = false) →
      addrCause lanes = some (2, named fun l => !canonical l.ea)) ∧
    ((∀ l ∈ lanes, l.ea % 4 = 0 ∧ l.ea < size) → offsetCause lanes size cause = none) ∧
    ((∀ l ∈ lanes, l.ea % 4 = 0 ∧ canonical l.ea = true) → addrCause lanes = none)

/-- R188, R189, R192 and R204: lds and ldw read the word at each active lane's offset a + b modulo 2^32, of the allocation or of operand memory,
into D 6 clk after issue, until when a fence of the group's threads waits for them (R235); a bad offset takes MEMFAULT, and a scratchpad
line that is absent parks the threads until it is present. Completion: lds, ldw. R145, R153, R188 and R192: sts writes old v_d at each
active lane's offset of the allocation, in lane order, and stw at its offset of operand memory, where each word becomes valid; mload writes
a at offset old v_d of slot SLOT, whose words become valid 4 clk later. Bad offsets and slots take MEMFAULT with nothing written.
Completion: sts, stw, mload. -/
def Obligations.LocalLoadsAndStores : Prop :=
  (∀ (c : Bool) (g : BitVec 3) (wr : Bool) (d : BitVec 6) (a b : BitVec 7) (s : State) (is : Issue) (w : Wg), Issues s is w →
     active is w g ≠ [] →
     let lanes := offsetLanes s is w (active is w g) a b d.toNat
     let lost := fun (t : Nat) => flagIf ((laneSrc s is w t a.toNat).2 || (laneSrc s is w t b.toNat).2) flLATCH
     let loaded := fun (m : Memory) (base : Nat) => Host.Outcome.next ((s.finish is w
       { v := if wr then [] else lanes.map fun l => (l.thread, d.toNat, m.word (base + l.ea))
         flags := lanes.map fun l => (l.thread, lost l.thread) } 6).modWg w.id fun x =>
       { x with pend := x.pend.map fun p => if p.id = s.ids then { p with mem := is.threads } else p })
     (∀ k bad, offsetCause lanes w.scratchBytes 3 = some (k, bad) →
       exec (.lds c g wr d a b) s = .next (s.memFault is w g .memfault k false bad)) ∧
     (offsetCause lanes w.scratchBytes 3 = none → s.absentLines w.core w.scratchBase (lanes.map fun l => l.ea) = [] →
       exec (.lds c g wr d a b) s = loaded (s.core w.core).scratch w.scratchBase) ∧
     (offsetCause lanes w.scratchBytes 3 = none → s.absentLines w.core w.scratchBase (lanes.map fun l => l.ea) ≠ [] →
       exec (.lds c g wr d a b) s =
         .next (s.park is w.id (.present (s.absentLines w.core w.scratchBase (lanes.map fun l => l.ea))))) ∧
     (∀ k bad, s.operandCause w lanes false = some (k, bad) →
       exec (.ldw c g wr d a b) s = .next (s.memFault is w g .memfault k false bad)) ∧
     (s.operandCause w lanes false = none → exec (.ldw c g wr d a b) s = loaded (s.core w.core).opmem 0)) ∧
  (∀ (c : Bool) (g : BitVec 3) (d : BitVec 6) (a b : BitVec 7) (n : BitVec 3) (s : State) (is : Issue) (w : Wg), Issues s is w →
     let act := active is w g
     let lanes := offsetLanes s is w act a b d.toNat
     let put := fun (m : Memory) (base : Nat) (l : List LaneAcc) => l.foldl (fun (m : Memory) x => m.setWord (base + x.ea) x.x) m
     let old : Nat → Nat := fun t => match w.thread? t with | some x => (x.reg d.toNat).toNat | none => 0
     let slot := 16384 * n.toNat
     (∀ k bad, offsetCause lanes w.scratchBytes 3 = some (k, bad) →
       exec (.sts c g d a b) s = .next (s.memFault is w g .memfault k true bad)) ∧
     (offsetCause lanes w.scratchBytes 3 = none → exec (.sts c g d a b) s =
       .next (((s.lostLatches is w act [a, b]).modCore w.core fun k => { k with scratch := put k.scratch w.scratchBase lanes }).retire is
         w.id)) ∧
     (∀ k bad, s.operandCause w lanes true = some (k, bad) →
       exec (.stw c g d a b) s = .next (s.memFault is w g .memfault k true bad)) ∧
     (s.operandCause w lanes true = none → exec (.stw c g d a b) s =
       .next ((((s.lostLatches is w act [a, b]).modCore w.core fun k =>
         lanes.foldl (fun (k : Core) l => k.markWord l.ea) { k with opmem := put k.opmem 0 lanes }).poke w.core).retire is w.id)) ∧
     ((∃ t ∈ act, old t % 4 ≠ 0) → exec (.mload c g d a n) s =
       .next (s.memFault is w g .memfault 1 true ((act.filter fun t => decide (old t % 4 ≠ 0)).map fun t => (t, slot + old t)))) ∧
     ((∀ t ∈ act, old t % 4 = 0) → (∃ t ∈ act, old t ≥ 16384) → exec (.mload c g d a n) s =
       .next (s.memFault is w g .memfault 3 true ((act.filter fun t => decide (old t ≥ 16384)).map fun t => (t, slot + old t)))) ∧
     ((∀ t ∈ act, old t % 4 = 0 ∧ old t < 16384) → act ≠ [] → ((s.core w.core).slot n.toNat).state ≠ .claimed →
       exec (.mload c g d a n) s = .next (s.memFault is w g .memfault 6 true (act.map fun t => (t, slot + old t)))) ∧
     ((∀ t ∈ act, old t % 4 = 0 ∧ old t < 16384) → act ≠ [] → ((s.core w.core).slot n.toNat).state = .claimed →
       let l := act.map fun t => laneAcc t (slot + old t) (laneSrc s is w t a.toNat).1 0
       let u := (s.lostLatches is w act [a]).modCore w.core fun k => { k with opmem := put k.opmem 0 l }
       let pw : PendWr := { id := s.ids, v := [], s := [], p := [], flags := [], crews := [], valid := l.map (fun x => x.ea), latch := [],
                             mem := is.threads }
       exec (.mload c g d a n) s = .next ((((u.modWg w.id fun x => { x with pend := x.pend ++ [pw] }).post 4
         (.multiClkResultWrite w.id u.ids)).takeId).retire is w.id)))

/-- R188, R190: pres sets or clears the presence bit of the line that contains each active lane's offset, and a line set and cleared in one clk
ends set; an offset outside the allocation takes MEMFAULT with cause RANGE and no lane changes a bit. Completion: pres. R191: a heat-window
word whose lanes all lie in the own share acts on the own scratchpad; ldx with lanes in other cores' shares sends a request to each owner
and holds the younger words; stx sends its far lanes and goes on. An own line that is absent parks the word. At the owner a store is written
and a load reads its words, and the reply goes back; a load that meets an absent line is told so 20 clk later and sets a wake mark. The
absence notice parks the word's threads at it, the wake notice lets them issue again, also where it is the one that comes first, and the
acknowledgement completes the store. Each answer takes a unit of the owner's bucket (R382). Completion: ldx, stx, heatWindowRequest,
wakeNotice, absenceNotice, stxAcknowledge. -/
def Obligations.PresenceAndHeatWindow : Prop :=
  (∀ (c : Bool) (g : BitVec 3) (v : Bool) (a : BitVec 7) (s : State) (is : Issue) (w : Wg), Issues s is w →
     let act := active is w g
     let off : Nat → Nat := fun t => (laneSrc s is w t a.toNat).1.toNat
     let lines := act.map fun t => (w.scratchBase + off t) / 128
     ((∃ t ∈ act, off t ≥ w.scratchBytes) → exec (.pres c g v a) s = .next (s.memFault is w g .memfault 3 false
       ((act.filter fun t => decide (off t ≥ w.scratchBytes)).map fun t => (t, off t)))) ∧
     ((∀ t ∈ act, off t < w.scratchBytes) → ∃ t, exec (.pres c g v a) s = .next t ∧ t.mem = s.mem ∧
       (t.core w.core).scratch = (s.core w.core).scratch ∧
       let set := (s.core w.core).setNow
       ∀ l, l ∈ (t.core w.core).absent ↔ if v = true then l ∈ (s.core w.core).absent ∧ l ∉ lines
         else l ∈ (s.core w.core).absent ∨ (l ∈ lines ∧ ¬ (set.1 = s.clk ∧ l ∈ set.2)))) ∧
  ((∀ (c : Bool) (g : BitVec 3) (wr : Bool) (d : BitVec 6) (a b : BitVec 7) (s : State) (is : Issue) (w : Wg), Issues s is w →
     active is w g ≠ [] →
     let act := active is w g
     let lanes := offsetLanes s is w act a b d.toNat
     let own := lanes.filterMap fun l => match s.windowPlace w l.ea with
       | some (x, byte) => if x = w.core then some byte else none
       | none => none
     let o : MemOp := { s.windowOp is w .ldx lanes (some d.toNat) (!wr) with
       latch := act.filter fun t => (laneSrc s is w t a.toNat).2 || (laneSrc s is w t b.toNat).2 }
     (∀ k bad, s.windowCause w lanes = some (k, bad) →
       exec (.ldx c g wr d a b) s = .next (s.memFault is w g .memfault k false bad) ∧
       exec (.stx c g d a b) s = .next (s.memFault is w g .memfault k true bad)) ∧
     (s.windowCause w lanes = none → s.absentLines w.core 0 own ≠ [] →
       exec (.ldx c g wr d a b) s = .next (s.park is w.id (.present (s.absentLines w.core 0 own)))) ∧
     (s.windowCause w lanes = none → s.absentLines w.core 0 own = [] → o.lines = [] →
       exec (.ldx c g wr d a b) s = .next (s.localLoad is w wr d.toNat [a, b] (o.lanes.map fun l => (l.thread, l.ret)))) ∧
     (s.windowCause w lanes = none → s.absentLines w.core 0 own = [] → o.lines ≠ [] →
       exec (.ldx c g wr d a b) s = .next (o.lines.foldl (fun (u : State) l => u.sendLine o.id l.line) ((s.addOp o).block is w.id o.id))) ∧
     (s.windowCause w lanes = none →
       let x := s.windowOp is w .stx lanes none false
       let put := (lanes.filterMap fun l => match s.windowPlace w l.ea with
         | some (x, byte) => if x = w.core then some (byte, l.x) else none
         | none => none).foldl (fun (m : Memory) x => m.setWord x.1 x.2) (s.core w.core).scratch
       let u := ((s.lostLatches is w act [a, b]).modCore w.core fun k => { k with scratch := put }).retire is w.id
       exec (.stx c g d a b) s = .next (if x.lines = [] then u else
         x.lines.foldl (fun (u : State) l => u.sendLine x.id l.line) (u.addOp x)))) ∧
   (∀ (op line : Nat) (s : State) (o : MemOp) (l : LineReq), s.line? op line = some (o, l) →
     let owner := l.addr / 262144
     let own := l.addr % 262144 / 128
     let arrived := s.modLine op line fun x => { x with st := .returning, arrived := s.clk }
     (o.kind = .stx → l.arrived = 0 → exec (.heatWindowRequest op line) s = .next ((arrived.modCore owner fun k => { k with
       scratch := (sortBy (fun x => x.thread) (o.lanes.filter fun x => decide (x.pa.map (fun p => p / 128) = some line))).foldl
         (fun (m : Memory) x => m.setWord (x.pa.getD 0 % 262144) x.x) (s.core owner).scratch }).charge owner 1 |>.sendRouter 0 op line true)) ∧
     (o.kind = .stx → l.arrived ≠ 0 → exec (.heatWindowRequest op line) s = .next ((arrived.charge owner 1).sendRouter 0 op line true)) ∧
     (o.kind = .ldx → own ∈ (s.core owner).absent → ∃ t, exec (.heatWindowRequest op line) s = .next t ∧ t.mem = s.mem ∧ t.wgs = s.wgs ∧
       (s.clk + 20, Instr.absenceNotice o.core owner own) ∈ t.agenda ∧ (own, o.core) ∈ (t.core owner).wake) ∧
     (o.kind = .ldx → own ∉ (s.core owner).absent → exec (.heatWindowRequest op line) s = .next ((arrived.modOp op fun x =>
       { x with lanes := x.lanes.map fun y => { y with
           ret := if y.pa.map (fun p => p / 128) = some line then (s.core owner).scratch.word (y.pa.getD 0 % 262144) else y.ret } }).charge
         owner 1 |>.sendRouter 0 op line true))) ∧
   (∀ (core owner line : Nat) (s : State),
     let wake := fun (t : Thread) => if t.wait = .parked (.woken owner line) then { t with wait := .parked (.present []) } else t
     let mine := fun (w : Wg) => if w.core = core then { w with threads := w.threads.map wake } else w
     let note := fun (l : LineReq) => if l.line = owner * 2048 + line ∧ l.st = .absent then { l with st := .noticed } else l
     exec (.wakeNotice core owner line) s = .next { s with
       wgs := s.wgs.map mine
       ops := s.ops.map fun o => if o.core = core ∧ o.kind = .ldx then { o with lines := o.lines.map note } else o }) ∧
   (∀ (core owner line : Nat) (s : State) (o : MemOp),
     s.ops.find? (fun o => o.core = core && o.kind == .ldx && o.lines.any fun l =>
       l.line = owner * 2048 + line && (l.st == .absent || l.st == .noticed) && decide (l.arrived + 20 ≤ s.clk)) = some o →
     let c : PCond := if ∃ l ∈ o.lines, l.line = owner * 2048 + line ∧ l.st = .noticed then .present [] else .woken owner line
     exec (.absenceNotice core owner line) s = .next (((s.dropOp o.id).modWg o.wg (fun w => w.modThreads o.threads fun t =>
       if t.wait = Wait.blocked o.id then { t with pc := o.first, wait := .parked c, since := s.clk } else t)).opEnded core o.wg)) ∧
   (∀ (op line : Nat) (s : State) (o : MemOp) (l : LineReq), s.line? op line = some (o, l) →
     let u := s.modLine op line fun l => { l with st := .done }
     let isOver := o.lines.all fun x => decide (x.line = line ∨ x.st = .done)
     exec (.stxAcknowledge op line) s = .next ((if isOver then u.dropOp op else u).opEnded o.core o.wg)))

/-! ### Generic memory (10_memory, 11_store_log) -/

/-- R67, R185, R186, R187, R199, R200: ld computes the s_A of the lane's own crew plus the sign-extended per-lane source in each active
lane; a bad address takes MEMFAULT; with every line translated by the TLB the load passes, its lines leave and the threads go on, and with a
page unknown they wait for a walk. The reply of the last line of a load that no other has joined writes, in each active lane, the word at its
address, and frees the load; a line that missed the view cache, and that nothing has dropped since, enters it. A prefetch (R196) never faults: it drops its bad lanes and sends a
request for each line, and its replies write no register. Completion: ld, pref, loadReply. -/
def Obligations.GenericLoads : Prop :=
  (∀ (c : Bool) (g : BitVec 3) (wr : Bool) (d : BitVec 6) (a b : BitVec 7) (s : State) (is : Issue) (w : Wg), Issues s is w →
    (active is w g = [] → exec (.ld c g wr d a b) s = .next (s.retire is w.id)) ∧
    (active is w g ≠ [] →
      let act := active is w g
      let old : Nat → Word32 := fun t => match w.thread? t with | some x => x.reg d.toNat | none => 0
      let lanes := act.map fun t =>
        laneAcc t ((uniSrcAt s is w t a.toNat + (laneSrc s is w t b.toNat).1.signExtend 64).toNat) (old t) 0
      let o : MemOp := { newOp s is w .load lanes (some d.toNat) none (!wr) with latch := act.filter fun t => (laneSrc s is w t b.toNat).2 }
      (∀ k bad, addrCause lanes = some (k, bad) →
        exec (.ld c g wr d a b) s = .next (s.memFault is w g .memfault k false bad)) ∧
      (addrCause lanes = none → (∀ l ∈ o.lines, l.pa ≠ none) →
        exec (.ld c g wr d a b) s = .next ((((s.addOp o).retire is w.id).opPassed o).sendLoad o)) ∧
      (addrCause lanes = none → (∃ l ∈ o.lines, l.pa = none) →
        exec (.ld c g wr d a b) s = .next ((((s.addOp o).block is w.id o.id).walkLines o).sendLoad o)))) ∧
  (∀ (op line : Nat) (s : State) (o : MemOp) (l : LineReq), s.line? op line = some (o, l) → o.kind = .load →
    (∀ x ∈ o.lines, x.line ≠ line → x.st = .done) → (∀ x ∈ s.ops, ∀ m ∈ x.lines, m.merged ≠ some (op, line)) →
    let n := l.pa.getD 0 / 128
    let v : ViewLine := { line := n, words := mergeOwn (s.core o.core).log.recs n l.data, used := s.clk }
    let kept := if l.fill && s.cacheable n && isHbm (l.pa.getD 0) then
      s.modCore o.core fun k => { k with view := viewFill k.view v } else s
    let u := kept.modLine op line fun x => { x with st := .done }
    let o2 := { o with lines := mapIf (fun x => x.line = line) (fun x => { x with st := .done }) o.lines }
    exec (.loadReply op line) s = .next (((u.opWriteV o2 (o.lanes.map fun a =>
      match o.lines.find? fun x => x.line = a.ea / 128 with
      | some x => (a.thread, x.data.getD (a.ea % 128 / 4) 0)
      | none => (a.thread, a.ret)) []).unblock o.wg o.id).opEnded o.core o.wg)) ∧
  (∀ (op line : Nat) (s : State) (o : MemOp) (l : LineReq), s.line? op line = some (o, l) → o.kind.isPref = true →
    ∃ t, exec (.loadReply op line) s = .next t ∧ t.mem = s.mem ∧ t.wgs = s.wgs ∧ (o.lines = [l] → t.op? op = none)) ∧
  (∀ (c : Bool) (g : BitVec 3) (n : BitVec 5) (a : BitVec 7) (l : Bool) (s : State) (is : Issue) (w : Wg), Issues s is w →
    let lanes := ((active is w g).map fun t =>
        laneAcc t ((w.sOf t n.toNat + (laneSrc s is w t a.toNat).1.signExtend 64).toNat) 0 0).filter
      fun x => decide (x.ea % 4 = 0) && canonical x.ea
    let s1 := (s.lostLatches is w (active is w g) [a]).retire is w.id
    let o := newOp s is w (.prefetch (!l)) lanes none none false
    (lanes = [] → exec (.pref c g n a l) s = .next s1) ∧
    (lanes ≠ [] → exec (.pref c g n a l) s = .next (o.lines.foldl (fun (u : State) x => u.sendLine o.id x.line) (s1.addOp o))))

/-- R194, R205, R206, R209, R228: st checks every active lane before anything is appended; a bad address, a host-memory, sealed or object
word takes its exception with nothing written. A store with room in the log and its buffer and no older access before it is appended to the
core's log under its node, one record for each granule, and the threads go on; one without room waits with its threads, and after 256 clk
without room takes LOGFULL; one that an older access holds up keeps its room and lets its threads go on. A load of a core reads the value of the newest
live record of the word in the core's directory (R208). Completion: st, logWaitExpiry. -/
def Obligations.GenericStores : Prop :=
  (∀ (c : Bool) (g : BitVec 3) (d : BitVec 6) (a b : BitVec 7) (s : State) (is : Issue) (w : Wg), Issues s is w →
    (active is w g = [] → exec (.st c g d a b) s = .next (s.retire is w.id)) ∧
    (active is w g ≠ [] →
    let act := active is w g
    let old : Nat → Word32 := fun t => match w.thread? t with | some x => x.reg d.toNat | none => 0
    let lanes := act.map fun t =>
      laneAcc t ((uniSrcAt s is w t a.toNat + (laneSrc s is w t b.toNat).1.signExtend 64).toNat) (old t) 0
    let o : MemOp := { newOp s is w .store lanes none none false with latch := act.filter fun t => (laneSrc s is w t b.toNat).2 }
    (∀ k bad, addrCause lanes = some (k, bad) → exec (.st c g d a b) s = .next (s.memFault is w g .memfault k true bad)) ∧
    (addrCause lanes = none → (∀ l ∈ o.lines, l.pa ≠ none) → ∀ t k bad, s.writeCause o.lanes = some (t, k, bad) →
      exec (.st c g d a b) s = .next (s.memFault is w g t k true bad)) ∧
    (addrCause lanes = none → (∀ l ∈ o.lines, l.pa ≠ none) → s.writeCause o.lanes = none →
      exec (.st c g d a b) s = .next (((s.addOp o).retire is w.id).storeGo o)) ∧
    (addrCause lanes = none → (∃ l ∈ o.lines, l.pa = none) →
      exec (.st c g d a b) s = .next (((s.addOp o).block is w.id o.id).walkLines o)))) ∧
  (∀ (s : State) (o : MemOp),
    let recs := storeRecords o.lanes
    let room := o.phase = 2 ∨ s.logRoom o.core o.id recs o.node = true
    let free := s.storeBehind o = false ∧ (s.core o.core).log.tail - (s.core o.core).log.drained + recs.length ≤ 819
    let entries := s.replayUsed o.core + (o.lines.filter fun l => !l.entry).length ≤ 128
    (room → free → s.storeGo o = (((s.opPassed o).appendStore o).dropOp o.id).releaseHeld o.core) ∧
    (¬ room → entries → s.storeGo o =
      (if o.phase = 1 then (s.storeHold o 1).blockThreads o else ((s.storeHold o 1).blockThreads o).post 256 (.logWaitExpiry o.id))) ∧
    (room → ¬ free → entries → s.storeGo o = (s.storeHold o 2).opPassed o)) ∧
  (∀ (s : State) (op : Nat) (o : MemOp), s.op? op = some o → o.kind = .store → o.phase = 1 → o.since + 256 ≤ s.clk →
    exec (.logWaitExpiry op) s = .next (if s.logRoom o.core o.id (storeRecords o.lanes) o.node then s.storeReady o
      else s.opTrap o .logfull (some (15, true, [])))) ∧
  (∀ (l : Log) (recs : List (Nat × BitVec 8 × List Word32)) (node wg clk : Nat),
    (l.append recs node wg clk).tail = l.tail + recs.length ∧ (l.append recs node wg clk).head = l.head ∧
    ∃ new, (l.append recs node wg clk).recs = l.recs ++ new ∧ new.map (fun r => (r.num, r.gran, r.wm, r.words)) =
        (recs.zip (List.range recs.length)).map (fun x => (l.tail + x.2, x.1.1, x.1.2.1, x.1.2.2)) ∧
      ∀ r ∈ new, r.node = node ∧ r.wg = wg ∧ r.live = true ∧ r.committed = false ∧ r.since = clk) ∧
  (∀ (s : State) (core pa : Nat) (before after : List Record) (r : Record) (x : Word32), s.ownRecs core = before ++ r :: after →
    r.live = true → r.wordAt pa = some x → (∀ y ∈ after, y.live = true → y.wordAt pa = none) → s.loadWord core pa = x)

/-- R18, R187, R201, R204, R374 and R404, a line request on its way: a router forwards it or drops it, with a notice 2 or 60 clk later, but none for a prefetch;
a slice that has started fewer than four requests in the clk starts it and one with four makes it wait, as a veteran waits while all eight
reserved entries are in use; of two arrivals of one function the one of the lower core is taken first; an HBM controller serves a request
of a free bank; a hold bound that expires bounces what still waits; each bounce is counted, the fourth at one structure makes the entry a
veteran, and it goes out again after 8, 64 or 96 clk. Completion: routerPacket, sliceRequestArrival, sliceHoldBoundExpiry,
hbmRequestArrival, hbmHoldBoundExpiry, bounceNotice, replayReissue. -/
def Obligations.LineRequestSteps : Prop :=
  ∀ (op line : Nat) (s : State) (o : MemOp) (l : LineReq), s.line? op line = some (o, l) →
    let pa := l.pa.getD 0
    let slice := paSlice pa
    let way := o.travelTime pa
    let near := o.toWindow = true ∨ o.way slice = 20
    (∀ reply, o.kind.isPref = false → exec (.routerPacket op line reply true) s =
      .next ((s.bounce op line (if near ∨ Config.freeChoice s.free = true then 2 else 60) 0).takeFree)) ∧
    (∀ reply, o.kind.isPref = true → exec (.routerPacket op line reply true) s = .next (s.dropLine op line)) ∧
    (exec (.routerPacket op line true false) s =
      .next (s.post (if o.kind = .stx then way else way - 1) (o.kind.replyStep op line))) ∧
    (exec (.routerPacket op line false false) s = .next (s.post way
      (if o.toWindow then .heatWindowRequest op line else .sliceRequestArrival op line))) ∧
    (let busy := ((s.slice slice).startedAt = s.clk ∧ 4 ≤ (s.slice slice).startedN) ∨
       (4 ≤ l.bSlice ∧ s.noReserved (s.slice slice).arb = true)
     (busy → (l.st = .travelling ∨ l.st = .queued) → ∃ t, exec (.sliceRequestArrival op line) s = .next t ∧ t.mem = s.mem ∧
       (op, line) ∈ (t.slice slice).queue ∧ (s.clk + 1, Instr.sliceRequestArrival op line) ∈ t.agenda) ∧
     (¬ busy → (l.st = .travelling ∨ l.st = .queued) → o.kind ≠ .ring → o.kind ≠ .patrol → (∀ b, o.kind ≠ .host b) → ∃ t, exec (.sliceRequestArrival op line) s = .next t ∧ t.mem = s.mem ∧
       (op, line) ∉ (t.slice slice).queue ∧ (t.slice slice).startedAt = s.clk)) ∧
    (l.st = .queued → l.arrived + 256 ≤ s.clk → o.kind.isPref = false → exec (.sliceHoldBoundExpiry op line) s =
      .next ((s.modSlice slice fun x => { x with queue := x.queue.filter fun q => q ≠ (op, line) }).bounce op line
        (o.way slice) 1)) ∧
    (∀ (op' line' : Nat) (o' : MemOp) (l' : LineReq), s.line? op' line' = some (o', l') → paSlice (l'.pa.getD 0) = slice →
      l.bSlice < 4 → l'.bSlice < 4 → l.st = .travelling → l'.st = .travelling → s.opFunc o' = s.opFunc o →
      (s.rank (.sliceRequestArrival op line) < s.rank (.sliceRequestArrival op' line') ↔ o.askerOrder < o'.askerOrder)) ∧
    (o.kind ≠ .walkRead → o.kind ≠ .compact → (∀ b, o.kind ≠ .host b) → o.askerOrder = o.core) ∧
    (o.kind = .walkRead → o.askerOrder = 1024 + coreSector o.core) ∧ (∀ b, o.kind = .host b → o.askerOrder = 3072) ∧
    (o.kind = .compact → o.askerOrder = 3584 + o.c) ∧
    (Config.hbmBank (pa / 128) ∈ (s.hbm (paStack pa)).busy → (l.st = .serving ∨ l.st = .queued) →
      ∃ t, exec (.hbmRequestArrival op line) s = .next t ∧ t.mem = s.mem ∧ (op, line) ∈ (t.hbm (paStack pa)).queue) ∧
    (Config.hbmBank (pa / 128) ∉ (s.hbm (paStack pa)).busy → l.bHbm < 4 → (l.st = .serving ∨ l.st = .queued) → s.lineBad pa = false →
      o.kind ≠ .ring → (∀ b, o.kind ≠ .host b) → o.kind ≠ .patrol →
      ∃ t, exec (.hbmRequestArrival op line) s = .next t ∧ t.mem = s.mem ∧ (op, line) ∉ (t.hbm (paStack pa)).queue ∧
        pa / 128 ∈ (t.slice slice).lines ∧ (o.kind.isUpdate = true → (s.clk, Instr.atomicAtSlice op line) ∈ t.agenda)) ∧
    (l.st = .queued → (op, line) ∈ (s.hbm (paStack pa)).queue → l.arrived + 512 ≤ s.clk → o.kind.isPref = false →
      ∃ t, exec (.hbmHoldBoundExpiry op line) s = .next t ∧ (op, line) ∉ (t.hbm (paStack pa)).queue ∧
        (t.relPart o.part).rhbounce = (s.relPart o.part).rhbounce + 1 ∧
        (s.clk + o.way slice, Instr.bounceNotice op line 2) ∈ t.agenda) ∧
    (∀ cause, let r := l.bRouter + (if cause = 0 then 1 else 0)
      let b := l.bSlice + (if cause = 1 then 1 else 0)
      let h := l.bHbm + (if cause = 2 then 1 else 0)
      exec (.bounceNotice op line cause) s = .next ((s.modLine op line fun x =>
        { x with bRouter := r, bSlice := b, bHbm := h, veteran := x.veteran || decide (b ≥ 4) || decide (h ≥ 4),
                 promoted := if x.veteran then x.promoted else s.clk }).post
          (if cause = 0 then 8 else if cause = 1 then 64 else 96) (.replayReissue op line))) ∧
    (l.st = .bounced → (o.kind.isObject = false ∨ o.phase ≠ 0) → o.kind ≠ .patrol → o.kind ≠ .ring → exec (.replayReissue op line) s =
      .next ((s.modLine op line fun x => { x with st := .travelling }).sendRouter (if o.wg = 0 then 0 else s.comparator o.part) op line
        false)) ∧
    (l.st = .held → (o.kind.isObject = false ∨ o.phase ≠ 0) → exec (.replayReissue op line) s = .next (s.sendLine op line))

/-- R198, R199, R378, R386, R401: a walk that has been in the walk cache reads the next descriptor that it lacks from its home slice; the
outcome of a walk that has them all enters its translation in the core's TLB and lets its askers go on, those of a frozen master apart, asks
the host for a translation into host memory, asks for the page that needs service, or freezes the askers' masters where it lies outside the
granted memory; a walk that waits is taken up. The host's answer enters its translation with the permissions of the walk's leaf, or refuses
the askers; a page reply of success starts the walks again and a failure reaches the askers 20 clk later: a memory word fails with the stage
in every lane of the page. Completion: walkOutcome, atsTranslationCompletion, pageReplyAtWalker, pageFailureDelivery. R197 and R199, the
leaf rules: a descriptor that is valid as a leaf gives the page of its level, 1 GiB, 2 MiB, 64 KiB or 4 KiB, with the permissions of its
bits 2 to 4; a translation found in a TLB is the page's address plus the address's place in it. -/
def Obligations.TranslationWalks : Prop :=
  ((∀ (walk : Nat) (s : State) (w : Walk), s.walks.find? (fun x => x.id = walk) = some w →
     let c := s.consult 32 w
     let s1 := { (s.modWalk c.id fun _ => c) with free := s.free + 32 }
     (∀ r, c.lacks = some r → exec (.walkOutcome walk) s =
       .next (s1.sendBack (bareOp s1 .walkRead c.core (s1.partOf c.core) 0 c.ctx c.id 0 [lineReq (r.pa / 128) r.pa (some r.pa) []]))) ∧
     (∀ v, c.lacks = none → s1.walks.find? (fun x => x.id = walk) = some v →
       exec (.walkOutcome walk) s = .next ((s1.walkOver v).nextWalk (coreSector v.core)))) ∧
   (∀ (s : State) (w : Walk),
     let s1 := { s with walks := s.walks.filter fun x => x.id ≠ w.id }.cacheWalk w
     let elements := w.who.any fun a => match a with | .element .. => true | _ => false
     let packets := w.who.any fun a => match a with | .packet _ => true | _ => false
     (∀ st page, w.look.1 = .service st page → s.walkOver w = s1.needService w st page) ∧
     (∀ l, w.look.1 = .ok l → isHost l.base = true →
       s.walkOver w = { s1 with walks := s1.walks ++ [{ w with st := .hosted l }] }.send (.ats w.core w.va)) ∧
     (∀ l, w.look.1 = .ok l → isHost l.base = false → packets = false →
       let pa := l.base + w.va % 2 ^ 48 % l.size
       (s1.outsideOf w.ctx.func pa elements = true → s.walkOver w = w.who.foldl (fun (u : State) a => u.outside w a) s1) ∧
       (s1.outsideOf w.ctx.func pa elements = false →
         s.walkOver w = (s1.modCore w.core fun k => { k with tlb := tlbFill k.tlb w.ctx w.va l }).askersGo w l)) ∧
     (∀ l, (∀ a ∈ w.who, s.askerFrozen a = false) →
       s.askersGo w l = (sortBy Asker.order w.who).foldl (fun (u : State) a => u.askerOk a w.perm l) s)) ∧
   (∀ (core va pa : Nat) (s : State) (w : Walk) (l : Leaf),
     s.walks.findSome? (fun w => match w.st with
       | .hosted l => if decide (w.core = core ∧ w.va / 4096 = va / 4096) then some (w, l) else none
       | _ => none) = some (w, l) →
     let s1 := { s with walks := s.walks.filter fun x => x.id ≠ w.id }
     let page : Leaf := { l with base := pa / 4096 * 4096, size := 4096 }
     exec (.atsTranslationCompletion core va pa true) s =
       .next ((s1.modCore core fun k => { k with tlb := tlbFill k.tlb w.ctx va page }).askersGo w page) ∧
     exec (.atsTranslationCompletion core va pa false) s = .next (s1.refuse [w] 2)) ∧
   (∀ (req : Nat) (s : State) (r : PageReq), s.pageReqs.find? (fun x => x.id = req) = some r →
     let ok := (s.pageAnswered r true).charge r.core 1
     exec (.pageReplyAtWalker req true) s = .next (r.walks.foldl (fun (u : State) w =>
       w.who.foldl (fun (u : State) a => u.startWalk w.core w.ctx w.va w.perm a) u)
         { ok with pageReqs := ok.pageReqs.filter fun x => x.id ≠ req }) ∧
     exec (.pageReplyAtWalker req false) s = .next (((s.pageAnswered r false).charge r.core 1).post 20 (.pageFailureDelivery req)) ∧
     ((∀ w ∈ r.walks, w.who ≠ [] ∧ ∀ a ∈ w.who, s.askerFrozen a = false) → exec (.pageFailureDelivery req) s =
       .next ({ s with pageReqs := s.pageReqs.filter fun x => x.id ≠ req }.refuse r.walks r.stage))) ∧
   (∀ (s : State) (w : Walk) (op line stage : Nat) (o : MemOp) (l : LineReq), w.who = [.line op line] → s.line? op line = some (o, l) →
     o.kind.isPref = false → s.askerKill (.line op line) w none = none →
     s.refuse [w] stage = s.opFault o (3 + stage) fun a => decide (a.ea / 4096 = w.va / 4096))) ∧
  ((∀ d, (leafOf d 1).size = 2 ^ 30 ∧ (leafOf d 2).size = 2 ^ 21 ∧
     (leafOf d 3).size = (if natBit d 5 then 2 ^ 16 else 2 ^ 12)) ∧
   (∀ d level, (leafOf d level).base % (leafOf d level).size = 0 ∧ (leafOf d level).r = natBit d 2 ∧ (leafOf d level).w = natBit d 3 ∧
     (leafOf d level).x = natBit d 4) ∧
   (∀ (tlb : List TlbEntry) (c : Ctx) (va : Nat) (l : Leaf) (perm : Nat), l.allows perm = true → l.size ≠ 0 →
     tlbFind (tlbFill tlb c va l) c va perm = some (l.base + va % 2 ^ 48 % l.size)))

/-- R206, R207 and R223: a record's header holds WM in bits 7:0, GRAN in 41:8, VOID in 42, DONE in 43 and NSLOT in 51:44. While no
operation of the core waits, a drain sends up to four records of the buffer, appended in an earlier clk and in paired mode compared since,
to the ring in one write, and it comes again in the next clk while records are left. logq with a query of 8 or more takes ILLOP, and with
one of 0 to 7 writes s_D in each crew: TAIL, HEAD, the records not yet drained, those not committed, the directory's lines, the node slots
in use, the taints of the node, and the occupancy bits; a directory with more than 8,192 lines, which a resumed crew can leave, reports
8,192 by the model's choice (log entry 89). Completion: logBufferDrain, logq. -/
def Obligations.LogQueries : Prop :=
  (∀ (r : Record), r.header.extractLsb' 0 8 = r.wm ∧ r.header.extractLsb' 8 34 = BitVec.ofNat 34 r.gran ∧
    r.header.getLsbD 42 = r.void ∧ r.header.getLsbD 43 = r.done ∧ r.header.extractLsb' 44 8 = BitVec.ofNat 8 r.nslot ∧
    r.header.extractLsb' 52 12 = 0) ∧
  (∀ (core : Nat) (s : State), (∀ o ∈ s.ops, o.core ≠ core) →
    let l := (s.core core).log
    let out := ((l.recs.filter fun r => decide (l.drained ≤ r.num)).take 4).takeWhile fun r =>
      decide (r.since + 1 + s.comparator (s.partOf core) ≤ s.clk)
    ∃ t, exec (.logBufferDrain core) s = .next t ∧ t.mem = s.mem ∧ (t.core core).log.tail = l.tail ∧
      (t.core core).log.drained = l.drained + out.length ∧
      (out ≠ [] → ∃ o ∈ t.ops, o.kind = .ring ∧ o.a = core ∧ o.lanes = out.flatMap (s.ringWords core)) ∧
      ((t.core core).log.drained < l.tail → (s.clk + 1, Instr.logBufferDrain core) ∈ t.agenda)) ∧
  (∀ (c : Bool) (g : BitVec 3) (wr : Bool) (d : BitVec 5) (a : BitVec 7) (s : State) (is : Issue) (w : Wg), Issues s is w →
    active is w g ≠ [] →
    let q := (uniSrc s is w a.toNat).toNat
    let l := (s.core w.core).log
    let gives := fun (n : Nat) => exec (.logq c g wr d a) s = .next (s.finish is w
      { s := if wr then [] else (activeCrews is w g).map fun x => (x, d.toNat, BitVec.ofNat 64 n) } 1)
    (q ≥ 8 → exec (.logq c g wr d a) s = .next (s.trapHere is w.id (trapping is w g) .illop)) ∧
    (q = 0 → gives l.tail) ∧
    (q = 1 → gives l.head) ∧
    (q = 2 → gives (l.tail - l.drained)) ∧
    (q = 3 → gives (l.recs.filter fun r => !r.done && !r.void && !r.committed).length) ∧
    (q = 4 → gives (min 8192 (s.dirLines w.core).length)) ∧
    (q = 5 → gives l.nodes.length) ∧
    (q = 6 → ∀ n, s.node? w.part w.node = some n → gives n.taints.length) ∧
    (q = 7 → gives ((if l.tail - l.head ≥ 78643 then 1 else 0) +
      (if ∃ o ∈ s.ops, o.core = w.core ∧ o.kind = .store ∧ o.phase = 1 then 2 else 0))))

/-- R212, R214, R215 and R301: rel and acq with an object address that is misaligned or not canonical take MEMFAULT; otherwise the word is sent
on its way and the threads wait for its reply. A release that reaches its object publishes there, and its slice replies; on an address that
holds no object the slice refuses it, and when the list is full it bounces, or LOGFULL is its reply. The reply lets the threads go on, or
they take the trap of a refusal. Completion: rel, acq, releaseAtSlice, releaseReply. R215: an acquire that finds its object and does not
overflow the four taints of its node takes VER and the producers as taints, and its slice replies; one that would taint the node by more
than four bounces, and one that finds no object is refused. After the reply the core drops its view-cache lines of the object's regions,
which no request under way brings back, an eighth of their number in clk, puts VER into the acquire table and lets the threads go on.
Completion: acquireAtSlice, acquireReply. -/
def Obligations.ReleaseAndAcquire : Prop :=
  ((∀ (c : Bool) (g : BitVec 3) (a : BitVec 7) (sc : BitVec 3) (s : State) (is : Issue) (w : Wg), Issues s is w → active is w g ≠ [] →
     let ea := (uniSrc s is w a.toNat).toNat
     let once := fun (k : OpKind) => newOp s is w k ((active is w g).map fun t => laneAcc t ea 0 0) none none false
     let sent := fun (k : OpKind) => Host.Outcome.next (((once k).lines.foldl (fun (s : State) l => s.sendLine (once k).id l.line)
       ((s.addOp (once k)).block is w.id (once k).id)).objectGo (once k))
     (¬ (ea % 32 = 0 ∧ canonical ea = true) →
       exec (.rel c g a sc) s = .next (s.memFaultOnce is w g .memfault 14 false ea) ∧
       exec (.acq c g a sc) s = .next (s.memFaultOnce is w g .memfault 14 false ea)) ∧
     (ea % 32 = 0 ∧ canonical ea = true → exec (.rel c g a sc) s = sent (.rel false) ∧ exec (.acq c g a sc) s = sent (.acq false))) ∧
   (∀ (op : Nat) (s : State) (o : MemOp), s.op? op = some o →
     let did := fun (t : State) => Host.Outcome.next ((t.modOp op fun x => { x with b := 1 }).objectReply o none)
     (o.b = 1 → exec (.releaseAtSlice op) s = .next (s.objectReply o o.fail)) ∧
     (o.b ≠ 1 →
       (s.obj? o.objPa = none → exec (.releaseAtSlice op) s = .next (s.objectReply o (some 14))) ∧
       (∀ b b', s.obj? o.objPa = some b → o.kind = .rel false → publish b o.core (s.core o.core).log.head o.n = some b' →
         exec (.releaseAtSlice op) s = did ((s.modObj b.pa fun _ => b').settlePubs)) ∧
       (∀ b b', s.obj? o.objPa = some b → o.kind = .rel true → b.tile = true →
         publish b o.core (s.core o.core).log.head o.n = some b' →
         exec (.releaseAtSlice op) s = did (((s.modObj b.pa fun _ => b').settlePubs).setFull b.pa true)) ∧
       (∀ b, s.obj? o.objPa = some b → o.kind = .rel false → publish b o.core (s.core o.core).log.head o.n = none →
         exec (.releaseAtSlice op) s =
           .next (if s.releaseStuck o b then s.objectReply o (some 15) else s.objectBounce o)) ∧
       (∀ b, s.obj? o.objPa = some b → o.kind = .empty → b.tile = true → exec (.releaseAtSlice op) s = did (s.setFull b.pa false))) ∧
     (o.phase ≠ 2 → o.phase ≠ 6 →
       (o.fail = none → exec (.releaseReply op) s = .next (((s.dropOp op).unblock o.wg op).opEnded o.core o.wg)) ∧
       (∀ k, o.fail = some k → exec (.releaseReply op) s = .next ((s.objectRefused o k).opEnded o.core o.wg)))) ∧
   (∀ (o : SyncObj) (core head upto : Nat) (p : SyncObj), publish o core head upto = some p →
     p.ver = o.ver + 1 ∧ p.lastrel = core ∧ p.pa = o.pa ∧ p.regions = o.regions ∧ p.full = o.full ∧
       (o.pubs.length ≤ 64 → p.pubs.length ≤ 64)) ∧
   (∀ (o : SyncObj) (core head upto : Nat), publish o core head upto = none → o.pubs.length ≥ 64)) ∧
  ((∀ (op : Nat) (s : State) (o : MemOp), s.op? op = some o → s.obj? o.objPa = none →
     exec (.acquireAtSlice op) s = .next (s.objectReply o (some 14))) ∧
   (∀ (op : Nat) (s : State) (o : MemOp) (b : SyncObj) (w : Wg) (n : Node) (tile : Bool), s.op? op = some o →
     s.obj? o.objPa = some b → s.wg? o.wg = some w → s.node? w.part w.node = some n → o.kind = .acq tile → (tile = true → b.tile = true) →
     let all := dedup (n.taints ++ s.producers b w.node)
     (all.length > 4 → exec (.acquireAtSlice op) s = .next (s.objectBounce o)) ∧
     (all.length ≤ 4 → exec (.acquireAtSlice op) s =
       .next (((s.modNode w.part w.node fun x => { x with taints := all }).modOp op fun x => { x with n := b.ver }).objectReply o none))) ∧
   (∀ (op : Nat) (s : State) (o : MemOp), s.op? op = some o →
     (∀ k, o.fail = some k → exec (.acquireReply op) s = .next ((s.objectRefused o k).opEnded o.core o.wg)) ∧
     (∀ b, o.fail = none → s.obj? o.objPa = some b →
       let n := (s.core o.core).viewCount b.ranges
       (o.phase ≠ 2 → n ≠ 0 →
         exec (.acquireReply op) s = .next ((s.modOp op fun x => { x with phase := 2 }).post ((n + 7) / 8) (.acquireReply op))) ∧
       ((o.phase = 2 ∨ n = 0) → ((s.core o.core).acq.filter fun a => a.obj ≠ o.objPa).length < 64 →
         let old := match (s.core o.core).acq.find? fun a => a.obj = o.objPa with | some a => a.wgs | none => []
         let e : AcqEntry := { obj := o.objPa, av := o.n, used := s.clk, wgs := dedup (o.wg :: old) }
         let s1 := (s.dropView o.core b.ranges).modCore o.core fun k =>
           { k with acq := ((s.core o.core).acq.filter fun a => a.obj ≠ o.objPa) ++ [e] }
         exec (.acquireReply op) s = .next (((s1.dropOp op).unblock o.wg op).opEnded o.core o.wg)))))

/-- R193, R194, R211, R412 and R413, the words that name a range: one whose checks fail takes their trap at its word; one whose object
or range needs a page walk parks for it (an unbind's object too: the model's choice, log entry 90; a seal whose last byte is not canonical has cause 9: log entry 96); a bind whose range holds live records, an unbind whose region's records are unpublished, a seal
with live records, wait by parking. Otherwise the region enters its object or the seal table, or leaves it; bind and unbind are complete
200 clk later, and issue again then to go on. An unseal that names no seal faults. Completion: bind, unbind, seal, unseal. -/
def Obligations.RegionWords : Prop :=
  ∀ (c : Bool) (g : BitVec 3) (n : BitVec 5) (a : BitVec 7) (s : State) (is : Issue) (w : Wg), Issues s is w → active is w g ≠ [] →
    let base := (uniS is w n.toNat).toNat
    let len := (uniS is w (n.toNat + 1)).toNat
    let obj := (uniSrc s is w a.toNat).toNat
    let pages := rangeSteps (s.core w.core).tlb w.ctx (len / 4096 + 2) base len []
    let rs := mergeRanges pages.1
    let r : Region := { base := base, len := len, ctx := w.ctx, ranges := rs }
    (s.markedOp is w = none →
      (∀ t k wr ad, s.bindStep w base len obj = .fault t k wr ad →
        exec (.bind c g n a) s = .next (s.memFaultOnce is w g t k wr ad)) ∧
      (∀ va p, s.bindStep w base len obj = .walk va p → exec (.bind c g n a) s = .next (s.regionWalk is w g .bind va p)) ∧
      (∀ pa, s.bindStep w base len obj = .pages pa base len →
        (∀ va left, pages.2 = some (va, left) → exec (.bind c g n a) s = .next (s.regionPages is w g .bind pa pages.1 va left)) ∧
        (pages.2 = none →
          (∀ ad, s.bindBad w pa base obj rs = some ad → exec (.bind c g n a) s = .next (s.memFaultOnce is w g .memfault 14 false ad)) ∧
          (s.bindBad w pa base obj rs = none → s.recordIn w.part rs (fun _ => true) = true →
            exec (.bind c g n a) s = .next (s.regionPark is w g .bind none 4 pa rs (.clear w.part rs))) ∧
          (s.bindBad w pa base obj rs = none → s.recordIn w.part rs (fun _ => true) = false →
            (∀ b, s.obj? pa = some b → exec (.bind c g n a) s =
              .next ((s.modObj pa fun o => { o with regions := o.regions ++ [r] }).settleIn is w g .bind none rs 200)) ∧
            (s.obj? pa = none → exec (.bind c g n a) s =
              .next ((State.modObj { s with objs := s.objs ++ [SyncObj.fresh pa w.part false] } pa fun o =>
                { o with regions := o.regions ++ [r] }).settleIn is w g .bind none rs 200))))) ∧
      (¬ (obj % 32 = 0 ∧ canonical obj = true) → exec (.unbind c g n a) s = .next (s.memFaultOnce is w g .memfault 14 false obj)) ∧
      (∀ va p, s.objectStep w obj = .walk va p → exec (.unbind c g n a) s = .next (s.regionWalk is w g .unbind va p)) ∧
      (∀ pa, s.objectStep w obj = .ok pa [] → s.obj? pa = none →
        exec (.unbind c g n a) s = .next (s.memFaultOnce is w g .memfault 14 false base)) ∧
      (∀ pa b, s.objectStep w obj = .ok pa [] → s.obj? pa = some b →
        ((∀ x ∈ b.regions, ¬ (x.base = base ∧ x.len = len ∧ x.ctx = w.ctx)) →
          exec (.unbind c g n a) s = .next (s.memFaultOnce is w g .memfault 14 false base)) ∧
        (∀ x, b.regions = [x] → x.base = base → x.len = len → x.ctx = w.ctx → b.pubs = [] →
          exec (.unbind c g n a) s = .next ((s.unbindRegion pa x).settleIn is w g .unbind none [] 200))) ∧
      (∀ t k wr ad, sealStep base len = .fault t k wr ad → exec (.seal c g n) s = .next (s.memFaultOnce is w g t k wr ad)) ∧
      (sealStep base len = .pages 0 base len → pages.2 = none →
        (∀ k, s.sealBad w rs = some k → exec (.seal c g n) s = .next (s.memFaultOnce is w g .sealedFault k false base)) ∧
        (s.sealBad w rs = none → s.recordIn w.part rs (fun _ => true) = false →
          exec (.seal c g n) s = .next (((s.modPart w.part fun p => { p with seals := p.seals ++ [r] }).dropViews w.part rs).retire is w.id)))) ∧
    (∀ o, s.markedOp is w = some o → o.fail = none → o.phase = 3 →
      exec (.bind c g n a) s = .next ((s.dropOp o.id).retire is w.id) ∧
      exec (.unbind c g n a) s = .next ((s.dropOp o.id).retire is w.id)) ∧
    (∀ o, s.markedOp is w = some o → o.fail = none → o.phase = 1 → s.recordIn w.part o.ranges (fun _ => true) = false →
      exec (.seal c g n) s = .next (((s.dropOp o.id).dropViews w.part o.ranges).retire is w.id)) ∧
    (∀ p, s.part? w.part = some p →
      ((∃ x ∈ p.seals, x.base = base ∧ x.len = len ∧ x.ctx = w.ctx) → exec (.unseal c g n) s =
        .next ((s.modPart w.part fun p => { p with seals := p.seals.filter fun x =>
          !(decide (x.base = base) && decide (x.len = len) && decide (x.ctx = w.ctx)) }).retire is w.id)) ∧
      ((∀ x ∈ p.seals, ¬ (x.base = base ∧ x.len = len ∧ x.ctx = w.ctx)) →
        exec (.unseal c g n) s = .next (s.memFaultOnce is w g .sealedFault 13 false base)))

/-- R218, R219 and R220: a node with a live baton or a taint does not commit; one with neither leaves the partition's nodes, no node stays
tainted by it, its batons go, and its records are committed in the logs of the partition's cores. The compactor takes a committed record
that need not wait when its slice starts one more request in the clk, and writes its words home. A rollback leaves no workgroup of the node
and, where no store is held up, no live record of it that is not committed; the kill of a workgroup leaves none of that number.
Completion: nodeCommit, compactorApply, nodeRollback, workgroupKill. -/
def Obligations.CommitAndRollback : Prop :=
  (∀ (part node : Nat) (s : State) (n : Node), s.node? part node = some n →
    ((n.live ≠ 0 ∨ n.taints ≠ []) → exec (.nodeCommit part node) s = .next s) ∧
    (n.live = 0 → n.taints = [] → ∃ t, exec (.nodeCommit part node) s = .next t ∧ t.mem = s.mem ∧ t.node? part node = none ∧
      (∀ x ∈ t.nodes, x.part = part → node ∉ x.taints) ∧ (∀ b ∈ t.batons, ¬ (b.part = part ∧ b.node = node)) ∧
      (∀ c ∈ s.partCores part, s.corePart c = s.part? part → ∀ r ∈ (t.core c).log.recs, r.node = node → r.committed = true))) ∧
  (∀ (core seq : Nat) (s : State) (r : Record), (s.core core).log.recs.find? (fun x => x.num = seq) = some r →
    let sl := s.slice (paSlice (r.gran * 32))
    let full := sl.startedAt = s.clk ∧ 4 ≤ sl.startedN
    (¬ (r.done = false ∧ r.void = false ∧ r.committed = true) → exec (.compactorApply core seq) s = .next s) ∧
    (r.done = false → r.void = false → r.committed = true → (s.mustWait core r = true ∨ sl.compact > s.clk ∨ full) →
      exec (.compactorApply core seq) s = .next (s.post 1 (.compactorApply core seq))) ∧
    (s.mem.wf = true → r.done = false → r.void = false → r.committed = true → s.mustWait core r = false → sl.compact ≤ s.clk → ¬ full →
      (∀ x ∈ s.allRecords, x.2.gran = r.gran → x.1 = core ∨ x.2.live = false ∨ x.2.committed = false) →
      (∀ o ∈ s.ops, o.core ≠ core ∧ o.kind ≠ .store) →
      (∀ p, s.ringPlace core r.num = some p → p + 8 ≤ r.gran * 32 ∨ r.gran * 32 + 32 ≤ p) →
      ∃ t, exec (.compactorApply core seq) s = .next t ∧
        (∀ k, k < 8 → r.wm.getLsbD k = true → t.mem.word (r.gran * 32 + 4 * k) = r.words.getD k 0) ∧
        (∀ a, (a < r.gran * 32 ∨ r.gran * 32 + 32 ≤ a) → (∀ p, s.ringPlace core r.num = some p → a < p ∨ p + 8 ≤ a) →
          t.mem.get a = s.mem.get a))) ∧
  (∀ (part node : Nat) (s : State), ∃ t, exec (.nodeRollback part node) s = .next t ∧
    (∀ w ∈ s.wgs, w.part = part → w.node = node → w.id ∉ t.wgs.map (fun x => x.id)) ∧
    ((∀ o ∈ s.ops, o.kind ≠ .store) → ∀ c, (s.corePart c).map (fun p => p.num) = some part →
      ∀ r ∈ (t.core c).log.recs, r.node = node → r.committed = false → r.live = false)) ∧
  (∀ (wg addr : Nat) (s : State) (w : Wg), s.wg? wg = some w → w.heat = none →
    ∃ t, exec (.workgroupKill wg addr) s = .next t ∧ w.id ∉ t.wgs.map (fun x => x.id))

/-! ### Atomics and reductions (12_atomics) -/

/-- R241, R243 and R247: the words that update memory address the word at s_A or at the pair of v registers in each active lane; a bad address
takes MEMFAULT, and a word that may not be written its exception, with nothing updated; otherwise the threads go on when every line is
translated and the requests leave, or wait for the walks. Completion: aadd, amin, amax, aand, aor, axor, aswap, acas, ainc, radd, raddPf,
raddFlush. R243, the new values of the integer atomics from the old value, x and y: sum, minimum and maximum signed (type 0) or unsigned
(type 1), and, or, exclusive or, exchange, compare and exchange, and the wrapping increment; none raises a flag. -/
def Obligations.AtomicWords : Prop :=
  (∀ (c : Bool) (g : BitVec 3) (wr : Bool) (d : BitVec 6) (a : BitVec 7) (ty : BitVec 2) (f32 : Bool) (s : State) (is : Issue) (w : Wg),
     Issues s is w → active is w g ≠ [] →
     let reg := fun (t n : Nat) => match w.thread? t with | some x => x.reg n | none => (0 : Word32)
     let ea := fun (t : Nat) => if 64 ≤ a.toNat then (uniSrcAt s is w t a.toNat).toNat
       else (match w.thread? t with | some x => (x.reg (a.toNat + 1) ++ x.reg a.toNat).toNat | none => 0)
     let lanes := fun (n : Nat) => (active is w g).map fun t => match w.thread? t with
       | some _ => laneAcc t (ea t) (reg t n) (reg t (n + 1))
       | none => laneAcc t 0 0 0
     let gives := fun (i : Instr) (kind : OpKind) (n : Nat) (dst : Option Nat) (wb : Bool) =>
       let o : MemOp := { newOp s is w kind (lanes n) dst none wb with n := w.width, latch := lostLatches s is w (active is w g) [] }
       (∀ k bad, addrCause (lanes n) = some (k, bad) → exec i s = .next (s.memFault is w g .memfault k true bad)) ∧
       (addrCause (lanes n) = none → (∀ l ∈ o.lines, l.pa ≠ none) → ∀ t k bad, s.writeCause o.lanes = some (t, k, bad) →
         exec i s = .next (s.memFault is w g t k true bad)) ∧
       (addrCause (lanes n) = none → (∀ l ∈ o.lines, l.pa ≠ none) → s.writeCause o.lanes = none →
         exec i s = .next (((s.addOp o).retire is w.id).updateReady o)) ∧
       (addrCause (lanes n) = none → (∃ l ∈ o.lines, l.pa = none) →
         exec i s = .next (((s.addOp o).block is w.id o.id).walkLines o))
     gives (.aadd c g wr d a ty) (.atomic 0 ty) d.toNat (some d.toNat) (!wr) ∧
     gives (.amin c g wr d a ty) (.atomic 1 ty) d.toNat (some d.toNat) (!wr) ∧
     gives (.amax c g wr d a ty) (.atomic 2 ty) d.toNat (some d.toNat) (!wr) ∧
     gives (.aand c g wr d a) (.atomic 3 0) d.toNat (some d.toNat) (!wr) ∧
     gives (.aor c g wr d a) (.atomic 4 0) d.toNat (some d.toNat) (!wr) ∧
     gives (.axor c g wr d a) (.atomic 5 0) d.toNat (some d.toNat) (!wr) ∧
     gives (.aswap c g wr d a) (.atomic 6 0) d.toNat (some d.toNat) (!wr) ∧
     gives (.acas c g wr d a) (.atomic 7 0) d.toNat (some d.toNat) (!wr) ∧
     gives (.ainc c g wr d a) (.atomic 8 0) d.toNat (some d.toNat) (!wr) ∧
     gives (.radd c g d a f32) (.radd 0 f32) d.toNat none false ∧
     gives (.raddPf c g d a f32) (.radd 1 f32) d.toNat none false ∧
     gives (.raddFlush c g a) (.radd 2 false) 0 none false) ∧
  (∀ (old x y : Word32),
     atomicOp 0 0 old x y = (old + x, 0) ∧ atomicOp 0 1 old x y = (old + x, 0) ∧
     atomicOp 1 0 old x y = (if x.toInt < old.toInt then x else old, 0) ∧
     atomicOp 1 1 old x y = (if x.toNat < old.toNat then x else old, 0) ∧
     atomicOp 2 0 old x y = (if old.toInt < x.toInt then x else old, 0) ∧
     atomicOp 2 1 old x y = (if old.toNat < x.toNat then x else old, 0) ∧
     (∀ ty, atomicOp 3 ty old x y = (old &&& x, 0) ∧ atomicOp 4 ty old x y = (old ||| x, 0) ∧ atomicOp 5 ty old x y = (old ^^^ x, 0) ∧
       atomicOp 6 ty old x y = (x, 0) ∧ atomicOp 7 ty old x y = (if old = x then y else old, 0) ∧
       atomicOp 8 ty old x y = (if old.toNat ≥ x.toNat then 0 else old + 1, 0)))

/-- R243, R246, R249 and R251, exactly once: a request whose keys are all in its slice's result table with nothing to make again changes neither
memory nor the table, and its reply leaves after 40 clk; a new one for which the table has no room bounces and changes no memory; one that
would wait for earlier updates of its line past the hold bound is queued at the slice (log 31, the model's choice); an applied atomic gives
each lane's word its value, leaves its keys, and its reply leaves after that wait and its service. An orinit writes the image of a fresh
accumulator, or is refused with cause 14 for an object that is one already, and one that has acted replies again as it did. The reply of a
line acknowledges each key of a core (below 1024), and that of the last ends the operation; the acknowledgement frees the entry. Completion:
atomicAtSlice, atomicReply, replyAcknowledgeNotice. R247, R249, R250 and R251: a flush adds a word's pending contributions one by one in
ascending key, C, crew, lane and order, and frees them, i32 ones leaving their sum there, and its flags are those of the additions (equal
keys as they came: log 92); it takes one clk more for each of them. A contribution of a key that an accumulator holds sets its ERR bit and
gives REDERR, one to an address in no active accumulator gives REDERR, one that is not the last is kept, and the last writes the sum in
ascending key order from 0 at RESULT at once and the image at the object's 32 bytes: DONE set, ACTIVE clear, ERR as it was, NV and OF raised
by the additions (addresses inside the 32 bytes, TYPE and the time of RESULT: log 95, the model's choice). orinit with a control value of
8,192 or more takes ILLOP, one whose checks fail takes its trap, one whose page needs a walk parks for it (W of the object's page: log 94),
and else its request goes to the slice and its threads park until the reply. oadd sends v_d with the key source in each active lane, after
the checks of R243. Completion: orinit, oadd. -/
def Obligations.OnceAndReductions : Prop :=
  ((∀ (op line : Nat) (s : State), s.line? op line = none →
     exec (.atomicAtSlice op line) s = .next s ∧ exec (.atomicReply op line) s = .next s) ∧
   (∀ (op line : Nat) (s : State) (o : MemOp) (l : LineReq), s.line? op line = some (o, l) → o.kind ≠ .orinit →
     let h := paSlice (l.pa.getD 0)
     let new := l.keys.filter fun k => (s.result? h k).isNone
     let used := (s.results.filter fun r => r.slice = h).length
     ((∀ k ∈ l.keys, ∃ r, s.result? h k = some r ∧ r.redo = []) → ∃ t, exec (.atomicAtSlice op line) s = .next t ∧
       t.mem = s.mem ∧ t.results = s.results ∧ (∃ b, (s.clk + 40, Instr.routerPacket op line true b) ∈ t.agenda) ∧
       (∀ o' l', t.line? op line = some (o', l') → l'.st = .returning ∧ l'.flags = (s.resultOf h l).2)) ∧
     (s.lanesDue h o l ≠ [] → used + new.length > 4096 → exec (.atomicAtSlice op line) s =
       .next ((s.modLine op line fun x => { x with st := .bounced }).post (travel o.core h) (.bounceNotice op line 1))) ∧
     (s.lanesDue h o l ≠ [] → s.sliceLacks h o l (s.lanesDue h o l) = false → s.updateHeld l = true →
       ∃ t, exec (.atomicAtSlice op line) s = .next t ∧ t.mem = s.mem ∧ t.results = s.results ∧
         (op, line) ∈ (t.slice h).queue ∧ (s.clk + (l.arrived + 256 - s.clk), Instr.sliceHoldBoundExpiry op line) ∈ t.agenda) ∧
     ((∃ k ty, o.kind = .atomic k ty) → (∀ k ∈ l.keys, s.result? h k = none) →
       (∀ a ∈ o.lanes, ∃ k ∈ l.keys, k.crew = none ∨ k.crew = some (a.thread / o.n)) → o.lineLanes line ≠ [] →
       used + l.keys.length ≤ 4096 → s.updateHeld l = false →
       ∃ t, exec (.atomicAtSlice op line) s = .next t ∧
         (∃ b, (s.clk + (s.updateWait l + l.extra + s.serviceTime o (o.lineLanes line) 0), Instr.routerPacket op line true b) ∈ t.agenda) ∧
         (∀ k ∈ l.keys, ∃ r ∈ t.results, r.slice = h ∧ r.req = (k.c, k.s)) ∧
         t.mem = ((o.lineLanes line).foldl (fun (u : State) x =>
           u.setHome (x.pa.getD 0) (match o.kind with
             | .atomic k ty => (atomicOp k.toNat ty.toNat (u.homeWord (x.pa.getD 0)) x.x x.y).1
             | _ => 0)) s).mem)) ∧
   (∀ (op line : Nat) (s : State) (o : MemOp) (l : LineReq), s.line? op line = some (o, l) → o.kind = .orinit →
     (o.b = 1 → exec (.atomicAtSlice op line) s = .next (s.objectReply o o.fail)) ∧
     (o.b ≠ 1 → (s.inObj o.objPa || s.inAcc o.objPa) = true →
       exec (.atomicAtSlice op line) s = .next (s.objectReply o (some 14))) ∧
     (o.b ≠ 1 → (s.inObj o.objPa || s.inAcc o.objPa) = false →
       let acc : OrdAcc := { pa := o.objPa, part := o.part, f32 := decide (o.n / 4096 % 2 = 1), n := o.n % 4096 + 1, result := o.c,
                             resultPa := o.m, done := false, err := false, nv := false, ovf := false, held := [] }
       exec (.atomicAtSlice op line) s =
         .next ((State.modOp { s with ordAccs := (s.ordAccs.filter fun (x : OrdAcc) => x.pa ≠ o.objPa) ++ [acc] } op fun x =>
           { x with b := 1 }).objectReply o none))) ∧
   (∀ (op line : Nat) (s : State) (o : MemOp) (l : LineReq), s.line? op line = some (o, l) →
     let h := paSlice (l.pa.getD 0)
     let acked := (l.keys.filter fun k => decide (k.c < 1024)).foldl (fun (u : State) k =>
       u.post (travel o.core h) (.replyAcknowledgeNotice k.s (k.c * 64 + h))) (s.modLine op line fun x => { x with st := .done })
     (o.lines = [l] → exec (.atomicReply op line) s = .next (acked.updateDone { o with lines := [{ l with st := .done }] })) ∧
     ((∃ m ∈ o.lines, m.line ≠ line ∧ m.st ≠ .done) → exec (.atomicReply op line) s = .next (acked.releaseHeld o.core)) ∧
     (∀ k ∈ l.keys, k.c < 1024 → (s.clk + travel o.core h, Instr.replyAcknowledgeNotice k.s (k.c * 64 + h)) ∈ acked.agenda)) ∧
   (∀ (n key : Nat) (s : State), exec (.replyAcknowledgeNotice n key) s =
     .next { s with results := s.results.filter fun r => !(decide (r.slice = key % 64) && decide (r.req = (key / 64, n))) })) ∧
  ((∀ (s : State) (pa : Nat),
     let key := fun (c : Contribution) => ((c.req.1 * 256 + c.crew) * 64 + c.lane) * 2 ^ 40 + c.order
     let mine := s.contribs.filter fun c => c.pa = pa
     let sum := (s.pendingOn pa).foldl (fun (r : Word32 × BitVec 8) c =>
       let x := if c.f32 then f32Add plainMode r.1 c.val else (r.1 + c.val, 0)
       (x.1, r.2 ||| x.2)) (s.homeWord pa, 0)
     (s.pendingOn pa).Perm mine ∧ (s.pendingOn pa).Pairwise (fun x y => key x ≤ key y) ∧
     s.flushWord pa = ({ s.setHome pa sum.1 with contribs := s.contribs.filter fun c => c.pa ≠ pa }, sum.2) ∧
     ((∀ c ∈ mine, c.f32 = false) → sum = (mine.foldl (fun r c => r + c.val) (s.homeWord pa), 0)) ∧
     (∀ (o : MemOp) (l : LaneAcc), o.kind = .radd 2 false → l.pa = some pa → s.serviceTime o [l] 0 = 40 + mine.length)) ∧
   (∀ (s : State) (pa : Nat) (h : Held),
     let a := s.ordAccs.find? fun a => a.pa / 32 = pa / 32 && !a.done
     (a = none → s.contribute pa h = (s, flREDERR)) ∧
     (∀ x, a = some x → (∃ y ∈ x.held, y.key = h.key) → s.contribute pa h =
       ({ s with ordAccs := mapIf (fun y => y.pa = x.pa) (fun y => { y with err := true }) s.ordAccs }, flREDERR)) ∧
     (∀ x, a = some x → (∀ y ∈ x.held, y.key ≠ h.key) → x.held.length + 1 ≠ x.n → s.contribute pa h =
       ({ s with ordAccs := mapIf (fun y => y.pa = x.pa) (fun _ => { x with held := x.held ++ [h] }) s.ordAccs }, 0)) ∧
     (∀ x, a = some x → (∀ y ∈ x.held, y.key ≠ h.key) → x.held.length + 1 = x.n →
       let order := sortBy (fun (y : Held) => y.key) (x.held ++ [h])
       let sum := order.foldl (fun (r : Word32 × BitVec 8) y =>
         let z := if x.f32 then f32Add plainMode r.1 y.val else (r.1 + y.val, 0)
         (z.1, r.2 ||| z.2)) (0, 0)
       let image : OrdAcc := { x with held := x.held ++ [h], done := true, nv := x.nv || sum.2.getLsbD 0, ovf := x.ovf || sum.2.getLsbD 1 }
       let t := (s.contribute pa h).1
       (s.contribute pa h).2 = 0 ∧ order.Perm (x.held ++ [h]) ∧ order.Pairwise (fun y z => y.key ≤ z.key) ∧
       t.ordAccs = s.ordAccs.filter (fun y => y.pa ≠ x.pa) ∧
       t.mem = ((List.range 8).foldl (fun (u : State) k => u.setHome (x.pa + 4 * k) (image.imageWord k)) (s.setHome x.resultPa sum.1)).mem ∧
       (image.imageWord 0).getLsbD 2 = true ∧ (image.imageWord 0).getLsbD 0 = false ∧ (image.imageWord 0).getLsbD 3 = x.err ∧
       (image.imageWord 0).getLsbD 4 = image.nv ∧ (image.imageWord 0).getLsbD 5 = image.ovf)) ∧
   (∀ (c : Bool) (g : BitVec 3) (n : BitVec 5) (a b : BitVec 7) (s : State) (is : Issue) (w : Wg), Issues s is w → active is w g ≠ [] →
     let ctl := (uniSrc s is w b.toNat).toNat
     let res := (uniS is w n.toNat).toNat
     let obj := (uniSrc s is w a.toNat).toNat
     (ctl ≥ 8192 → exec (.orinit c g n a b) s = .next (s.trapHere is w.id (trapping is w g) .illop)) ∧
     (ctl < 8192 → s.markedOp is w = none →
       (∀ t k wr ad, s.orinitStep w obj res = .fault t k wr ad → exec (.orinit c g n a b) s = .next (s.memFaultOnce is w g t k wr ad)) ∧
       (∀ va p, s.orinitStep w obj res = .walk va p → exec (.orinit c g n a b) s = .next (s.regionWalk is w g .orinit va p)) ∧
       (∀ pa rpa m, s.orinitStep w obj res = .ok pa [(rpa, m)] →
         let o : MemOp := { newOp s is w .orinit ((active is w g).map fun t => laneAcc t obj 0 0) none none false with
           phase := 2, a := obj, n := ctl, c := res, m := rpa }
         exec (.orinit c g n a b) s =
           .next ((o.lines.foldl (fun (s : State) l => s.sendLine o.id l.line) (s.addOp o)).parkMark is w.id (.opEnd o.id) o.id))) ∧
     (∀ o, ctl < 8192 → s.markedOp is w = some o → o.fail = none → o.phase = 3 →
       exec (.orinit c g n a b) s = .next ((s.dropOp o.id).retire is w.id))) ∧
   (∀ (c : Bool) (g : BitVec 3) (d : BitVec 6) (a b : BitVec 7) (s : State) (is : Issue) (w : Wg), Issues s is w → active is w g ≠ [] →
     let reg := fun (t : Nat) => match w.thread? t with | some x => x.reg d.toNat | none => (0 : Word32)
     let lanes := (active is w g).map fun t => laneAcc t (uniSrcAt s is w t a.toNat).toNat (reg t) (laneSrc s is w t b.toNat).1
     let o : MemOp := { newOp s is w .oadd lanes none none false with n := w.width, latch := lostLatches s is w (active is w g) [b] }
     (∀ k bad, addrCause lanes = some (k, bad) → exec (.oadd c g d a b) s = .next (s.memFault is w g .memfault k true bad)) ∧
     (addrCause lanes = none → (∀ l ∈ o.lines, l.pa ≠ none) → ∀ t k bad, s.writeCauseOf true o.lanes = some (t, k, bad) →
       exec (.oadd c g d a b) s = .next (s.memFault is w g t k true bad)) ∧
     (addrCause lanes = none → (∀ l ∈ o.lines, l.pa ≠ none) → s.writeCauseOf true o.lanes = none →
       exec (.oadd c g d a b) s = .next (((s.addOp o).retire is w.id).updateReady o)) ∧
     (addrCause lanes = none → (∃ l ∈ o.lines, l.pa = none) →
       exec (.oadd c g d a b) s = .next (((s.addOp o).block is w.id o.id).walkLines o))))

/-! ### Control flow, futures, fences and barriers (13_control, 14_futures, 17_barriers) -/

/-- R45, R252, R253, R258, R261: where the target is a valid one, br moves the active threads and brp the whole group, jmp and calli go to the
address that the source names, and call and calli push the word behind the group on each moved thread's return stack, which holds at most
16; ret takes every active thread back to its top entry, whose overlay must be loaded in its frame. A moved thread issues again 3 clk later.
An invalid target, a full stack on a push, and a ret that some active thread cannot make take ILLOP; with no active thread br, brp, call and
ret only go on. The starter stream has the same words. Completion: br, brp, jmp, call, calli, ret. R254, R259, R260, R303 and R314: exit
ends its active threads and no other thread; a starter's exit with empty queues leaves the starter idle, with its code; yield goes on, a
taking thread 3 clk later, and where the workgroup is due to vacate or to be pre-empted each crew with an active thread leaves, its threads
that stand at the yield, on it or on filler words before it (R35), resuming behind it. Completion: exit, yield. -/
def Obligations.ControlWords : Prop :=
  ((∀ (g : BitVec 3) (f : BitVec 21) (a : BitVec 7) (s : State) (is : Issue) (w : Wg), Issues s is w → active is w g ≠ [] →
     let dest : Int := (is.addr.word.toNat / 3 * 3 * 4 : Nat) + 12 * f.toInt
     let val := (uniSrc s is w a.toNat).toNat
     let valid := fun (off : Nat) => off % 12 = 0 ∧ off < 4 * (s.frameCode w.core is.addr.frame).length
     let pc := fun (off : Nat) => ({ frame := is.addr.frame, word := BitVec.ofNat 14 (off / 4) } : Pc)
     let entry : RetEntry := { frame := is.next.frame, ovl := s.frameOvl w.core is.next.frame, word := is.next.word }
     let deep := ∃ t ∈ active is w g, ∃ x, w.thread? t = some x ∧ x.rstack.length ≥ 16
     let moves := fun (i : Instr) (ts : List Nat) (p : Thread → Pc) (h : Thread → Thread) => exec i s = .next (s.take is w ts p h)
     let illop := fun (i : Instr) => exec i s = .next (s.trapHere is w.id is.threads .illop)
     (0 ≤ dest → valid dest.toNat →
       moves (.br g f) (active is w g) (fun _ => pc dest.toNat) id ∧ moves (.brp g f) is.threads (fun _ => pc dest.toNat) id ∧
       (¬ deep → moves (.call g f) (active is w g) (fun _ => pc dest.toNat) (fun t => { t with rstack := entry :: t.rstack })) ∧
       (deep → illop (.call g f))) ∧
     ((dest < 0 ∨ ¬ valid dest.toNat) → illop (.br g f) ∧ illop (.brp g f) ∧ illop (.call g f)) ∧
     (val < 2 ^ 16 → valid val → moves (.jmp g a) (active is w g) (fun _ => pc val) id ∧
       (¬ deep → moves (.calli g a) (active is w g) (fun _ => pc val) (fun t => { t with rstack := entry :: t.rstack })) ∧
       (deep → illop (.calli g a))) ∧
     ((val ≥ 2 ^ 16 ∨ ¬ valid val) → illop (.jmp g a) ∧ illop (.calli g a)) ∧
     (let can := ∀ t ∈ active is w g, ∃ x e l o n, w.thread? t = some x ∧ x.rstack = e :: l ∧
        (s.frame w.core e.frame).ovl = some (o, n) ∧ e.ovl = BitVec.ofNat 8 n
      (can → moves (.ret g) (active is w g)
          (fun t => match t.rstack with | e :: _ => { frame := e.frame, word := e.word } | [] => t.pc)
          (fun t => { t with rstack := t.rstack.drop 1 })) ∧
      (¬ can → illop (.ret g)))) ∧
   (∀ (g : BitVec 3) (f : BitVec 21) (a : BitVec 7) (s : State) (is : Issue) (w : Wg), Issues s is w → active is w g = [] →
     let on := Host.Outcome.next (s.retire is w.id)
     let val := (uniSrc s is w a.toNat).toNat
     exec (.br g f) s = on ∧ exec (.brp g f) s = on ∧ exec (.call g f) s = on ∧ exec (.ret g) s = on ∧
     (val < 2 ^ 16 → val % 12 = 0 → val < 4 * (s.frameCode w.core is.addr.frame).length →
       exec (.jmp g a) s = on ∧ exec (.calli g a) s = on)) ∧
   (∀ (g : BitVec 3) (f : BitVec 21) (a : BitVec 7) (s : State) (is : Issue) (q : Nat) (k : Starter), StarterIssues s is q k →
     guardOn k.p g = true →
     let dest : Int := (is.addr.word.toNat / 3 * 3 * 4 : Nat) + 12 * f.toInt
     let val := (starterSrc s is q k a.toNat).toNat
     let valid := fun (off : Nat) => off % 12 = 0 ∧ off < 4 * (s.starter q).code.length
     let moves := fun (i : Instr) (off : Nat) (h : Starter → Starter) => exec i s =
       .next (s.starterTake q { frame := false, word := BitVec.ofNat 14 (off / 4) } h)
     let push := fun (k : Starter) => { k with rstack := { frame := false, ovl := 0, word := is.next.word } :: k.rstack }
     (0 ≤ dest → valid dest.toNat → moves (.br g f) dest.toNat id ∧ moves (.brp g f) dest.toNat id ∧
       (k.rstack.length < 16 → moves (.call g f) dest.toNat push) ∧
       (k.rstack.length ≥ 16 → exec (.call g f) s = .next (s.starterTrapHere is q .illop))) ∧
     (dest < 0 → exec (.br g f) s = .next (s.starterTrapHere is q .illop)) ∧
     (val < 2 ^ 15 → valid val → moves (.jmp g a) val id ∧ (k.rstack.length < 16 → moves (.calli g a) val push)) ∧
     (∀ e r, k.rstack = e :: r → exec (.ret g) s =
       .next (s.starterTake q { frame := false, word := e.word } fun x => { x with rstack := r })) ∧
     (k.rstack = [] → exec (.ret g) s = .next (s.starterTrapHere is q .illop)))) ∧
  ((∀ (g : BitVec 3) (s : State) (is : Issue) (w : Wg), Issues s is w →
     (active is w g = [] → exec (.exit g) s = .next (s.retire is w.id)) ∧
     (active is w g ≠ [] → ∃ t, exec (.exit g) s = .next t ∧ t.mem = s.mem ∧
       ∀ v x, t.wg? w.id = some v → s.wg? w.id = some x → ∀ n, (v.thread? n).map (fun y => y.exited) =
         (x.thread? n).map fun y => y.exited || decide (n ∈ active is w g)) ∧
     let past := s.take is w (active is w g) (fun _ => is.next) id
     (w.due = none → w.evict = false → exec (.yield g) s = .next past) ∧
     (w.due ≠ none ∨ w.evict = true → exec (.yield g) s =
       .next ((past.modWg w.id fun x => x.modThreads ((activeCrews is w g).flatMap x.crewThreads) fun t =>
         if is.first = is.addr ∧ t.exited = false ∧ t.wait = .ready ∧ beginAt (s.frameCode w.core t.pc.frame) t.pc = is.addr
         then { t with pc := is.next } else t).postAll ((activeCrews is w g).map fun n => (0, .crewVacate w.id n))))) ∧
   (∀ (g : BitVec 3) (s : State) (is : Issue) (q : Nat) (k : Starter), StarterIssues s is q k → guardOn k.p g = true →
     (exec (.yield g) s = .next (s.starterTake q is.next id)) ∧
     ((∀ i, i < 4 → (s.core (quadCore q i)).queue = []) → ∃ t, exec (.exit g) s = .next t ∧ (t.starter q).run = none ∧
       (t.starter q).code = (s.starter q).code)))

/-- R263, R264 and R265: with h_n of the group's crew PENDING, that is holding a reference, fwait parks and ftest gives 0; otherwise fwait
goes on and ftest gives 1. fmov copies the register, exports its handle value to s_d, or imports one, a value that is no handle taking
ILLOP. fcancel of a register that holds no reference only goes on. Completion: fwait, ftest, fcancel, fmovHh, fmovSh, fmovHs. -/
def Obligations.Futures : Prop :=
  ∀ (c : Bool) (g : BitVec 3) (wr : Bool) (p : BitVec 3) (d : BitVec 5) (h e : BitVec 4) (a : BitVec 7) (s : State) (is : Issue) (w : Wg),
    Issues s is w → active is w g ≠ [] →
    let reg := fun (n : Nat) => match w.crew? (w.crewOf (is.threads.headD 0)) with | some x => x.h.getD n .empty | none => HReg.empty
    let pending := ∃ en ge, reg h.toNat = .ref en ge
    let put := fun (u : State) (v : HReg) => (u.modWg w.id fun x => x.modCrews (activeCrews is w g) fun y => { y with h := y.h.set e.toNat v })
    let test := fun (b : Bool) => exec (.ftest c g wr p h) s =
      .next (s.finish is w { p := if wr then [] else (active is w g).map fun t => (t, p.toNat, b) } 1)
    (pending → exec (.fwait c g h) s = .next (s.park is w.id (.settled (w.crewOf (is.threads.headD 0)) h.toNat)) ∧ test false) ∧
    (¬ pending → exec (.fwait c g h) s = .next (s.retire is w.id) ∧ test true ∧ exec (.fcancel c g h) s = .next (s.retire is w.id)) ∧
    (∀ en ge, reg h.toNat = .ref en ge → (s.words.map fun x => x.id).Nodup → ∃ t, exec (.fcancel c g h) s = .next t ∧ t.mem = s.mem ∧
      t.words = mapIf (fun x => x.core = w.core && decide (x.entry = en) && x.kind != .ovl) (fun x => { x with cancel := true }) s.words) ∧
    (exec (.fmovHh c g wr e h) s = .next (if wr then s.retire is w.id else put (s.retire is w.id) (reg h.toNat))) ∧
    (exec (.fmovSh c g wr d h) s = .next (s.finish is w
      { s := if wr then [] else (activeCrews is w g).map fun x => (x, d.toNat, handleValue w.core (reg h.toNat)) } 1)) ∧
    (s.importHandle w.core (uniSrc s is w a.toNat) = none →
      exec (.fmovHs c g wr e a) s = .next (s.trapHere is w.id (trapping is w g) .illop)) ∧
    (∀ v, s.importHandle w.core (uniSrc s is w a.toNat) = some v →
      exec (.fmovHs c g wr e a) s = .next (if wr then s.retire is w.id else put (s.retire is w.id) v))

/-- R234 to R238: a fence with no older operation of its scope and no older result of a memory word or barrier test outstanding completes 2 clk
later, and parks else; xfence waits as well for the issuing threads' older engine words and, with OUT, for the committed records below the
TAIL at its issue, which threads that have parked at it keep, and with IN empties the core's view cache, which no load in flight then fills.
R313 to R318: threads that come to a bar arrive in its episode; one that is aborted gives ABORT, and one that has released lets its threads
go on; a bar at package or pod scope with a group number of 256 or more takes ILLOP, and one of a group that does not list the workgroup
MEMFAULT; a starter's bar of another scope than quad or die takes ILLOP. The release of an episode ends it and touches the threads parked in
it alone. Completion: fence, xfence, bar, barrierEpisodeRelease. R319 to R325, the objects in a scratchpad. A reference whose offset is no
multiple of 16 takes MEMFAULT with cause ALIGN and one outside the allocation RANGE; an object that is not valid takes BARRIER (cause 3), as
binit of a count outside 1 to 4,095 does. binit sets the object up; barrive of no more arrivals than are left counts them, the last
beginning the next phase with the count full again, and gives offset, phase and what is left; more arrivals than are left record the overrun
and trap. bwait of a phase that is over or of an overrun gives its outcome and the phase, its next group 2 clk later, and waits else; a
waiter keeps what it finds in the clk in which its wait ends, the bound's expiry too, and gives that, its next group 2 clk behind that clk
(R402); btest gives whether the phase is over or overrun. Completion: binit, barrive, bwait, btest, bwaitBoundExpiry. -/
def Obligations.FencesAndBarriers : Prop :=
  ((∀ (c : Bool) (g : BitVec 3) (out inn : Bool) (sc : BitVec 3) (s : State) (is : Issue) (w : Wg), Issues s is w → active is w g ≠ [] →
     let ops := (s.ops.filter fun o => decide (o.wg = w.id) && decide (o.id < is.older) && o.kind.fenceWaits sc.toNat &&
       o.threads.any fun t => t ∈ is.threads).map fun o => o.id
     let pends := match s.wg? w.id with
       | some x => (x.pend.filter fun p => decide (p.id < is.older) && p.mem.any fun t => decide (t ∈ is.threads)).map fun p => p.id
       | none => []
     let words := (s.words.filter fun x => decide (x.wg = w.id) && decide (x.id < is.older) && x.threads.any fun t =>
       decide (t ∈ is.threads)).map fun x => x.id
     let kept := (issueNotes is w).map fun n => n.val
     let tail := if kept = [] then (s.core w.core).log.tail else kept.foldl max 0
     let left := ∃ r ∈ (s.core w.core).log.recs, r.live = true ∧ r.committed = true ∧ r.num < tail
     (ops = [] → pends = [] → exec (.fence c g sc) s = .next (s.retireAt is w.id 2)) ∧
     ((ops ≠ [] ∨ pends ≠ []) → exec (.fence c g sc) s = .next (s.park is w.id (.drained ops [] pends 0))) ∧
     ((ops ≠ [] ∨ pends ≠ [] ∨ words ≠ [] ∨ (out = true ∧ left)) →
       exec (.xfence c g out inn sc) s = .next (s.parkNote is w.id (.drained ops words pends (if out then tail else 0)) tail)) ∧
     (ops = [] → pends = [] → words = [] → (out = true → ¬ left) →
       (inn = false → exec (.xfence c g out inn sc) s = .next (s.retireAt is w.id 2)) ∧
       (inn = true → exec (.xfence c g out inn sc) s =
         .next ((s.dropLines w.core fun _ => true).retireAt is w.id (2 + ((s.core w.core).view.length + 7) / 8))))) ∧
   (∀ (c : Bool) (g : BitVec 3) (a : BitVec 7) (sc : BitVec 3) (s : State) (is : Issue) (w : Wg), Issues s is w → is.threads ≠ [] →
     (∀ t ∈ is.threads, ∀ x, w.thread? t = some x → x.mark = none) →
     let gid := (uniSrc s is w a.toNat).toNat
     let comes := fun (r : Episode × State) => Host.Outcome.next (r.2.barArrive is w (active is w g) r.1)
     (sc.toNat ≤ 3 → exec (.bar c g a sc) s = comes (s.openEpisode sc.toNat w is.threads)) ∧
     (sc.toNat ≥ 4 → active is w g ≠ [] → gid ≥ 256 → exec (.bar c g a sc) s = .next (s.trapHere is w.id (trapping is w g) .illop)) ∧
     (sc.toNat ≥ 4 → active is w g ≠ [] → gid < 256 → (∀ ms, s.groupMembers w gid = some ms → Member.group w.part w.index ∉ ms) →
       exec (.bar c g a sc) s = .next (s.memFaultOnce is w g .memfault 3 false gid)) ∧
     (∀ ms, sc.toNat ≥ 4 → gid < 256 → s.groupMembers w gid = some ms → Member.group w.part w.index ∈ ms →
       let r := s.groupEpisode sc.toNat w is.threads gid ms
       (r.1.aborted = false → exec (.bar c g a sc) s = comes r) ∧
       (r.1.aborted = true → exec (.bar c g a sc) s = .next (r.2.barOwed is w g r.1)))) ∧
   (∀ (c : Bool) (g : BitVec 3) (a : BitVec 7) (sc : BitVec 3) (m : Nat) (s : State) (is : Issue) (w : Wg), Issues s is w → is.threads ≠ [] →
     (∀ t ∈ is.threads, ∃ x, w.thread? t = some x ∧ x.mark = some m) →
     ((∀ e ∈ s.episodes, e.id ≠ m) → exec (.bar c g a sc) s = .next (s.retire is w.id)) ∧
     (∀ e, s.episodes.find? (fun e => e.id = m) = some e →
       (e.aborted = true → exec (.bar c g a sc) s = .next (s.trapHere is w.id (trapping is w g) .abort)) ∧
       (e.aborted = false → exec (.bar c g a sc) s = .next (s.barArrive is w (active is w g) e)))) ∧
   (∀ (c : Bool) (g : BitVec 3) (a : BitVec 7) (sc : BitVec 3) (s : State) (is : Issue) (q : Nat) (k : Starter), StarterIssues s is q k →
     guardOn k.p g = true →
     (sc ≠ 2 → sc ≠ 3 → exec (.bar c g a sc) s = .next (s.starterTrapHere is q .illop)) ∧
     ((∀ i, i < 4 → ∀ o ∈ (s.core (quadCore q i)).queue, ¬ o.id < is.older) →
       exec (.fence c g sc) s = .next (s.starterRetireAt is q 2) ∧
       (∀ gr n x, (sc = 2 ∨ sc = 3) → k.mark = none → k.run = some (gr, n) → s.grid? gr = some x →
         let r := s.starterEpisode sc.toNat q x.part
         exec (.bar c g a sc) s = .next ((r.2.starterPark is q (.episode r.1.id) (some r.1.id)).arrive r.1 (.starter q)
           (match s.starterWg q with | some w => s.barMembers sc.toNat w | none => [.starter q]))))) ∧
   (∀ (id : Nat) (s : State), ∃ t, exec (.barrierEpisodeRelease id) s = .next t ∧ t.mem = s.mem ∧
     (t.episodes = s.episodes.filter fun e => e.id ≠ id) ∧
     (∀ n w v i x, s.wg? n = some w → t.wg? n = some v → w.thread? i = some x → x.wait ≠ .parked (.episode id) → v.thread? i = some x))) ∧
  ((∀ (c : Bool) (g : BitVec 3) (n : BitVec 5) (d : BitVec 5) (p : BitVec 3) (wr : Bool) (a : BitVec 7) (k tb : BitVec 4) (s : State) (is : Issue)
     (w : Wg), Issues s is w → active is w g ≠ [] →
     let v := uniSrc s is w a.toNat
     let off := v.toNat % 2 ^ 18
     let phase := v.toNat / 2 ^ 24 % 16
     let byte := w.scratchBase + off
     let mem := (s.core w.core).scratch
     let w0 := (mem.word byte).toNat
     let count := w0 % 4096
     let target := w0 / 4096 % 4096
     let ph := w0 / 2 ^ 24 % 16
     let ovr := w0.testBit 28
     let here := off % 16 = 0 ∧ off + 16 ≤ w.scratchBytes
     let present := byte / 128 ∉ (s.core w.core).absent
     let size := (uniS is w n.toNat).toNat
     let first := fun (c t f : Nat) (o : Bool) => BitVec.ofNat 32 (c + t * 4096 + f % 16 * 2 ^ 24 + (if o then 2 ^ 28 else 0) + 2 ^ 29)
     let put := fun (c t f : Nat) (o : Bool) (w2 w3 : Word32) =>
       s.modCore w.core fun x => { x with scratch := x.scratch.setWords byte [first c t f o, 0, w2, w3] }
     let gives := fun (u : State) (r : Nat) (lat : Nat) => u.finish is w
       { s := if wr then [] else (activeCrews is w g).map fun x => (x, d.toNat, BitVec.ofNat 64 r) } lat
     (off % 16 ≠ 0 → exec (.binit c g n a) s = .next (s.memFaultOnce is w g .memfault 1 true off) ∧
       exec (.barrive c g wr d a k) s = .next (s.memFaultOnce is w g .memfault 1 true off) ∧
       exec (.bwait c g wr d a tb) s = .next (s.memFaultOnce is w g .memfault 1 false off) ∧
       exec (.btest c g wr p a) s = .next (s.memFaultOnce is w g .memfault 1 false off)) ∧
     (off % 16 = 0 → off + 16 > w.scratchBytes → exec (.binit c g n a) s = .next (s.memFaultOnce is w g .memfault 3 true off) ∧
       exec (.barrive c g wr d a k) s = .next (s.memFaultOnce is w g .memfault 3 true off) ∧
       exec (.bwait c g wr d a tb) s = .next (s.memFaultOnce is w g .memfault 3 false off) ∧
       exec (.btest c g wr p a) s = .next (s.memFaultOnce is w g .memfault 3 false off)) ∧
     (here → (size < 1 ∨ size > 4095) → exec (.binit c g n a) s = .next (s.barTrap is w g 3 off)) ∧
     (here → 1 ≤ size → size ≤ 4095 → exec (.binit c g n a) s = .next ((put size size 0 false 0 0).retireAt is w.id 2)) ∧
     (here → present → w0.testBit 29 = false → exec (.barrive c g wr d a k) s = .next (s.barTrap is w g 3 off) ∧
       exec (.bwait c g wr d a tb) s = .next (s.barTrap is w g 3 off) ∧ exec (.btest c g wr p a) s = .next (s.barTrap is w g 3 off)) ∧
     (here → present → w0.testBit 29 = true → ovr = true → exec (.barrive c g wr d a k) s = .next (s.barTrap is w g 2 off)) ∧
     (here → present → w0.testBit 29 = true → ovr = false → k.toNat > count → ∃ w3, exec (.barrive c g wr d a k) s =
       .next ((put count target ph true (mem.word (byte + 8)) w3).barTrap is w g 1 off)) ∧
     (here → present → w0.testBit 29 = true → ovr = false → k.toNat < count → exec (.barrive c g wr d a k) s =
       .next (gives (put (count - k.toNat) target ph false (mem.word (byte + 8)) (mem.word (byte + 12)))
         (off + ph * 2 ^ 24 + (count - k.toNat) * 2 ^ 32) 4)) ∧
     (here → present → w0.testBit 29 = true → ovr = false → k.toNat = count → exec (.barrive c g wr d a k) s =
       .next (gives (put target target (ph + 1) false (mem.word (byte + 8) + 1) (mem.word (byte + 12))) (off + ph * 2 ^ 24) 4)) ∧
     (here → present → w0.testBit 29 = true → exec (.btest c g wr p a) s = .next (s.finishMem is w
       { p := if wr then [] else (active is w g).map fun t => (t, p.toNat, decide (ph ≠ phase) || ovr) } 4)) ∧
     (here → present → w0.testBit 29 = true →
       let ends := fun (r : Nat) => exec (.bwait c g wr d a tb) s = .next ((gives s (r + ph * 16) 1).modWg w.id fun x =>
         x.modThreads is.threads fun y => { y with notBefore := s.clk + 2 })
       (∀ n ∈ issueNotes is w, n.val = 0) → (ph ≠ phase → ends 0) ∧ (ph = phase → ovr = true → ends 2) ∧
         (ph = phase → ovr = false → exec (.bwait c g wr d a tb) s =
           .next (s.parkNote is w.id (.object byte phase (if tb = 15 then none else some (s.clk + 2 ^ (tb.toNat + 6)))) 0))) ∧
     (here → present → ∀ n, (issueNotes is w).find? (fun n => n.val ≠ 0) = some n → exec (.bwait c g wr d a tb) s =
       .next ((gives s (n.val - 1) 1).modWg w.id fun x => x.modThreads is.threads fun y =>
         { y with notBefore := max (n.clk + 2) (s.clk + 1) }))) ∧
   (∀ (w : Wg) (byte phase : Nat) (bound : Option Nat) (s : State),
     let w0 := ((s.core w.core).scratch.word byte).toNat
     let ph := w0 / 2 ^ 24 % 16
     let finds := fun (r : Nat) => s.bwaitFinds w (.object byte phase bound) = r
     (w0.testBit 29 = true → (ph ≠ phase → finds (ph * 16 + 1)) ∧ (ph = phase → w0.testBit 28 = true → finds (ph * 16 + 3)) ∧
       (∀ b, ph = phase → w0.testBit 28 = false → bound = some b → b ≤ s.clk → finds (ph * 16 + 2)) ∧
       (ph = phase → w0.testBit 28 = false → (∀ b, bound = some b → s.clk < b) → finds 0))) ∧
   (∀ (wg crew since : Nat) (s : State),
     (s.wg? wg = none → exec (.bwaitBoundExpiry wg crew since) s = .next s) ∧
     (∀ w, s.wg? wg = some w →
       let over_ := (w.crewThreads crew).filter fun t =>
         s.boundOver w t && (match w.thread? t with | some x => decide (x.since = since) | none => false)
       exec (.bwaitBoundExpiry wg crew since) s = .next (s.modWg wg fun x => x.modThreads over_ fun t =>
         match t.wait with
         | .parked k => { t with wait := .ready, latches := [], since := s.clk, notBefore := max t.notBefore s.clk
                                 notes := t.notes.map fun n => if n.clk = t.since && s.bwaitFinds w k ≠ 0 then
                                   { n with val := s.bwaitFinds w k, clk := s.clk } else n }
         | _ => t))))

/-! ### The system group (18_system, 19_traps) -/

/-- R330, R336, R337: a word that names a register its stream does not have takes ILLOP; sysrd of a crew's register writes its value, zero-
extended, to s_D of each crew with an active thread, 1 clk later; sysrd of RX0 to RX3 is a receive (R284) and syswr of TX0 to TX3 a transmit
(R283); syswr of any other register writes the register's writable bits in each such crew and changes no read-only one. What a clk has
changed of a crew's registers is kept as it stood for the later words of its run (R34, R336): put back, it gives the crew before the write.
A starter reads and writes its own registers. Completion: sysrd, syswr, transmitRegisterWrite, receiveRegisterRead. R327 to R330 and R338:
caprd of an offset that is no multiple of 8 takes MEMFAULT with cause ALIGN, of one of 4,096 or more RANGE, and else gives the word after 2
clk; flagrd gives the flag word (0) or a flag's mask (1 to 8), and takes ILLOP above; flagclr of a value above 255 takes ILLOP and else
clears the flags it names, with their masks, but for those raised in this clk. Completion: caprd, flagrd, flagclr. -/
def Obligations.SystemRegistersAndFlags : Prop :=
  ((∀ (c : Bool) (g : BitVec 3) (wr : Bool) (d : BitVec 5) (n : BitVec 14) (s : State) (is : Issue) (w : Wg), Issues s is w →
     active is w g ≠ [] →
     let v := uniS is w d.toNat
     let illop := fun (i : Instr) => exec i s = .next (s.trapHere is w.id (trapping is w g) .illop)
     let named := n.toNat ∈ [1, 0x40, 0x41, 0x42, 0x43, 0x44, 0x45, 0x46, 0x47, 0x50, 0x54, 0x5C, 0x60, 0x61, 0x62, 0x63, 0x70, 0x71, 0x72, 0x73,
       0x74, 0x75, 0x76, 0x77, 0x78, 0x80]
     (¬ named → illop (.sysrd c g wr d n) ∧ illop (.syswr c g d n)) ∧
     (0x74 ≤ n.toNat → n.toNat ≤ 0x78 → illop (.syswr c g d n)) ∧
     (0x70 ≤ n.toNat → n.toNat ≤ 0x73 → illop (.sysrd c g wr d n) ∧
       exec (.syswr c g d n) s = .next (s.transmit is w (trapping is w g) (n.toNat - 0x70) v)) ∧
     (0x74 ≤ n.toNat → n.toNat ≤ 0x77 →
       exec (.sysrd c g wr d n) s = .next (s.receive is w (activeCrews is w g) (n.toNat - 0x74) d.toNat wr)) ∧
     (named → n.toNat < 0x70 ∨ n.toNat = 0x80 → exec (.syswr c g d n) s = .next ((s.retire is w.id).modWg w.id fun x =>
       (x.modCrews (activeCrews is w g) fun k => k.sysWrite n.toNat (if n = 0x42 then v &&& laneMask w.width else v)).wroteIn
         (w.crewsOf is.threads) s.clk)) ∧
     (∀ k, w.crew? (w.crewOf (is.threads.headD 0)) = some k →
       let gives := fun (x : Dbl) => exec (.sysrd c g wr d n) s = .next (s.finish is w
         { s := if wr then [] else (activeCrews is w g).map fun c => (c, d.toNat, x) } 1)
       (n = 1 → gives ((s.coreid w.core).zeroExtend 64)) ∧ (n = 0x40 → gives (k.fpctl.zeroExtend 64)) ∧
       (n = 0x41 → gives (k.repctl.zeroExtend 64)) ∧ (n = 0x42 → gives k.members) ∧ (n = 0x43 → gives (k.tvec.zeroExtend 64)) ∧
       (n = 0x44 → gives (k.tinfo.zeroExtend 64)) ∧ (n = 0x45 → gives (k.tpc.zeroExtend 64)) ∧ (n = 0x46 → gives k.tval) ∧
       (n = 0x47 → gives (k.flagen.zeroExtend 64)) ∧ (n = 0x60 → gives (k.mfinfo.zeroExtend 64)) ∧ (n = 0x61 → gives k.mfaddr) ∧
       (n = 0x62 → gives k.mflanes) ∧ (n = 0x63 → gives (k.barinfo.zeroExtend 64)) ∧
       (n = 0x50 → gives ((s.core w.core).mslot.zeroExtend 64)) ∧ (n = 0x54 → gives (((s.core w.core).marray s.clk).zeroExtend 64)) ∧
       (n = 0x5C → gives ((s.core w.core).mtile.zeroExtend 64)) ∧ (n = 0x78 → gives k.rlstat) ∧
       (n = 0x80 → gives ((s.tslice w).zeroExtend 64)))) ∧
   (∀ (c : Bool) (g : BitVec 3) (wr : Bool) (d : BitVec 5) (n : BitVec 14) (s : State) (is : Issue) (q : Nat) (k : Starter),
     StarterIssues s is q k → guardOn k.p g = true →
     (s.starterSysRead q k n.toNat = none → exec (.sysrd c g wr d n) s = .next (s.starterTrapHere is q .illop)) ∧
     (∀ v, s.starterSysRead q k n.toNat = some v →
       exec (.sysrd c g wr d n) s = .next (s.starterFinish is q (if wr then [] else [(d.toNat, v)]) [] 0 1)) ∧
     (n.toNat ∈ [0x43, 0x44, 0x45, 0x46, 0x47, 0x58, 0x59, 0x5A, 0x60, 0x61, 0x62] → exec (.syswr c g d n) s =
       .next ((s.modStarter q fun x => { x.sysWrite n.toNat (k.s.getD d.toNat 0) with wrote := s.clk + 1 }).starterRetire is q))) ∧
   (∀ (k : Crew) (v : Dbl),
     let x : Word32 := v.truncate 32
     k.sysWrite 0x43 v = { k with tvec := x &&& 0x8001FFFF } ∧ k.sysWrite 0x45 v = { k with tpc := x &&& 0x007FFFFF } ∧
     k.sysWrite 0x46 v = { k with tval := v } ∧ k.sysWrite 0x47 v = { k with flagen := x &&& 0xFF } ∧
     k.sysWrite 0x40 v = { k with fpctl := x &&& 0xF } ∧ k.sysWrite 0x42 v = { k with members := v } ∧
     (k.sysWrite 0x44 v).tinfo.getLsbD 8 = k.tinfo.getLsbD 8 ∧ (k.sysWrite 0x44 v).tinfo.getLsbD 9 = k.tinfo.getLsbD 9 ∧
     k.sysWrite 1 v = k ∧ k.sysWrite 0x50 v = k ∧ k.sysWrite 0x54 v = k ∧ k.sysWrite 0x5C v = k ∧ k.sysWrite 0x80 v = k) ∧
   (∀ (old : Crew) (n : Nat) (v : Dbl), n ∈ [0x40, 0x41, 0x42, 0x43, 0x44, 0x45, 0x46, 0x47, 0x60, 0x61, 0x62, 0x63] →
     old.sysWrite n (old.sysValue n) = old → (old.hides (old.sysWrite n v)).foldl Crew.before (old.sysWrite n v) = old) ∧
   (∀ (n : Nat) (v : BitVec 64) (d : BitVec 5) (wr : Bool) (s : State) (is : Issue) (w : Wg) (k : Crew), Issues s is w →
     w.crew? (w.crewOf (is.threads.headD 0)) = some k →
     let tx := k.tx.getD n Tx.reset
     let rx := k.rx.getD n Rx.reset
     (tx.link = none → exec (.transmitRegisterWrite n v) s = .next (s.trapHere is w.id is.threads .illop)) ∧
     (tx.link ≠ none → tx.unacked ≥ 4 → exec (.transmitRegisterWrite n v) s = .next (s.park is w.id (.txRoom n))) ∧
     (tx.link ≠ none → tx.unacked < 4 → exec (.transmitRegisterWrite n v) s =
       .next ((s.sendFlit w (w.crewOf (is.threads.headD 0)) n v none).retire is w.id)) ∧
     (rx.queue = [] → exec (.receiveRegisterRead n d wr) s = .next (s.park is w.id (.rxFlit n))) ∧
     (∀ x l, rx.queue = x :: l → exec (.receiveRegisterRead n d wr) s =
       .next ((s.modWg w.id fun y => y.modRx (w.crewOf (is.threads.headD 0)) n fun r => { r with queue := l }).finish is w
         { s := if wr then [] else (w.crewsOf is.threads).map fun c => (c, d.toNat, x) } 1)))) ∧
  ((∀ (c : Bool) (g : BitVec 3) (wr : Bool) (d : BitVec 5) (a : BitVec 7) (s : State) (is : Issue) (w : Wg) (k : Crew), Issues s is w →
     active is w g ≠ [] → w.crew? (w.crewOf (is.threads.headD 0)) = some k →
     let v := uniSrc s is w a.toNat
     let n := v.toNat
     let gives := fun (i : Instr) (x : Dbl) (lat : Nat) => exec i s = .next (s.finish is w
       { s := if wr then [] else (activeCrews is w g).map fun c => (c, d.toNat, x) } lat)
     let illop := fun (i : Instr) => exec i s = .next (s.trapHere is w.id (trapping is w g) .illop)
     (n % 8 ≠ 0 → exec (.caprd c g wr d a) s = .next (s.memFaultOnce is w g .memfault 1 false n)) ∧
     (n % 8 = 0 → n ≥ 4096 → exec (.caprd c g wr d a) s = .next (s.memFaultOnce is w g .memfault 3 false n)) ∧
     (n % 8 = 0 → n < 4096 → gives (.caprd c g wr d a) (s.capWord n) 2) ∧
     (n = 0 → gives (.flagrd c g wr d a) (k.flags.zeroExtend 64) 1) ∧
     (1 ≤ n → n ≤ 8 → gives (.flagrd c g wr d a) (k.masks.getD (n - 1) 0) 1) ∧
     (n ≥ 9 → illop (.flagrd c g wr d a)) ∧
     (n ≥ 256 → illop (.flagclr c g a)) ∧
     (n < 256 → exec (.flagclr c g a) s = .next ((s.retire is w.id).modWg w.id fun x => (x.modCrews (activeCrews is w g) fun y =>
       y.clearFlags (v.truncate 8)).wroteIn (w.crewsOf is.threads) s.clk))) ∧
   (∀ (k : Crew) (f : BitVec 8) (i : Nat), i < 8 →
     ((k.clearFlags f).flags.getLsbD i = true ↔ (k.flags.getLsbD i = true ∧ f.getLsbD i = false) ∨ k.newFlags.getLsbD i = true)) ∧
   (∀ (c : Bool) (g : BitVec 3) (wr : Bool) (d : BitVec 5) (a : BitVec 7) (s : State) (is : Issue) (q : Nat) (k : Starter),
     StarterIssues s is q k → guardOn k.p g = true → (starterSrc s is q k a.toNat).toNat = 0 →
     exec (.flagrd c g wr d a) s = .next (s.starterFinish is q (if wr then [] else [(d.toNat, k.flags.zeroExtend 64)]) [] 0 1)))

/-- R333 and R335, taking an exact trap. A crew whose TVEC is valid, names a place in the code, and is in no handler, takes it there: TINFO
reports the code, the detail, IN and the word, TPC the resume point with its overlay, the handler's threads are those that trap, and each
of them goes to the handler's first word, to issue 4 clk later; every other field of the crew, thread, crew, workgroup, and all of memory
stay. A crew that
does not delegate it stops its workgroup with the trap's code, and TINFO and TPC report the trap. -/
def Obligations.TrapEntry : Prop :=
  ∀ (s : State) (wg crew : Nat) (lanes : List Nat) (t : Trap) (word resume : Pc) (w : Wg) (c : Crew), s.wg? wg = some w →
    w.crew? crew = some c →
    let off := (c.tvec.extractLsb' 0 16).toNat
    let frame := c.tvec.getLsbD 16
    let takes := c.tvec.getLsbD 31 = true ∧ c.tinfo.getLsbD 8 = false ∧ off % 12 = 0 ∧ off < 4 * (s.frameCode w.core frame).length
    let u := s.crewTrap wg crew lanes t word resume
    let tpc := BitVec.ofNat 32 (resume.word.toNat + resume.frame.toNat * 2 ^ 14 + (s.frameOvl w.core resume.frame).toNat * 2 ^ 15)
    let tinfo := fun (inn nest : Nat) => BitVec.ofNat 32 (t.code + t.detail * 16 + inn * 256 + nest * 512 + word.word.toNat * 1024 +
      word.frame.toNat * 2 ^ 24)
    u.mem = s.mem ∧ u.cores = s.cores ∧ u.quads = s.quads ∧ u.agenda = s.agenda ∧ (∀ id, id ≠ wg → u.wg? id = s.wg? id) ∧
    ∃ x, u.wg? wg = some x ∧
      (∀ n, n ≠ crew → x.crew? n = w.crew? n) ∧
      (takes → x.stopped = w.stopped ∧ x.crew? crew = some { c with tinfo := tinfo 1 0, tpc := tpc, trapH := lanes } ∧
        (∀ n, n ∉ lanes.map (fun l => crew * w.width + l) → x.thread? n = w.thread? n) ∧
        (∀ l ∈ lanes, ∀ y, w.thread? (crew * w.width + l) = some y → ∃ z, x.thread? (crew * w.width + l) = some z ∧
          z.pc = { frame := frame, word := BitVec.ofNat 14 (off / 4) } ∧ z.notBefore = s.clk + 4 ∧ z.wait = .ready ∧ z.latches = [] ∧
          z.v = y.v ∧ z.p = y.p ∧ z.rstack = y.rstack ∧ z.exited = y.exited)) ∧
      (¬ takes → x.stopped = some t.code ∧ x.threads = w.threads ∧
        x.crew? crew = some { c with tinfo := tinfo c.inHandler.toNat c.inHandler.toNat, tpc := tpc })

/-- R330, R332, R334: trap writes TVAL and takes USER in the threads whose guard is 1 (the model's choice, log entry 55), resuming behind the
word and its literal; tfence with an older flag or result to come, or one that came less than 2 clk ago, parks (R411); where its wait is
over or there is none, each crew goes by its own flag word (the model's choice for a group of several crews, log entry 85): with no enabled
flag raised it only goes on, one with an enabled arithmetic flag takes ARITH behind the word, and else one with LATCH that trap; tret
outside a handler, or with a TPC that names no loaded code, takes ILLOP, and else returns: IN is cleared, and the live threads of the
handler's set go to TPC. The starter stream has the same words. Completion: trap, tfence, tret. R341: ctxsave and ctxload in a handler take
ILLOP; an image address that is no multiple of 128 takes MEMFAULT with cause ALIGN, one that is not canonical CANON; with a live thread of
the crew elsewhere they park; with older work outstanding they park; and else, with the image translated and a copy channel free, the
transfer takes its time (when it acts is the model's choice, log entry 54), a clk for each line and 40, and keeps the translations of its
lines. Then the image is written in place by those, a line that may not be written giving MEMFAULT, or the crew takes what the image holds,
an image that does not fit the crew giving MEMFAULT with cause RANGE. Completion: ctxsave, ctxload. -/
def Obligations.TrapsAndContextImages : Prop :=
  ((∀ (c : Bool) (g : BitVec 3) (a : BitVec 7) (s : State) (is : Issue) (w : Wg) (k : Crew), Issues s is w → active is w g ≠ [] →
     w.crew? (w.crewOf (is.threads.headD 0)) = some k →
     let v := uniSrc s is w a.toNat
     let crew := w.crewOf (is.threads.headD 0)
     let on := k.flags &&& k.flagen.truncate 8
     let raised := on &&& 0x7F#8
     let ops := (s.ops.filter fun o => o.wg = w.id && decide (o.id < is.older) && (o.threads.any fun t => decide (w.crewOf t ∈ w.crewsOf is.threads))
       && (match o.kind with | .load | .ldx | .atomic .. | .radd .. | .oadd | .done | .spawn => true | _ => false)).map fun o => o.id
     let pends := match s.wg? w.id with
       | some x => (x.pend.filter fun p => decide (p.id < is.older) && p.crews.any fun c => decide (c ∈ w.crewsOf is.threads)).map fun p => p.id
       | none => []
     (exec (.trap g a) s = .next ((s.modWg w.id fun x => x.modCrews (activeCrews is w g) fun c => { c with tval := v }).trapAfter is w
       (active is w g) .user (if a = 127 then 2 else 1))) ∧
     let settled := ∀ n ∈ w.crewsOf is.threads, ∀ y, w.crew? n = some y → y.wrote = 0 ∨ y.wrote + 1 ≤ s.clk
     let now := issueNotes is w ≠ [] ∨ (ops = [] ∧ pends = [] ∧ settled)
     (¬ now → exec (.tfence c g) s = .next (s.parkNote is w.id (.flagsIn ops pends (w.crewsOf is.threads)) 0)) ∧
     (now →
       ((∀ n ∈ w.crewsOf (active is w g), ∃ y, w.crew? n = some y ∧ y.flags &&& y.flagen.truncate 8 = 0) →
         exec (.tfence c g) s = .next (s.retire is w.id)) ∧
       ((∀ t ∈ active is w g, w.crewOf t = crew) →
         (raised ≠ 0 → exec (.tfence c g) s = .next (s.trapAfter is w (active is w g) .arith 1)) ∧
         (raised = 0 → on.getLsbD 7 = true → exec (.tfence c g) s = .next (s.trapAfter is w (active is w g) .latch 1))) ∧
       (∀ x xs, flagTraps w (active is w g) = x :: xs → exec (.tfence c g) s = .next (xs.foldl (fun (s : State) y =>
         (s.groupTrap w.id y.1 y.2 is.addr (is.addr.plus 1)).ended .trapped) (s.trapAfter is w x.1 x.2 1)))) ∧
     ((k.inHandler = false ∨ s.resumable w.core k.tpc = false) →
       exec (.tret g) s = .next (s.trapHere is w.id (trapping is w g) .illop)) ∧
     (k.inHandler = true → s.resumable w.core k.tpc = true → exec (.tret g) s =
       .next ((((s.retire is w.id).crewReturn w.id crew).xCheck w.id crew (List.range w.width)).ended .moved))) ∧
   (∀ (g : BitVec 3) (a : BitVec 7) (s : State) (is : Issue) (q : Nat) (k : Starter), StarterIssues s is q k →
     guardOn k.p g = true →
     (exec (.trap g a) s = .next (((s.modStarter q fun k => { k with tval := starterSrc s is q k a.toNat }).starterTrap q .user is.addr
       (is.addr.plus (if a = 127 then 2 else 1))).ended .trapped)) ∧
     (k.tinfo.getLsbD 8 = false → exec (.tret g) s = .next (s.starterTrapHere is q .illop)) ∧
     (k.tinfo.getLsbD 8 = true → (k.tpc.extractLsb' 0 14).toNat < k.code.length → k.tpc.extractLsb' 14 9 = 0 →
       exec (.tret g) s = .next ((s.starterReturn q).ended .moved))) ∧
   (∀ (s : State) (wg crew : Nat) (w : Wg) (c : Crew), s.wg? wg = some w → w.crew? crew = some c →
     ∃ x, (s.crewReturn wg crew).wg? wg = some x ∧ (∃ y, x.crew? crew = some y ∧ y.inHandler = false ∧ y.trapH = [] ∧ y.tpc = c.tpc ∧ y.s = c.s) ∧
       (∀ l ∈ c.trapH, ∀ y, w.thread? (crew * w.width + l) = some y → y.exited = false → ∃ z, x.thread? (crew * w.width + l) = some z ∧
         z.pc = { frame := c.tpc.getLsbD 14, word := c.tpc.extractLsb' 0 14 } ∧ z.notBefore = s.clk + 4) ∧
       (∀ n, n ∉ c.trapH.map (fun l => crew * w.width + l) → x.thread? n = w.thread? n))) ∧
  (∀ (c : Bool) (g : BitVec 3) (a : BitVec 7) (s : State) (is : Issue) (w : Wg) (k : Crew), Issues s is w → active is w g ≠ [] →
     w.crew? (w.crewOf (is.threads.headD 0)) = some k →
     let crew := w.crewOf (is.threads.headD 0)
     let ad := (uniSrc s is w a.toNat).toNat
     let both := fun (f : Bool → State) => exec (.ctxsave c g a) s = .next (f true) ∧ exec (.ctxload c g a) s = .next (f false)
     let here := ∀ t ∈ w.live crew, t ∈ is.threads
     let quiet := s.fenceOps is w 1 = [] ∧ s.fencePends is w = [] ∧ (∀ x ∈ s.words, ¬ (x.wg = w.id ∧ x.crew = crew))
     let clear := ∀ n, n < 4 → (w.txOf crew n).unacked = 0
     let next := is.addr.plus (if a = 127 then 2 else 1)
     (s.markedOp is w = none →
       (k.inHandler = true → both fun _ => s.trapHere is w.id (trapping is w g) .illop) ∧
       (k.inHandler = false → ad % 128 ≠ 0 → both fun sv => s.memFaultOnce is w g .memfault 1 sv ad) ∧
       (k.inHandler = false → ad % 128 = 0 → canonical ad = false → both fun sv => s.memFaultOnce is w g .memfault 2 sv ad) ∧
       (k.inHandler = false → ad % 128 = 0 → canonical ad = true → ¬ here → both fun _ => s.park is w.id .crewHere) ∧
       (∀ ch l, k.inHandler = false → ad % 128 = 0 → canonical ad = true → here → quiet → clear →
         s.freeChannels (newWord s is w .cpy 0 0 0 0) = ch :: l →
         let goes := fun (sv : Bool) => Host.Outcome.next ((s.settleIn is w g (.image sv) none [] ((imageBytes w + 127) / 128 + 40)).modOp
           s.ids fun (o : MemOp) => { o with n := ch + 1, ranges := pagesBefore (s.imagePages w ad (if sv then 1 else 0)) })
         ((∀ x ∈ s.imagePages w ad 1, x.2 ≠ none) → exec (.ctxsave c g a) s = goes true) ∧
         ((∀ x ∈ s.imagePages w ad 0, x.2 ≠ none) → exec (.ctxload c g a) s = goes false))) ∧
     (∀ o, s.markedOp is w = some o → o.fail = none → o.phase = 3 →
       let u := (s.dropOp o.id).lookAtWords
       let put := u.writeImage (u.image w crew next) ad (ad + imageBytes w) o.ranges
       (put.2 = none → exec (.ctxsave c g a) s = .next (put.1.retire is w.id)) ∧
       (∀ cause va, put.2 = some (cause, va) → exec (.ctxsave c g a) s = .next (put.1.memFaultOnce is w g .memfault cause true va)) ∧
       (∀ m, u.readImage o.ranges = some m → u.imageOk w crew m = true → exec (.ctxload c g a) s =
         .next ((((((u.retire is w.id).modWg w.id fun x => x.loadImage crew m u.clk).ended .moved).threadsEnded w.id
           ((w.live crew).filter fun t => !(imgDbl m 8).getLsbD (w.laneOf t))).arriveCheck
           w.id crew).finishDue w.id)) ∧
       (∀ m, u.readImage o.ranges = some m → u.imageOk w crew m = false →
         exec (.ctxload c g a) s = .next (u.memFaultOnce is w g .memfault 3 false ad))))

/-! ### Engines and relays (15_engines, 16_relays) -/

/-- R262, R268, R270, R273, R275, R276, R277 and R278, the issue of an engine word: a control value that is not legal takes ILLOP, an address
range outside its space MEMFAULT, and otherwise, with a free completion entry and a place in the core's queue, the word is queued, its h
register refers to the entry, and the threads go on; without them the threads park. An ovl of an overlay that its frame holds completes at
once; with GO its threads wait for the load and go on in the frame. The entry taken is the lowest free one (log entry 51), a gather has an
element for each active thread, checked against the whole crew's range (log entry 28), and a coll of no bytes is legal (log entry 52): the
model's choices. Completion: cpy, cpyw, gth, coll, ovl. R262, R267, R268, R271, R272, R274, R277, R279, R280, R379 and R407, the steps of a
word: one cancelled before it has a channel completes 2 clk later, a cancelled coll ends for its whole group; one with no free channel
waits; the first of the waiting words takes the channel that it is given, else the lowest free one; a word of a frozen channel does nothing,
its lines being looked at again 64 clk later (log entry 20); a line or element that is not in progress any more is not written, one that has
been sent is transferred, and one that comes back from a walk begins again, one read a clk of its channel and two of its copy engine. A
completion settles every register of the core's workgroups that refers to the entry, frees the entry under its next generation, and ends the
word, and then rolls the node back whose data an uncorrectable error withheld (R372). An abort notice ends the group's collectives.
Completion: engineWordStart, engineLineWrite, gatherElement, engineWordComplete, collectiveAbort. -/
def Obligations.EngineWordsAndSteps : Prop :=
  (∀ (c : Bool) (g : BitVec 3) (wr y : Bool) (h : BitVec 4) (q : BitVec 2) (k : BitVec 3) (a b : BitVec 7) (s : State) (is : Issue) (w : Wg),
     Issues s is w → active is w g ≠ [] →
     let r := fun (i : Nat) => (uniS is w (a.toNat - 64 + i)).toNat
     let vb := (uniSrc s is w b.toNat).toNat
     let bytes := natBits vb 30 0
     let dsp := natBits vb 33 32
     let ssp := natBits vb 35 34
     let illop := fun (i : Instr) => exec i s = .next (s.trapHere is w.id (trapping is w g) .illop)
     let form := natBit vb 31 = false ∧ natBits vb 63 39 = 0 ∧ bytes % 128 = 0 ∧ 128 ≤ bytes ∧ ssp ≠ 3
     let sig := fun (bit hi lo v : Nat) => sigUnbound is w (if natBit v bit then some (natBits v hi lo) else none) = false
     (64 ≤ a.toNat → a.toNat ≤ 94 →
       (form ∧ sig 36 38 37 vb ∧ ¬ (dsp = ssp ∧ overlap (r 0) (r 1) bytes = true) →
         (∀ x, s.rangeCause w dsp (r 0) bytes 128 = some x →
           exec (.cpy c g wr h a b) s = .next (s.memFaultOnce is w g .memfault x false (r 0))) ∧
         (∀ x, s.rangeCause w dsp (r 0) bytes 128 = none → s.rangeCause w ssp (r 1) bytes 128 = some x →
           exec (.cpy c g wr h a b) s = .next (s.memFaultOnce is w g .memfault x false (r 1))) ∧
         (s.rangeCause w dsp (r 0) bytes 128 = none → s.rangeCause w ssp (r 1) bytes 128 = none →
           exec (.cpy c g wr h a b) s = .next (s.issueWord is w g wr h (newWord s is w .cpy (r 0) (r 1) vb (bytes / 128))))) ∧
       (¬ (form ∧ sig 36 38 37 vb ∧ ¬ (dsp = ssp ∧ overlap (r 0) (r 1) bytes = true)) → illop (.cpy c g wr h a b)) ∧
       (form ∧ sig 36 38 37 vb ∧ dsp < 2 ∧ r 0 < 2 ^ 23 → s.cpywCause w (r 0) dsp bytes = none → s.rangeCause w ssp (r 1) bytes 128 = none →
         exec (.cpyw c g wr h a b) s = .next (s.issueWord is w g wr h (newWord s is w .cpyw (r 0) (r 1) vb (bytes / 128)))) ∧
       (¬ (form ∧ sig 36 38 37 vb ∧ dsp < 2 ∧ r 0 < 2 ^ 23) → illop (.cpyw c g wr h a b))) ∧
     (64 ≤ a.toNat → a.toNat ≤ 93 →
       let v := r 2
       let size := 4 * 2 ^ natBits v 2 0
       let old := fun (t : Nat) => match w.thread? t with | some x => x.reg b.toNat | none => (0 : Word32)
       let good := natBit v 3 = false ∧ natBits v 63 9 = 0 ∧ natBits v 2 0 < 6 ∧ sig 6 8 7 v
       let e : EngWord := { newWord s is w .gth (r 0) (r 1) v (active is w g).length with idx := (active is w g).map fun t => (t, old t) }
       (¬ good → illop (.gth c g wr h a b)) ∧
       (good → r 1 % size ≠ 0 → exec (.gth c g wr h a b) s = .next (s.memFaultOnce is w g .memfault 1 false (r 1))) ∧
       (good → r 1 % size = 0 → s.rangeCause w (natBits v 5 4) (r 0) (w.width * size) size = none →
         exec (.gth c g wr h a b) s = .next (s.issueWord is w g wr h e))) ∧
     (64 ≤ a.toNat → a.toNat ≤ 93 →
       let v := r 2
       let n := natBits v 30 0
       let scope := natBits v 34 32
       let gid := natBits v 55 48
       let p := ((s.groupOf w gid).getD []).length
       let num := kget 0 w.collCount gid
       let good := natBit v 31 = false ∧ natBit v 35 = false ∧ natBits v 63 59 = 0 ∧ 3 ≤ scope ∧ scope ≤ 5 ∧ n % 128 = 0 ∧ sig 56 58 57 v
       let e : EngWord := { newWord s is w .coll (r 1) (r 0) v 1 with aux := k.toNat + q.toNat * 8 + y.toNat * 32 + num * 64 }
       (¬ good → illop (.coll c g wr h a y q k)) ∧
       (good → s.engineRoom w.core = true → s.rangeCause w 0 (r 0) (if k = 4 then n * p else n) 128 = none →
         s.rangeCause w 0 (r 1) (if k = 3 then n * p else n) 128 = none →
         (∃ ms, s.groupOf w gid = some ms ∧ natBits v 47 36 < ms.length ∧ ∃ m ∈ ms, m.1 = w.index ∧ m.2.1 = s.boot.package ∧ m.2.2 = w.part) →
         exec (.coll c g wr h a y q k) s =
           .next ((s.issueWord is w g wr h e).modWg w.id fun x => { x with collCount := kset x.collCount gid (num + 1) }))) ∧
     (∀ gr, s.grid? w.grid = some gr →
       let n := (uniSrc s is w a.toNat).toNat
       let frame := vb % 2
       let inF := is.threads.any fun t => match w.thread? t with | some x => decide (x.pc.frame.toNat = frame) | none => false
       let go := natBit vb 1 = true
       let bad := natBits vb 15 2 ≠ 0 ∨ natBits vb 63 32 ≠ 0 ∨ (go ∧ natBits vb 31 16 % 12 ≠ 0) ∨ (¬ go ∧ inF = true) ∨ (go ∧ is.chain = true)
       let e := newWord s is w .ovl 0 n (vb % 2 ^ 32) 1
       (bad → illop (.ovl c g wr h a b)) ∧
       (¬ bad → n > gr.novl → exec (.ovl c g wr h a b) s = .next (s.memFaultOnce is w g .memfault 3 false n)) ∧
       (¬ bad → n ≤ gr.novl → s.frameHas w.core frame gr.kernel n = false →
         (s.engineRoom w.core = false → exec (.ovl c g wr h a b) s = .next (s.park is w.id .engineRoom)) ∧
         (s.engineRoom w.core = true → ¬ go → exec (.ovl c g wr h a b) s = .next (s.issueWord is w g wr h e)) ∧
         (s.engineRoom w.core = true → go → exec (.ovl c g wr h a b) s =
           .next (((s.issueWord is w g wr h e).modWg w.id fun x => x.modThreads is.threads fun t =>
             { t with pc := is.addr, wait := .parked (.drained [] [s.ids] [] 0), since := s.clk, mark := some s.ids }).ended .moved))) ∧
       (∀ k, ¬ bad → n ≤ gr.novl → s.frameHas w.core frame gr.kernel n = true → (s.core w.core).freeEntry = some k → wr = false →
         let u := ((s.modCore w.core fun c => c.setEntry k ((c.entryGen k + 1) % 65536) false).setH is w g h.toNat (.settled 2 0 0)).retire is w.id
         (¬ go → exec (.ovl c g wr h a b) s = .next u) ∧
         (go → exec (.ovl c g wr h a b) s = .next ((u.modWg w.id fun x => x.modThreads is.threads fun t =>
           { t with pc := { frame := decide (frame = 1), word := BitVec.ofNat 14 (natBits vb 31 16 / 4) }, wait := .ready, latches := [],
                    since := s.clk, notBefore := s.clk + 1, mark := none, notes := [] }).ended .moved))))) ∧
  ((∀ (word chan line : Nat) (s : State) (e : EngWord) (w : Wg), s.word? word = some e → s.wg? e.wg = some w →
     let frozen := ∃ x, e.chan = some x ∧ x ∈ s.frozenChans
     let line_ := Instr.engineLineWrite word line
     let elem := Instr.gatherElement word line
     (e.kind ≠ .coll → e.chan = none → e.cancel = true →
       exec (.engineWordStart word chan) s = .next (s.post 2 (.engineWordComplete word))) ∧
     (e.kind = .coll → e.cancel = true → exec (.engineWordStart word chan) s = .next ((s.endColl word 1).abortColl e)) ∧
     (e.cancel = false → e.chan = none → ∀ l, s.waitingWords e = e :: l →
       (s.freeChannels e = [] → exec (.engineWordStart word chan) s = .next s) ∧
       (e.issued + 4 ≤ s.clk → chan ≠ 0 → chan ∈ s.freeChannels e → exec (.engineWordStart word chan) s = .next (s.startWord e w chan)) ∧
       (e.issued + 4 ≤ s.clk → ∀ f r, s.freeChannels e = f :: r → chan = 0 ∨ chan ∉ s.freeChannels e →
         exec (.engineWordStart word chan) s = .next (s.startWord e w f))) ∧
     (frozen → (e.kind ≠ .coll ∨ e.cancel = false → exec (.engineWordStart word chan) s = .next s) ∧
       exec line_ s = .next (s.post 64 line_) ∧ exec elem s = .next (s.post 64 elem)) ∧
     (¬ frozen → (∀ p ∈ e.live, p.k ≠ line) → exec line_ s = .next s) ∧
     (¬ frozen → ∀ p, e.live.find? (fun p => p.k = line) = some p → p.sent = true → e.kind ≠ .coll →
       exec line_ s = .next ((s.transfer e w p).wordOver word)) ∧
     (¬ frozen → e.kind ≠ .ovl → (∀ x ∈ e.causes, x.1 ≠ line) → ∀ p, e.live.find? (fun p => p.k = line) = some p →
       (p.sent = true → e.kind ≠ .coll → exec elem s = .next ((s.transfer e w p).wordOver word)) ∧
       (p.sent = false → s.readBusy e = true → exec elem s = .next (s.post 1 elem)) ∧
       (p.sent = false → s.readBusy e = false → exec elem s =
         .next (((s.modWord word fun x => { x with readAt := s.clk }).startPart { e with readAt := s.clk } w line).goOn word line))) ∧
     (∀ f, f.chan = some chan → f.readAt = s.clk → s.readBusy f = true)) ∧
   (∀ (word : Nat) (s : State) (e : EngWord), s.word? word = some e → e.kind ≠ .ovl →
     let gen := (s.core e.core).entryGen e.entry
     ∃ t, (e.bad = none → exec (.engineWordComplete word) s = .next t) ∧
       (∀ line p, e.bad = some line → s.corePart e.core = some p →
         exec (.engineWordComplete word) s = .next (t.uncorrectable p.num e.node line)) ∧
       t.word? word = none ∧ t.mem = s.mem ∧ (t.core e.core).entryGen e.entry = (gen + 1) % 65536 ∧
       (∀ n w v, s.wg? n = some w → t.wg? n = some v → w.core = e.core → ∀ c k, w.crew? c = some k → ∃ j, v.crew? c = some j ∧
         j.h = k.h.map fun h => if h = .ref e.entry gen then .settled (if e.cut then 3 else 2) e.finalStatus word else h)) ∧
   (∀ (part gid : Nat) (s : State), ∃ t, exec (.collectiveAbort part gid) s = .next t ∧ t.mem = s.mem ∧ t.wgs = s.wgs ∧
     ∀ e ∈ t.words, e.kind = .coll → natBits e.ctl 55 48 = gid → e.id ≠ 0 →
       (∃ w, s.wg? e.wg = some w ∧ w.part = part ∧ s.groupOf w gid ≠ none) → e.stop = true))

/-- R281 to R286: rlink of a value of 2^14 or more takes ILLOP, of a crew that is not there MEMFAULT, parks while the register has flits under
way, and else links it under a new generation with its count of flits at 0; rclose of a rx empties and closes it, of a tx unlinks it. A flit in its
turn enters the rx queue while that has fewer than seven; a closed rx takes it and refuses it; one out of turn or with the queue full comes
again. Its acknowledgement takes it off the tx register's count, and one that was refused is shown there. A flit that is sent again arrives
after its travel, or a router that it asks drops it, four times at most, and it is sent again 10 clk later (R18, R19). Completion: rlink, rclose,
relayFlitArrival, relayAcknowledge, relayResend. -/
def Obligations.Relays : Prop :=
  (∀ (c : Bool) (g : BitVec 3) (x : Bool) (r : BitVec 2) (a : BitVec 7) (s : State) (is : Issue) (w : Wg), Issues s is w → active is w g ≠ [] →
    let v := (uniSrc s is w a.toNat).toNat
    let crew := w.crewOf (is.threads.headD 0)
    let busy := (w.txOf crew r.toNat).unacked ≠ 0
    let far := s.heatWg w (v / 512)
    (v ≥ 2 ^ 14 → exec (.rlink c g r a) s = .next (s.trapHere is w.id (trapping is w g) .illop)) ∧
    (v < 2 ^ 14 → (far = none ∨ ∃ y, far = some y ∧ v / 4 % 128 ≥ y.crews.length) →
      exec (.rlink c g r a) s = .next (s.memFaultOnce is w g .memfault 3 false v)) ∧
    (v < 2 ^ 14 → ∀ y, far = some y → v / 4 % 128 < y.crews.length → busy → exec (.rlink c g r a) s = .next (s.park is w.id (.txClear r.toNat))) ∧
    (v < 2 ^ 14 → ∀ y, far = some y → v / 4 % 128 < y.crews.length → ¬ busy → exec (.rlink c g r a) s =
      .next ((s.modWg w.id fun z => z.modTx crew r.toNat fun t =>
        { t with link := some { wg := y.id, crew := v / 4 % 128, rx := v % 4 }, gen := t.gen + 1, seq := 0, refused := false }).retire is w.id)) ∧
    (x = true → exec (.rclose c g x r) s =
      .next ((s.modWg w.id fun y => y.modRx crew r.toNat fun t => { t with queue := [], closed := true }).retire is w.id)) ∧
    (x = false → busy → exec (.rclose c g x r) s = .next (s.park is w.id (.txClear r.toNat))) ∧
    (x = false → ¬ busy → exec (.rclose c g x r) s =
      .next ((s.modWg w.id fun y => y.modTx crew r.toNat fun t => { t with link := none, refused := false }).retire is w.id))) ∧
  (∀ (flit : Nat) (refused : Bool) (s : State) (f : Flit), s.flits.find? (fun f => f.id = flit) = some f →
    (∀ w, s.wg? f.link.wg = some w → ∀ x, ((w.rxOf f.link.crew f.link.rx).take f).2 = some x → exec (.relayFlitArrival flit) s =
      .next ((s.modWg f.link.wg fun v => v.modRx f.link.crew f.link.rx fun _ => ((w.rxOf f.link.crew f.link.rx).take f).1).post f.travel
        (.relayAcknowledge flit x))) ∧
    (∀ w, s.wg? f.link.wg = some w → ((w.rxOf f.link.crew f.link.rx).take f).2 = none →
      let u := s.modWg f.link.wg fun v => v.modRx f.link.crew f.link.rx fun _ => ((w.rxOf f.link.crew f.link.rx).take f).1
      let bumped := mapIf (fun x => x.id = flit) (fun (x : Flit) => { x with bounces := x.bounces + 1 }) u.flits
      exec (.relayFlitArrival flit) s = .next ({ u with flits := bumped }.post (f.travel + 8) (.relayResend flit))) ∧
    (s.wg? f.link.wg = none → exec (.relayFlitArrival flit) s =
      .next ({ s with flits := mapIf (fun x => x.id = flit) (fun x => { x with bounces := x.bounces + 1 }) s.flits }.post (f.travel + 8)
        (.relayResend flit))) ∧
    (f.word = none → exec (.relayAcknowledge flit refused) s =
      .next (State.modWgAny { s with flits := s.flits.filter fun x => x.id ≠ flit } f.wg fun w => w.modTx f.crew f.tx fun t =>
        { t with unacked := t.unacked - 1, refused := t.refused || (refused && decide (t.gen = f.gen)) })) ∧
    (∃ t, exec (.relayAcknowledge flit refused) s = .next t ∧ t.flits = s.flits.filter fun x => x.id ≠ flit) ∧
    (∃ t, exec (.relayResend flit) s = .next t ∧ t.flits.map (fun x => x.id) = s.flits.map (fun x => x.id) ∧ t.wgs = s.wgs ∧
      (∀ w, s.wg? f.wg = some w → s.flitMoving flit = false →
        let cmp := s.comparator w.part
        (s.clk + (f.travel + cmp), Instr.relayFlitArrival flit) ∈ t.agenda ∨
          (f.travel ≠ 4 ∧ f.drops < 4 ∧ (s.clk + (10 + cmp), Instr.relayResend flit) ∈ t.agenda)))) ∧
  (∀ (r : Rx) (f : Flit), r.from_ = [] → f.seq = 0 →
    (r.closed = false → r.queue.length < 7 → (r.take f).2 = some false ∧ (r.take f).1.queue = r.queue ++ [f.payload]) ∧
    (r.closed = true → (r.take f).2 = some true ∧ (r.take f).1.queue = r.queue)) ∧
  (∀ (r : Rx) (f : Flit), r.from_ = [] → f.seq ≠ 0 → r.take f = (r, none))

/-! ### Batons, nodes and contexts (16_tasks, 20_context) -/

/-- R222, R297, R298, R300 and R301, the task words. spawn of a code word that is not legal, or with two conditions on one buffer, takes ILLOP;
an overlay number or a buffer index outside the grid's, or a bad counter address, MEMFAULT; and else the baton travels 40 clk, and 6 more
through the comparator of paired mode, to the dispatcher while the threads go on. heatid of a heat core outside the heat takes MEMFAULT and
else gives its place. chkpt of a code address that is no valid target takes ILLOP, and else the threads park with the checkpoint's values,
and go on once it is made. done sends the decrement of the counter at s_A. The tile-buffer words of a group with an address that is
misaligned or not canonical take MEMFAULT, and else are sent; tbwait of a buffer that is FULL acquires, and parks until then. In a starter
they act at once on a buffer whose page its core holds, and park for the walk of one that it lacks. In paired mode a spawned baton is named
by its spawner's count, which goes on (R246). Completion: spawn, heatid, chkpt, done, tbfull, tbempty, tbwait. R290, R299, R300 and R312: an
entered spawn is refused with its status, and else its baton is queued under the next identity with the spawn's values, its entry stands in
the ring of its queue, no other memory is changed, and its node is live; either way the status comes 40 clk later and is written (its place
in the ring is the model's choice, log entry 81, and an overlay whose table cannot be read is refused when the baton is placed, log entry
45). A counter's waiters are taken off when they are woken; a waiter registers at the counter's physical address, and a counter that holds 0
wakes it 40 clk later, the nodes that counted it down tainting the waiter's node at once. Completion: spawnEntry, spawnStatus, joinWake,
waiterRegistration. -/
def Obligations.TaskWordsAndEvents : Prop :=
  ((∀ (c : Bool) (g : BitVec 3) (wr : Bool) (d : BitVec 5) (n : BitVec 5) (a b : BitVec 7) (s : State) (is : Issue) (w : Wg) (gr : Grid),
     Issues s is w → active is w g ≠ [] → s.grid? w.grid = some gr →
     let r := fun (i : Nat) => uniS is w (a.toNat - 64 + i)
     let conds := condsOf (r 3)
     let va := (uniSrc s is w a.toNat).toNat
     let form := (r 0).toNat < 2 ^ 24 ∧ (r 0).toNat % 2 ^ 16 % 12 = 0 ∧ condsClash conds = false
     let ovl := (r 0).toNat / 2 ^ 16 % 256
     let inside := ovl ≤ gr.novl ∧ (∀ x ∈ conds, x.2 < gr.tbcount) ∧
       (∀ ad len, s.overlayOf w.core gr ovl = .inl (ad, len) → (r 0).toNat % 2 ^ 16 < len)
     let o : MemOp := { onceOp s is w g .spawn 0 with
       lines := [], sdst := some d.toNat, wb := !wr, a := (r 0).toNat, b := (r 1).toNat, c := (r 2).toNat, n := (r 3).toNat,
       m := (uniSrc s is w b.toNat).toNat % 2 ^ 32, ranges := [s.spawnKey w (w.crewOf (is.threads.headD 0))] }
     (¬ form → exec (.spawn c g wr d a b) s = .next (s.trapHere is w.id (trapping is w g) .illop)) ∧
     (form → ovl > gr.novl → exec (.spawn c g wr d a b) s = .next (s.memFaultOnce is w g .memfault 3 false (r 0).toNat)) ∧
     (form → ovl ≤ gr.novl → (∃ x ∈ conds, x.2 ≥ gr.tbcount) →
       exec (.spawn c g wr d a b) s = .next (s.memFaultOnce is w g .memfault 3 false (r 3).toNat)) ∧
     (form → inside → ∀ k, waitjCause (r 2) = some k →
       exec (.spawn c g wr d a b) s = .next (s.memFaultOnce is w g .memfault k false (r 2).toNat)) ∧
     (form → inside → waitjCause (r 2) = none →
       exec (.spawn c g wr d a b) s = .next ((((s.addOp o).spawnCounted w (w.crewOf
         (is.threads.headD 0))).post (40 + s.comparator w.part) (.spawnEntry o.id)).retire is w.id)) ∧
     (let cols := if w.heat.isSome then gr.hcols else 1
      let rows := if w.heat.isSome then gr.hrows else 1
      (va ≥ cols * rows → exec (.heatid c g wr d a) s = .next (s.memFaultOnce is w g .memfault 3 false va)) ∧
      let core := match (s.together w).find? fun x => x.hcore = va with | some x => x.core | none => w.core
      let v := va + va % cols * 2 ^ 5 + va / cols * 2 ^ 9 + (cols - 1) * 2 ^ 13 + (rows - 1) * 2 ^ 17 + (s.coreid core).toNat * 2 ^ 32
      (va < cols * rows → exec (.heatid c g wr d a) s = .next (s.finish is w
        { s := if wr then [] else (activeCrews is w g).map fun c => (c, d.toNat, BitVec.ofNat 64 v) } 1))) ∧
     (issueMark is w = none →
       let valid := va < 2 ^ 16 ∧ va % 12 = 0 ∧ va < 4 * (s.frameCode w.core is.addr.frame).length
       let k : MemOp := { onceOp s is w g .chkpt 0 with lines := [], a := va, b := (uniS is w n.toNat).toNat }
       (¬ valid → exec (.chkpt c g n a) s = .next (s.trapHere is w.id (trapping is w g) .illop)) ∧
       (valid → exec (.chkpt c g n a) s = .next ((s.addOp k).parkMark is w.id .checkpoint k.id))) ∧
     (∀ m k, issueMark is w = some m → s.op? m = some k →
       (k.phase = 1 → exec (.chkpt c g n a) s = .next ((s.dropOp k.id).retire is w.id)) ∧
       (k.phase ≠ 1 → exec (.chkpt c g n a) s = .next (s.park is w.id .checkpoint))) ∧
     (let lanes := (active is w g).map fun t => laneAcc t va 0 0
      let e : MemOp := { newOp s is w .done lanes none (some d.toNat) (!wr) with n := w.width, latch := lostLatches s is w (active is w g) [] }
      (∀ k bad, addrCause lanes = some (k, bad) → exec (.done c g wr d a) s = .next (s.memFault is w g .memfault k true bad)) ∧
      (addrCause lanes = none → (∀ l ∈ e.lines, l.pa ≠ none) → ∀ t k bad, s.writeCause e.lanes = some (t, k, bad) →
        exec (.done c g wr d a) s = .next (s.memFault is w g t k true bad)) ∧
      (addrCause lanes = none → (∀ l ∈ e.lines, l.pa ≠ none) → s.writeCause e.lanes = none →
        exec (.done c g wr d a) s = .next (((s.addOp e).retire is w.id).updateReady e)) ∧
      (addrCause lanes = none → (∃ l ∈ e.lines, l.pa = none) →
        exec (.done c g wr d a) s = .next (((s.addOp e).block is w.id e.id).walkLines e))) ∧
     (let once := fun (k : OpKind) => newOp s is w k ((active is w g).map fun t => laneAcc t va 0 0) none none false
      let sent := fun (k : OpKind) => (((once k).lines.foldl (fun (s : State) l => s.sendLine (once k).id l.line)
        ((s.addOp (once k)).block is w.id (once k).id)).objectGo (once k))
      (¬ (va % 32 = 0 ∧ canonical va = true) → exec (.tbfull c g a) s = .next (s.memFaultOnce is w g .memfault 14 false va) ∧
        exec (.tbempty c g a) s = .next (s.memFaultOnce is w g .memfault 14 false va)) ∧
      (va % 32 = 0 → canonical va = true → exec (.tbfull c g a) s = .next (sent (.rel true)) ∧ exec (.tbempty c g a) s = .next (sent .empty)) ∧
      (s.markedOp is w = none →
        (∀ t k wf ad, s.objectStep w va = .fault t k wf ad → exec (.tbwait c g a) s = .next (s.memFaultOnce is w g t k wf ad)) ∧
        (∀ va' p, s.objectStep w va = .walk va' p → exec (.tbwait c g a) s = .next (s.regionWalk is w g (.acq true) va' p)) ∧
        (∀ pa x, s.objectStep w va = .ok pa [] → s.obj? pa = some x → x.tile = true →
          (x.full = true → exec (.tbwait c g a) s = .next (sent (.acq true))) ∧
          (x.full = false → exec (.tbwait c g a) s = .next (s.park is w.id (.full pa))))))) ∧
   (∀ (c : Bool) (g : BitVec 3) (a : BitVec 7) (s : State) (is : Issue) (q : Nat) (k : Starter) (gr : Grid), StarterIssues s is q k →
     guardOn k.p g = true → s.starterGrid k = some gr → k.mark = none →
     let ea := (starterSrc s is q k a.toNat).toNat
     ea % 32 = 0 → canonical ea = true →
     (∀ e, s.translate (quadCore q 0) gr.ctx ea 0 = .inr e →
       let o := bareOp s (.acq true) (quadCore q 0) gr.part gr.node gr.ctx ea 0 []
       let walks := Host.Outcome.next (((s.addOp o).startWalk (quadCore q 0) gr.ctx ea 0 (.range o.id (ea / 4096))).starterPark is q (.opEnd o.id)
         (some o.id))
       exec (.tbfull c g a) s = walks ∧ exec (.tbempty c g a) s = walks ∧ exec (.tbwait c g a) s = walks) ∧
     ∀ pa x, s.translate (quadCore q 0) gr.ctx ea 0 = .inl pa → s.obj? pa = some x → x.tile = true →
       exec (.tbfull c g a) s = .next (((s.modObj x.pa fun o => { o with ver := o.ver + 1 }).setFull x.pa true).starterRetire is q) ∧
       exec (.tbempty c g a) s = .next ((s.setFull x.pa false).starterRetire is q) ∧
       exec (.tbwait c g a) s = .next (if x.full then s.starterRetire is q else s.starterPark is q (.full x.pa) none)) ∧
   (∀ (s : State) (pa : Nat) (v : Bool) (o : SyncObj), s.obj? pa = some o → (s.setFull pa v).obj? pa = some { o with full := v })) ∧
  ((∀ (op : Nat) (s : State) (o : MemOp) (w : Wg) (g : Grid), s.op? op = some o → s.wg? o.wg = some w → s.grid? w.grid = some g →
     let st := s.spawnResult w.part w.node o.m g
     (st ≠ 0 → exec (.spawnEntry op) s = .next (s.post 40 (.spawnStatus op st))) ∧
     (st = 0 → ∃ t, exec (.spawnEntry op) s = .next t ∧ (s.clk + 40, Instr.spawnStatus op 0) ∈ t.agenda ∧
       (∃ b ∈ t.batons, b.id = s.ids ∧ b.part = w.part ∧ b.grid = g.id ∧ b.node = o.m ∧ b.code = BitVec.ofNat 64 o.a ∧
         b.frame = BitVec.ofNat 64 o.b ∧ b.waitj = BitVec.ofNat 64 o.c ∧ b.cond = BitVec.ofNat 64 o.n ∧ b.st = .queued ∧ b.ring = true ∧
         b.spawner = some w.baton) ∧
       (∃ n ∈ t.nodes, n.part = w.part ∧ n.num = o.m ∧ 0 < n.live) ∧
       (∀ p, s.part? w.part = some p → s.grid? g.id = some g → s.mem.wf = true →
         let ad := p.bqbase + 64 * (g.queue * p.bqcap + s.ringPlaceOf w.part g.queue)
         t.mem.word ad = BitVec.ofNat 32 o.a ∧ t.mem.word (ad + 8) = BitVec.ofNat 32 o.b ∧ t.mem.word (ad + 32) = BitVec.ofNat 32 o.m ∧
         t.mem.word (ad + 36) = BitVec.ofNat 32 w.node ∧ t.mem.word (ad + 48) = BitVec.ofNat 32 g.id ∧
         ∀ a, (a < ad ∨ ad + 64 ≤ a) → t.mem.get a = s.mem.get a))) ∧
   (∀ (op st : Nat) (s : State) (o : MemOp), s.op? op = some o →
     exec (.spawnStatus op st) s = .next ((s.opWriteS o (BitVec.ofNat 64 st)).opEnded o.core o.wg)) ∧
   (∀ (part counter : Nat) (s : State), ∃ t, exec (.joinWake part counter) s = .next t ∧ t.mem = s.mem ∧
     (t.waiters = s.waiters.filter fun w => !(decide (w.pa = counter) && decide (w.part = part) &&
       (match w.due with | some d => decide (d ≤ s.clk) | none => false))) ∧
     (∀ w ∈ s.waiters, w.pa = counter → w.part = part → (∃ d, w.due = some d ∧ d ≤ s.clk) →
       ∀ b, s.baton? w.baton = some b → ∃ b', t.baton? w.baton = some b' ∧ b'.woken = true)) ∧
   (∀ (part baton : Nat) (s : State) (b : Baton) (g : Grid) (pa : Nat), s.baton? baton = some b → s.grid? b.grid = some g →
     s.translate ((s.partCores part).headD 0) g.ctx b.waitj.toNat 0 = .inl pa →
     let w : Waiter := { pa := pa, part := part, baton := baton, due := if s.homeWord pa = 0 then some (s.clk + 40) else none }
     let s1 : State := { s with waiters := (s.waiters.filter fun x => x.baton ≠ baton) ++ [w] }
     exec (.waiterRegistration part baton) s =
       .next (if s.homeWord pa = 0 then (s1.joinTaints w).post 40 (.joinWake part pa) else s1)) ∧
   (∀ (s : State) (w : Waiter) (b : Baton) (x : Node), s.baton? w.baton = some b → s.node? w.part b.node = some x →
     ∃ y, (s.joinTaints w).node? w.part b.node = some y ∧ (∀ n ∈ x.taints, n ∈ y.taints) ∧
       ∀ j ∈ s.joins, j.pa = w.pa → j.node ≠ b.node → j.node ∈ y.taints))

/-- R291 to R295, R302 and R303: the dispatcher's looks change no memory and no workgroup that runs; a placed baton does nothing before the
clk in which its overlays are loaded and its start falls; then one whose buffers still allow it starts, its workgroups standing on its cores at the entry, and one whose do not waits again; a starter begins the grid's code at offset 0
with ARGS in s30 (its code is read as it begins, with R permission: the model's choices, log entries 47 and 72); a heat that has waited HEATWAIT reserves the first rectangle in its partition; a candidate gains one level, up to 7; a
baton that is over and has nothing to release leaves its core, and its node has one baton fewer. Completion: batonPlacement, batonStart,
starterBegin, heatReservation, placementLevelAging, batonFinish. -/
def Obligations.BatonEvents : Prop :=
  (∀ (part : Nat) (s : State), ∃ t, exec (.batonPlacement part) s = .next t ∧ t.mem = s.mem ∧ t.wgs = s.wgs) ∧
  (∀ (part baton : Nat) (cores : List Nat) (s : State) (b : Baton) (g : Grid), s.baton? baton = some b → s.grid? b.grid = some g →
    (b.st ≠ .placed ∨ s.clk < b.starts → exec (.batonStart part baton cores) s = .next s) ∧
    (b.starts ≤ s.clk →
    (b.st = .placed → s.buffers g b.cond = none → exec (.batonStart part baton cores) s = .next (s.startFails b)) ∧
    (b.st = .placed → condsOf b.cond = [] → (∃ x ∈ b.place, s.frameHas x.1 x.2.2 g.kernel (codeOvl b.code) = false) →
      exec (.batonStart part baton cores) s = .next (s.startFails b)) ∧
    (b.st = .placed → condsOf b.cond = [] → (s.startTaints part b.node []).length ≤ 4 →
      (∀ x ∈ b.place, s.frameHas x.1 x.2.2 g.kernel (codeOvl b.code) = true) → ∃ t, exec (.batonStart part baton cores) s = .next t ∧
      t.mem = s.mem ∧ (∀ w ∈ s.wgs, w ∈ t.wgs) ∧ t.wgs.length = s.wgs.length + b.place.length ∧
      ∀ x ∈ b.place, ∃ w ∈ t.wgs, w.core = x.1 ∧ w.scratchBase = x.2.1 ∧ w.baton = b.id ∧ w.grid = g.id ∧ w.node = b.node ∧
        w.threads.length = g.crews * g.width ∧ (∀ y ∈ w.threads, y.pc.frame = decide (x.2.2 = 1) ∧ y.exited = false) ∧
        ∀ k ∈ w.crews, k.s.getD 30 0 = b.frame))) ∧
  (∀ (quad wg : Nat) (s : State) (w : Wg) (g : Grid) (code : List Word32), s.wg? wg = some w → s.grid? w.grid = some g →
    (s.starter quad).run = none → (s.starter quad).frozen = false → g.starter ≠ 0 → s.readWords w.core g.ctx g.starter 8192 = .inl code →
    ∃ t, exec (.starterBegin quad wg) s = .next t ∧ t.mem = s.mem ∧ (t.starter quad).run = some (g.id, wg) ∧ (t.starter quad).code = code ∧
      (t.starter quad).pc = { frame := false, word := 0 } ∧ (t.starter quad).s.getD 30 0 = g.args) ∧
  (∀ (part grid t0 : Nat) (s : State) (g : Grid) (p : Partition) (r : List Nat), s.grid? grid = some g → s.part? part = some p →
    g.waiting = some t0 → max t0 g.placedAt + g.heatwait * 1250 ≤ s.clk → p.reserve = none → (heatRects g).find? (fun r => s.rectInside part r) = some r →
    exec (.heatReservation part grid) s = .next ((s.modPart part fun p => { p with reserve := some (grid, r) }).placeSoon part)) ∧
  (∀ (part baton since : Nat) (s : State) (b : Baton), s.baton? baton = some b → b.eligible = some since → since < s.clk →
    (s.clk - since) % 1250000 = 0 → exec (.placementLevelAging part baton) s =
      .next (((s.modBaton baton fun x => { x with level := min 7 (x.level + 1) }).post 1250000 (.placementLevelAging part baton)).placeSoon
        part)) ∧
  (∀ (part baton : Nat) (s : State) (b : Baton) (g : Grid) (w : Wg), s.baton? baton = some b → s.grid? b.grid = some g →
    (s.wgs.filter fun w => w.baton = baton) = [w] →
    (s.batonOver w = false → exec (.batonFinish part baton) s = .next s) ∧
    (s.batonOver w = true → condsOf b.cond = [] → ∃ t, exec (.batonFinish part baton) s = .next t ∧ t.mem = s.mem ∧ w.id ∉ t.wgs.map (fun x => x.id) ∧
      (∀ x, t.baton? baton = some x → x.st = .finished) ∧
      ∀ n m, s.node? part b.node = some n → t.node? part b.node = some m → m.live = n.live - 1))

/-- R99, R162, R222, R307 to R311, R340 and R412: a pending result is written into its registers and is pending no longer; a thread whose
park is over stands ready, after the checkpoint that is to be made; a checkpoint rewrites its baton (with the s_n of the crew that parked first, the model's choice, log entry 91) and commits its node's records; a slice
that has ended makes its workgroup due when an eligible candidate of its level waits, and reloads else; a crew of a workgroup that is due
leaves the picker, and once all its crews are out and nothing of it is left in the machine its context goes through the port of the shadow
store (in a time that is free within 29,000 clk: the model's choice, log entry 97) and is saved there, where that has room; a partition that is not halted saves no context, and one that is sends all its workgroups so;
a spill writes the context's image in the lowest free slot of the context's partition, whose bytes are free values (log entry 48), and no
other byte of memory; a baton resumes only from its placed state and in its clk, with its frames loaded (which frames suit is the model's
choice, log entry 83), its workgroup standing at its new place with its registers. Completion:
multiClkResultWrite, parkEnd, timeSliceExpiry, crewVacate, contextSave, contextSpill, batonResume. -/
def Obligations.ContextEvents : Prop :=
  (∀ (wg id : Nat) (s : State) (w : Wg) (p : PendWr), wg ≠ 0 → s.wg? wg = some w → w.pend.find? (fun p => p.id = id) = some p →
    let u := s.modWg wg fun x =>
      { (x.write p.v p.s p.p p.flags).wroteIn p.crews s.clk with
        pend := x.pend.filter (fun p => p.id ≠ id), written := p.asRead x :: x.written }
    (p.valid = [] → exec (.multiClkResultWrite wg id) s = .next u) ∧
    (p.valid ≠ [] → exec (.multiClkResultWrite wg id) s =
      .next ((u.modCore w.core fun k => p.valid.foldl (fun (k : Core) off => k.markWord off) k).poke w.core))) ∧
  (∀ (id : Nat) (s : State), ∃ t, exec (.multiClkResultWrite 0 id) s = .next t ∧ t.mem = s.mem ∧ t.wgs = s.wgs ∧
    (t.quads.map (fun x => x.1) = s.quads.map fun x => x.1) ∧ ∀ x ∈ t.quads, ∀ p ∈ x.2.starter.pend, p.id ≠ id) ∧
  (∀ (wg crew : Nat) (s : State) (w : Wg), wg ≠ 0 → s.wg? wg = some w →
    let u := if (s.chkptOps w).any (fun o => decide (o.wg = wg)) && s.chkptReady w then s.checkpoint w else s
    exec (.parkEnd wg crew) s = .next (u.modWg wg fun x => x.modThreads ((w.crewThreads crew).filter fun t => u.threadOver w t) fun t =>
      match t.wait with
      | .parked c => t.wake u.clk c.delay (u.bwaitFinds w c)
      | _ => t)) ∧
  (∀ (t : Thread) (clk delay found : Nat), t.wake clk delay found =
    { t with
      wait := .ready, latches := [], since := clk, notBefore := max t.notBefore (clk + delay),
      notes := t.notes.map fun n => if n.clk = t.since && found ≠ 0 then { n with val := found, clk := clk } else n }) ∧
  (∀ (q : Nat) (c : PCond) (s : State), (s.starter q).wait = .parked c → s.starterParkOver q c = true → exec (.parkEnd 0 q) s =
    .next (s.modStarter q fun k => { k with wait := .ready, notBefore := max k.notBefore (s.clk + c.delay) })) ∧
  (∀ (s : State) (w : Wg) (o : MemOp) (l : List MemOp) (b : Baton), s.chkptOps w = o :: l → s.baton? w.baton = some b →
    (s.checkpoint w).mem = s.mem ∧
    (∃ b', (s.checkpoint w).baton? w.baton = some b' ∧
      b'.code = BitVec.ofNat 64 (o.a + (s.frameOvl w.core o.addr.frame).toNat * 65536) ∧ b'.frame = BitVec.ofNat 64 o.b ∧ b'.cond = 0 ∧
      b'.waitj = b.waitj ∧ b'.node = b.node) ∧
    (w ∈ s.together w → s.corePart w.core = s.part? w.part →
      ∀ r ∈ ((s.checkpoint w).core w.core).log.recs, r.node = w.node → r.committed = true)) ∧
  (∀ (wg : Nat) (s : State) (w : Wg) (g : Grid), s.wg? wg = some w → s.grid? w.grid = some g → w.due = none → w.evict = false →
    g.slice ≠ 0 → w.started + w.remain * 1250 ≤ s.clk →
    (s.someoneWaits w.part g.queue = false → exec (.timeSliceExpiry wg) s =
      .next (((s.together w).foldl (fun (s : State) x => s.modWg x.id fun y => { y with started := s.clk, remain := g.slice }) s).post
        (g.slice * 1250) (.timeSliceExpiry wg))) ∧
    (s.someoneWaits w.part g.queue = true → w.heat = none → ∃ t, exec (.timeSliceExpiry wg) s = .next t ∧ t.mem = s.mem ∧
      ∀ x, t.wg? wg = some x → x.due = some s.clk)) ∧
  (∀ (wg crew : Nat) (s : State) (w : Wg), s.wg? wg = some w →
    let u := s.modWg wg fun x => x.modCrew crew fun c => { c with out := true }
    (w.due = none → w.evict = false → exec (.crewVacate wg crew) s = .next s) ∧
    ((w.due ≠ none ∨ w.evict = true) → ∀ v, u.wg? wg = some v → exec (.crewVacate wg crew) s = .next (u.tryVacate v crew))) ∧
  (∀ (part : Nat) (s : State), s.halted part = false → exec (.contextSave part) s = .next s) ∧
  (∀ (part : Nat) (s : State), s.halted part = true → ∃ t, exec (.contextSave part) s = .next t ∧ t.mem = s.mem ∧
    ∀ w ∈ s.wgs, w.part = part → (s.clk, Instr.crewVacate w.id 0) ∈ t.agenda ∧
      ∃ x, t.wg? w.id = some x ∧ x.evict = true ∧ ∀ c ∈ x.crews, c.out = true) ∧
  (∀ (crew a b : Nat) (s : State) (w : Wg), s.wg? w.id = some w → (∀ x ∈ s.wgs, x.baton = w.baton → x = w) → s.leaving w = [w] →
    (∀ c, c < w.crews.length → w.live c = [] ∨ ∃ k, w.crew? c = some k ∧ k.out = true) → (∃ t ∈ w.threads, t.exited = false) →
    s.quiet w = true → (w.evict = true → s.runQuads [w] = []) →
    (w.saving = none → s.tryVacate w crew = (s.beginSave [w]).post s.portClk (.crewVacate w.id crew)) ∧
    (w.saving = some (a, b) → s.clk < b → s.tryVacate w crew = s) ∧
    (w.saving = some (a, b) → b ≤ s.clk → s.shadowRoom (coreQuad w.core) = true →
      let t := s.tryVacate w crew
      t.mem = s.mem ∧ w.id ∉ t.wgs.map (fun x => x.id) ∧ (∀ x ∈ t.batons, x.id = w.baton → x.st = .vacated ∧ x.resumable = true) ∧
        ∃ c ∈ (t.quad (coreQuad w.core)).shadow, c.baton = w.baton)) ∧
  (∀ (quad n : Nat) (s : State) (c : SavedCtx) (p : Partition), (s.quad quad).shadow.find? (fun c => c.spilled.isNone) = some c →
    s.part? c.part = some p → p.freeSpill = some n → ∃ t, exec (.contextSpill quad) s = .next t ∧
      t.part? c.part = some { p with spill := p.spill ++ [n] } ∧
      (t.quad quad).shadow = mapIf (fun x => x.baton = c.baton && x.spilled.isNone) (fun x => { x with spilled := some n }) (s.quad quad).shadow ∧
      t.mem = s.mem.patch (s.slotImage (p.ctxbase + 0x300000 * n)) (p.ctxbase + 0x300000 * n) 0x300000 ∧
      (s.mem.wf = true → ∀ x, x < p.ctxbase + 0x300000 * n ∨ p.ctxbase + 0x300000 * (n + 1) ≤ x → t.mem.get x = s.mem.get x)) ∧
  (∀ (part baton : Nat) (cores : List Nat) (s : State) (b : Baton), s.baton? baton = some b →
    (b.st ≠ .placed ∨ s.clk < b.starts → exec (.batonResume part baton cores) s = .next s) ∧
    (∀ q c w core base frame, b.st = .placed → b.starts ≤ s.clk → s.contextsOf baton = [(q, c)] → s.savedWgs baton = [w] → c.wgs = [w] →
      (∀ x ∈ c.acq, x.2 = []) → c.starter = none → b.place = [(core, base, frame)] →
      s.framesFit core w (s.savedFrames baton w.core) = true →
      (∀ f, f < 2 → w.standsIn f = true → (((s.core core).frames[f]?).getD Frame.reset).ready ≤ s.clk) → s.directoryFits [(w, core, base, frame)] = true →
      ∃ t, exec (.batonResume part baton cores) s = .next t ∧ t.mem = s.mem ∧ (∀ x, t.baton? baton = some x → x.st = .running) ∧
        ∃ v ∈ t.wgs, v.id = w.id ∧ v.core = core ∧ v.scratchBase = base ∧ v.crews = w.crews ∧
          v.threads.map (fun x => (x.pc, x.v, x.p, x.exited)) = w.threads.map fun x => (x.pc, x.v, x.p, x.exited)))

/-! ### The pacer and rates (19_pacer, 21_containment) -/

/-- R344, R346 to R349, R351 and R382. A request that an array has made reaches the pacer behind those already there; a grant that reaches
the array it was sent to leaves it holding its token, and its operation may start in the clk after; the moves of ballast that requests ask
for are made at once, one after another, of each partition the oldest request first and of one clk that of the lowest core, until none is
left or the first finds no ballast; a move takes the token of the array that gives it and gives it to the one that asked; a tick counts the
clk on, spends 1,250 of a credit on a change that is due, adds RAMP to each credit, one for which nothing is due up to 1,250, and begins a
ramp slot each 1,250 clk; a V/F step waits for the changes its island's load asks for, and requests behind it wait (how is the model's
choice, log entry 44); a ramp slot begins with no costs; a pinned reserve asks for one token at a time until it is complete (log entry 44);
a bucket is filled to now and charged nothing.
Completion: tokenRequest, tokenServe, tokenGrant, pacerCreditTick, vfStep, rampSlotStart, pinnedReserveBuild, bucketFill. -/
def Obligations.PacerSteps : Prop :=
  (∀ (core : Nat) (s : State) (p : Partition), (s.core core).asked = true → s.corePart core = some p →
    exec (.tokenRequest core) s = .next (({ s with pacer := { s.pacer with
      reqs := s.pacer.reqs ++ [{ core := core, part := p.num, arrived := s.clk }] } } : State).post 0 (.tokenServe p.num))) ∧
  (∀ (core : Nat) (s : State),
    ((s.core core).asked = false ∨ (s.core core).token ≠ .work → exec (.tokenGrant core) s = .next s) ∧
    ((s.core core).asked = true → (s.core core).token = .work → ∃ t, exec (.tokenGrant core) s = .next t ∧
      t = ((s.modCore core fun k => { k with asked := false }).runTest (coreQuad core)).poke core ∧ t.mem = s.mem ∧
      (t.core core).token = .work ∧ (t.core core).asked = false ∧
      ((s.core core).queue ≠ [] → (s.clk + 1, Instr.macroOperationStart core) ∈ t.agenda))) ∧
  (∀ (part : Nat) (s : State),
    exec (.tokenServe part) s = .next (State.serveMoves part s.pacer.reqs.length s) ∧
    (∀ n, s.headReq part = none → State.serveMoves part (n + 1) s = s) ∧
    (∀ n r, s.headReq part = some r → r.core ≥ 1024 ∨ s.behindStep r.arrived = true ∨ s.donor part r.core = none →
      State.serveMoves part (n + 1) s = s) ∧
    (∀ n r d, s.headReq part = some r → r.core < 1024 → s.behindStep r.arrived = false → s.donor part r.core = some d →
      let t := (s.modCore d fun k => { k with token := .none, pinned := none }).serveReq r (s.core d).pinned
      State.serveMoves part (n + 1) s = State.serveMoves part n t ∧ (t.core r.core).token = .work ∧
        (d ≠ r.core → (t.core d).token = .none) ∧ r ∉ t.pacer.reqs ∧ (s.clk + 6, Instr.tokenGrant r.core) ∈ t.agenda) ∧
    (∀ r, s.headReq part = some r → r ∈ s.pacer.reqs ∧ r.part = part ∧ ∀ x ∈ s.pacer.reqs, x.part = part → r.core < 2 ^ 40 → x.core < 2 ^ 40 →
      r.arrived < x.arrived ∨ (r.arrived = x.arrived ∧ r.core ≤ x.core)) ∧
    ∃ t, exec (.tokenServe part) s = .next t ∧ t.mem = s.mem ∧ t.wgs = s.wgs ∧ t.pacer.rise = s.pacer.rise ∧
      t.pacer.fall = s.pacer.fall ∧ (∀ r ∈ t.pacer.reqs, r ∈ s.pacer.reqs) ∧ (s.pacer.reqs = [] → t = s)) ∧
  (∀ (s : State),
    let u := s.parts.foldl (fun (u : State) p => State.serveMoves p.num u.pacer.reqs.length u) s
    let v := u.tickRise
    let riseDue := u.riseReq.isSome || (match u.pacer.vf with | x :: _ => x.up | [] => false)
    let fallDue := ((v.ballasts fun _ p => p.isNone).find? fun x => !v.behindStep x.1).isSome
      || (match v.pacer.vf with | x :: _ => !x.up | [] => false)
    let after := fun (credit : Nat) (due : Bool) =>
      if due then (if credit ≥ 1250 then credit - 1250 else credit) + s.pacer.ramp else min 1250 (credit + s.pacer.ramp)
    ∃ t, exec .pacerCreditTick s = .next t ∧ t.clk = s.clk + 1 ∧ t.mem = s.mem ∧
      t.pacer.rise = after s.pacer.rise riseDue ∧ t.pacer.fall = after s.pacer.fall fallDue ∧
      ((s.clk + 1 - s.pacer.slotBase) % 1250 = 0 → (s.clk + 1, Instr.rampSlotStart) ∈ t.agenda)) ∧
  (∀ (island : Nat) (up : Bool) (s : State),
    let h := ((islandCores island).filter fun c => (s.core c).token != .none).length
    exec (.vfStep island up) s = .next (if h = 0 then s else { s with pacer := { s.pacer with
      vf := s.pacer.vf ++ [{ island := island, up := up, left := h, arrived := s.clk }] } })) ∧
  (∀ (s : State), ∃ t, exec .rampSlotStart s = .next t ∧ t.pacer.slotNow = (s.clk - s.pacer.slotBase) / 1250 ∧ t.pacer.costs = [] ∧
    t.mem = s.mem ∧ t.wgs = s.wgs ∧ ∀ p ∈ s.parts, (s.clk, Instr.batonPlacement p.num) ∈ t.agenda) ∧
  (∀ (part grid : Nat) (s : State) (g : Grid), s.grid? grid = some g →
    exec (.pinnedReserveBuild part grid) s = .next
      (if (s.cores.filter fun x => x.2.pinned = some grid && x.2.token != .none).length ≥ g.pin then s.placeSoon part
       else if s.pacer.reqs.any fun r => r.core = 1024 + grid then s
       else { s with pacer := { s.pacer with reqs := s.pacer.reqs ++ [{ core := 1024 + grid, part := part, arrived := s.clk }] } })) ∧
  (∀ (core : Nat) (s : State),
    let r := s.rateOf core
    let k := s.core core
    exec (.bucketFill core) s = .next (if r.1 = 0 then s else s.modCore core fun k' => { k' with
      bucket := max (-65536 * 1250) (min (1250 * (r.2 : Int)) (k.bucket + (r.1 * (s.clk - k.bucketAt) : Nat))), bucketAt := s.clk }))

/-! ### Queues and packets (20_queues) -/

/-- R356 to R362 and R369. A notify of a queue whose control block is cached is discarded when it does not raise WRPTR, faults the queue with
OVERRUN when it names more packets than the ring holds (at the WAIT that its hart is blocked in, else at RDPTR: log entry 56), and else sets
WRPTR, and an idle queue is pending, a mapped one's hart reads on; one whose QID fails its translation freezes the function. QCMDSTAT shows a
queue command in progress and then its end: DRAIN and KILL of a cached queue destroy it, RESUME leaves a FAULTED or DESTROYED queue at rest
with result 0, one that the queue's state refuses has that result, and one for a QID whose command waits at the hub is refused as busy (that
the command complex acts so and in these times is the model's choice: log entries 57 and 58). qcbLoad brings a block in that is not there,
with its state; one that fails its check is FROZEN, and its function with it. A pending queue is mapped to the lowest free hart; one pending
for 1,000 µs is mapped by its own event. A hub register write through BAR0 goes to its function's window, and through BAR2 to the block its
offset is in.
Completion: notify, destroyDrain, destroyKill, resume, qcbLoad, queueMap, queuePendingAging, hubRegisterWrite. -/
def Obligations.QueueCommands : Prop :=
  (∀ (func q : Nat) (n : BitVec 64) (s : State) (pa : Nat) (x : Qcb), (s.func func).resetting = false → s.qidBlock func q = .block pa →
    s.qcb? pa = some x →
    (n.toNat ≤ x.wrptr ∨ x.st = .destroyed → exec (.notify func q n) s = .next s) ∧
    (x.wrptr < n.toNat → x.st ≠ .destroyed → (n.toNat + 2 ^ 64 - x.rdptr) % 2 ^ 64 > 2 ^ x.cfg →
      exec (.notify func q n) s = .next (s.faultQueue x (s.frontOf x) 8)) ∧
    (x.wrptr < n.toNat → (n.toNat + 2 ^ 64 - x.rdptr) % 2 ^ 64 ≤ 2 ^ x.cfg → x.st = .idle → exec (.notify func q n) s =
      .next (((s.modQcb x.pa fun y => { y with wrptr := n.toNat, since := s.clk }).setQState x.pa .pending).post 0 .queueMap)) ∧
    (x.wrptr < n.toNat → (n.toNat + 2 ^ 64 - x.rdptr) % 2 ^ 64 ≤ 2 ^ x.cfg → x.st = .pending →
      exec (.notify func q n) s = .next (s.modQcb x.pa fun y => { y with wrptr := n.toNat })) ∧
    (x.wrptr < n.toNat → (n.toNat + 2 ^ 64 - x.rdptr) % 2 ^ 64 ≤ 2 ^ x.cfg → x.st = .mapped → ∀ h,
      s.harts.find? (fun h => h.qcb = some x.pa) = some h → exec (.notify func q n) s =
        .next ((s.modQcb x.pa fun y => { y with wrptr := n.toNat }).post 32 (.packetRead h.num)))) ∧
  (∀ (func q : Nat) (n : BitVec 64) (s : State), (s.func func).resetting = true → exec (.notify func q n) s = .next s) ∧
  (∀ (func q : Nat) (n : BitVec 64) (s : State), (s.func func).resetting = false → s.qidBlock func q = .violation →
    exec (.notify func q n) s = .next (s.violate 3 func q 0 (.function func))) ∧
  (∀ (func q : Nat) (pf : Bool) (s : State) (pa : Nat) (x : Qcb), (s.func func).resetting = false → s.qidBlock func q = .block pa →
    s.qcb? pa = some x →
    let busy := s.setCmdStat func q 0 true
    let all := fun (P : Host.Outcome State Fault Refusal → Prop) =>
      P (exec (.destroyDrain func q pf) s) ∧ P (exec (.destroyKill func q pf) s) ∧ P (exec (.resume func q pf) s)
    let answers := fun (r : Nat) (o : Host.Outcome State Fault Refusal) => ∃ t, o = .next t ∧ t.mem = s.mem ∧ t.qcbs = s.qcbs ∧
      (t.func func).qcmdstat = BitVec.ofNat 32 (q % 4096 + r * 4096)
    (s.commandWaits func q = true → all (answers 1)) ∧
    (s.commandWaits func q = false →
      (∀ r, r < 8 → x.refuses pf false = some r → answers r (exec (.destroyDrain func q pf) s) ∧ answers r (exec (.destroyKill func q pf) s)) ∧
      (∀ r, r < 8 → x.refuses pf true = some r → answers r (exec (.resume func q pf) s)) ∧
      (x.refuses pf false = none →
        (let t := busy.destroy x (some (func, q)) (s.packets.filter fun p => p.qcb = x.pa && p.watch.isSome)
         (t.func func).frozen = false → exec (.destroyDrain func q pf) s = .next t) ∧
        (let t := busy.killQueue x (some (func, q))
         (t.func func).frozen = false → exec (.destroyKill func q pf) s = .next t)) ∧
      (x.refuses pf true = none → (s.func func).frozen = false → ∃ t, exec (.resume func q pf) s = .next t ∧
        (s.clk, Instr.queueMap) ∈ t.agenda ∧ (t.func func).qcmdstat = BitVec.ofNat 32 (q % 4096) ∧
        ∀ y, t.qcb? pa = some y → y.rdptr = x.rdptr ∧ y.wrptr = x.wrptr ∧ y.st = if x.rdptr < x.wrptr then .pending else .idle))) ∧
  (∀ (func q : Nat) (pf : Bool) (s : State), (s.func func).resetting = true →
    exec (.destroyDrain func q pf) s = .next s ∧ exec (.destroyKill func q pf) s = .next s ∧ exec (.resume func q pf) s = .next s) ∧
  (∀ (func q : Nat) (s : State) (pa : Nat), s.qidBlock func q = .block pa →
    let x := s.readQcb pa func q
    let add := fun (y : Qcb) => ({ s with qcbs := s.qcbs ++ [y], qcbsOut := s.qcbsOut.filter fun z => z.1 ≠ pa } : State)
    (∀ x, s.qcb? pa = some x → exec (.qcbLoad func q) s = .next s) ∧
    (s.qcb? pa = none → s.qcbs.length < 256 → s.qcbPasses pa func = true →
      ((s.func func).frozen = false → x.st = .pending → exec (.qcbLoad func q) s = .next ((add x).post 0 .queueMap)) ∧
      ((s.func func).frozen = false → x.st ≠ .pending → x.st ≠ .frozen → exec (.qcbLoad func q) s = .next (add x)) ∧
      ((s.func func).frozen = true ∨ x.st = .frozen →
        exec (.qcbLoad func q) s = .next ((add { x with st := .frozen }).syncQueue pa))) ∧
    (s.qcb? pa = none → s.qcbs.length < 256 → s.qcbPasses pa func = false → exec (.qcbLoad func q) s =
      .next (((add { x with st := .frozen }).syncQueue pa).violate 4 func q 0 (.function func)))) ∧
  (∀ (s : State), ∃ t, exec .queueMap s = .next t ∧ (s.hubWaits = [] → s.pendingQueues = [] → t = s) ∧
    ∀ q h, s.hubWaits = [] → s.pendingQueues = [q] → (List.range 32).find? (fun h => (s.hart? h).isNone) = some h →
      t = s.mapTo q.pa h) ∧
  (∀ (qcb : Nat) (s : State),
    ((s.pendingQueues.any fun q => q.pa = qcb && decide (s.clk ≥ q.since + 1250000)) = false →
      exec (.queuePendingAging qcb) s = .next s) ∧
    ∀ q, s.pendingQueues.find? (fun q => q.pa = qcb && decide (s.clk ≥ q.since + 1250000)) = some q →
      exec (.queuePendingAging qcb) s = .next (s.mapQueue q.pa)) ∧
  (∀ (off func : Nat) (v : BitVec 64) (s : State),
    exec (.hubRegisterWrite off func false v) s = .next (s.writeWindow func off false v) ∧
    (off < 0x210000 → 0x200000 ≤ off → exec (.hubRegisterWrite off func true v) s = .next (s.writeReliability (off - 0x200000) v)) ∧
    (off < 0x101000 → 0x100000 ≤ off → exec (.hubRegisterWrite off func true v) s = .next (s.writePacer (off - 0x100000) v)) ∧
    (0x1000000 ≤ off → exec (.hubRegisterWrite off func true v) s =
      .next (s.writeWindow ((off - 0x1000000) / 0x20000) (off % 0x20000) true v)) ∧
    (off < 0x100000 ∨ (0x101000 ≤ off ∧ off < 0x200000) ∨ (0x210000 ≤ off ∧ off < 0x1000000) →
      exec (.hubRegisterWrite off func true v) s = .next s))

/-- R363 to R365 and R309: starting each type of packet that a hart holds. A packet whose header is bad completes BADPKT, one its function may
not send DENIED, a LAUNCH whose record is refused REJECTED; the queue is then FAULTED at it. A NOP is over at its start. A LAUNCH whose
record passes expands its grid. A WAIT whose condition holds is over, and else blocks its hart. INVAL takes the translations of its context
and range, and of its stage in the walk caches, out of the partition. GROUP writes its entry. PREEMPT waits for the cores it asks for. PART
makes a partition of unowned sectors, or dissolves one. A record or a WAIT's page that is not there is walked for first (what a packet
leaves behind and which status a refused address gives is the model's choice: log entries 56, 57 and 58). Completion: nop, launch, wait,
inval, group, preempt, partCreate, partDissolve. R355, R364, R365 and R368. A packet completes once: it is in execution no longer, and a
status that faults puts a queue that is mapped into FAULTED at it; while the page of its signal word is missing it waits. A watched line's
change completes a blocked WAIT whose condition holds, with OK; its bound completes it with TIMEOUT. A hart reads the next packet of its
queue in two halves of 32 bytes, one in a slot of its own each, walks for a page it lacks, reads in the next clk where the slice cannot
start the read, and faults its queue with RINGFAULT where the reading is denied; a packet whose own address is denied fails at its start, a
LAUNCH REJECTED and another BADPKT; with nothing to read it does nothing (the times of a packet's start and its statuses there are the
model's choice: log entries 56 and 57). Completion: packetComplete, watchWake, waitTimeout, packetRead. -/
def Obligations.PacketsRun : Prop :=
  ((∀ (h : Nat) (s : State) (q : Qcb) (num : Nat) (ws : List Dbl), HartHas s h q num ws →
     (headerOk ws = false → ∀ i ∈ [Instr.nop h, .launch h, .wait h, .inval h, .group h, .preempt h, .partCreate h, .partDissolve h],
       exec i s = .next (s.failStart h q num ws 6)) ∧
     (headerOk ws = true → zeroFrom ws 3 = true → exec (.nop h) s = .next (s.beginDone h q num ws)) ∧
     (headerOk ws = true → zeroFrom ws 3 = false → exec (.nop h) s = .next (s.failStart h q num ws 6))) ∧
   (∀ (h : Nat) (s : State) (q : Qcb) (num : Nat) (ws : List Dbl), HartHas s h q num ws → headerOk ws = true →
     addrOk (pktWord ws 3) 64 = true → zeroFrom ws 4 = true →
     (∀ x, s.hubWords (s.hubCore q.part) q.ctx (pktWord ws 3) 64 = .inr x → exec (.launch h) s = .next (s.hubWalk h q x.1)) ∧
     (∀ l, s.hubWords (s.hubCore q.part) q.ctx (pktWord ws 3) 64 = .inl l →
       let g := gridOf s.ids num q l
       (s.recordOk q g l = false → exec (.launch h) s = .next (s.failStart h q num ws 1)) ∧
       (s.recordOk q g l = true → ∀ pas, s.tableAddrs g g.tbcount = .inl pas → (∀ pa ∈ pas, ∀ o, s.obj? pa = some o → o.tile = true) →
         ∃ t, exec (.launch h) s = .next t ∧ t.mem = s.mem ∧ g ∈ t.grids ∧ (∃ p ∈ t.packets, p.qcb = q.pa ∧ p.num = num ∧ p.grid = some g.id) ∧
           (∀ pa ∈ pas, ∃ o, t.obj? pa = some o ∧ o.tile = true) ∧ (∃ n ∈ t.nodes, n.part = g.part ∧ n.num = g.node ∧ g.count ≤ n.live) ∧
           ∀ y, t.qcb? q.pa = some y → y.rdptr = num + 1))) ∧
   (∀ (h : Nat) (s : State) (q : Qcb) (num : Nat) (ws : List Dbl), HartHas s h q num ws → headerOk ws = true →
     addrOk (pktWord ws 3) 8 = true → pktWord ws 6 % 2 ^ 32 ≤ 3 → zeroFrom ws 7 = true →
     (∀ x, s.hubAddr (s.hubCore q.part) q.ctx (pktWord ws 3) 0 = .inr x → exec (.wait h) s = .next (s.hubWalk h q (pktWord ws 3))) ∧
     (∀ pa, s.hubAddr (s.hubCore q.part) q.ctx (pktWord ws 3) 0 = .inl pa →
       (waitHolds ws (s.homeDbl pa) = true → exec (.wait h) s = .next (s.beginDone h q num ws)) ∧
       (waitHolds ws (s.homeDbl pa) = false → ∃ t, exec (.wait h) s = .next t ∧ t.mem = s.mem ∧
         (∀ x, t.hart? h = some x → x.blocked = some num) ∧ (∃ p ∈ t.packets, p.qcb = q.pa ∧ p.num = num ∧ p.watch = some (pa / 128)) ∧
         (pktWord ws 6 / 2 ^ 32 ≠ 0 → (s.clk + pktWord ws 6 / 2 ^ 32 * 1250, Instr.waitTimeout h num) ∈ t.agenda)))) ∧
   (∀ (h : Nat) (s : State) (q : Qcb) (num : Nat) (ws : List Dbl), HartHas s h q num ws → headerOk ws = true →
     addrOk (pktWord ws 3) 4096 = true → pktWord ws 4 % 4096 = 0 → pktWord ws 5 ≠ 0 → pktWord ws 5 ≤ 3 → zeroFrom ws 6 = true →
     (pktWord ws 5 ≠ 1 → q.qfunc ≠ 0 → exec (.inval h) s = .next (s.failStart h q num ws 7)) ∧
     (pktWord ws 5 = 1 ∨ q.qfunc = 0 → ∃ t, exec (.inval h) s = .next t ∧
       (∀ c ∈ s.partCores q.part, ∀ e ∈ (t.core c).tlb, e.ctx = q.ctx →
         pktWord ws 4 ≠ 0 ∧ (e.va + e.size ≤ pktWord ws 3 % 2 ^ 48 ∨ pktWord ws 3 % 2 ^ 48 + pktWord ws 4 ≤ e.va)) ∧
       ∀ p, s.part? q.part = some p → ∀ e ∈ t.walkCache, e.sector ∈ p.sectors → e.ctx = q.ctx →
         pktWord ws 5 = 3 ∨ e.stage = pktWord ws 5 →
         pktWord ws 4 ≠ 0 ∧ ∀ r ∈ s.rangeReads e.sector q.ctx (pktWord ws 3) (pktWord ws 4), r.pa ≠ e.pa)) ∧
   (∀ (h : Nat) (s : State) (q : Qcb) (num : Nat) (ws : List Dbl), HartHas s h q num ws → headerOk ws = true →
     let gid := pktWord ws 4 % 2 ^ 32
     let p := pktWord ws 4 / 2 ^ 32
     addrOk (pktWord ws 3) 8 = true → gid < 256 → p ≠ 0 → p ≤ 4096 → zeroFrom ws 6 = true →
     ∀ l, s.hubWords (s.hubCore q.part) q.ctx (pktWord ws 3) (2 * p) = .inl l → (∀ i < p, (l.getD (2 * i + 1) 0).toNat < 2 ^ 18) →
       exec (.group h) s = .next ((s.modPart q.part fun x => { x with groups := (x.groups.filter fun g => g.1 ≠ gid) ++
         [(gid, (List.range p).map (fun i => ((l.getD (2 * i) 0).toNat, (l.getD (2 * i + 1) 0).toNat % 2 ^ 14,
           (l.getD (2 * i + 1) 0).toNat / 2 ^ 14)), q.pa, pktWord ws 5)] }).beginDone h q num ws)) ∧
   (∀ (h : Nat) (s : State) (q : Qcb) (num : Nat) (ws : List Dbl), HartHas s h q num ws → headerOk ws = true →
     let k := pktWord ws 3 % 2 ^ 32
     let prio := pktWord ws 3 / 2 ^ 32
     k ≠ 0 → k ≤ 768 → prio ≠ 0 → prio ≤ 7 → zeroFrom ws 4 = true →
     exec (.preempt h) s = .next (if (s.preempt q.part k prio).2 = [] then (s.preempt q.part k prio).1.beginDone h q num ws
       else (s.preempt q.part k prio).1.begin h q num ws fun p => { p with cores := (s.preempt q.part k prio).2 })) ∧
   (∀ (h : Nat) (s : State) (q : Qcb) (num : Nat) (ws : List Dbl), HartHas s h q num ws → headerOk ws = true →
     let mask := pktWord ws 3 % 2 ^ 32
     let n := pktWord ws 3 / 2 ^ 32
     (q.qfunc ≠ 0 → exec (.partCreate h) s = .next (s.failStart h q num ws 7) ∧ exec (.partDissolve h) s = .next (s.failStart h q num ws 7)) ∧
     (q.qfunc = 0 → (kget 0 s.boot.grants 0) &&& mask = mask → mask ≠ 0 → partFieldsOk ws = true → s.part? n = none →
       (∀ k ∈ sectorsOf mask, s.sectorPart k = none) → ∃ t, exec (.partCreate h) s = .next t ∧ kget 0 t.pacer.shares n = 48 * (sectorsOf mask).length ∧
         ∃ p, t.part? n = some p ∧ p.sectors = sectorsOf mask ∧ p.bqbase = pktWord ws 4 ∧ p.bqcap = pktWord ws 5 % 2 ^ 32 ∧
           p.ctxslots = pktWord ws 5 / 2 ^ 32 ∧ p.logbase = pktWord ws 6 ∧ p.ctxbase = pktWord ws 7) ∧
     (q.qfunc = 0 → mask = 0 → ∀ p, s.part? n = some p → (∀ x ∈ s.nodes, x.part ≠ n) → s.partFrozen p = false →
       (∀ x ∈ s.packets, ∀ y, s.qcb? x.qcb = some y → y.part ≠ n) →
       ∃ t, exec (.partDissolve h) s = .next t ∧ t.part? n = none ∧ kget 0 t.pacer.shares n = 0))) ∧
  ((∀ (qcb num status : Nat) (s : State) (p : Packet) (q : Qcb), s.packet? qcb num = some p → s.qcb? qcb = some q →
     (status ≠ 0 ∨ ∀ g ∈ s.grids, g.qcb = qcb → g.packet = num → s.gridOver g = true) →
     (s.signal q num p.words status = none →
       exec (.packetComplete qcb num status) s = .next ((s.signalPage q p.words).post 20 (.packetComplete qcb num status))) ∧
     (s.signal q num p.words status ≠ none → ∃ t, exec (.packetComplete qcb num status) s = .next t ∧ t.packet? qcb num = none ∧
       ∀ y, t.qcb? qcb = some y → faultingStatus status = true → q.st = .mapped →
         y.st = .faulted ∧ y.laststat = status ∧ y.faultpkt = num)) ∧
   (∀ (h num : Nat) (s : State) (x : Hart) (pa : Nat) (p : Packet) (q : Qcb) (a : Nat), s.hart? h = some x → x.qcb = some pa →
     x.blocked = some num → s.packet? pa num = some p → s.qcb? pa = some q →
     (x.denied = false → s.hubAddr (s.hubCore q.part) q.ctx (pktWord p.words 3) 0 = .inl a →
       let s1 : State := { s with packets := s.packets.map fun y =>
         if y.qcb = pa ∧ y.num = num then { y with watch := some (a / 128) } else y }
       exec (.watchWake h) s = .next (if waitHolds p.words (s.homeDbl a) then s1.waitEnds h pa num 0 else s1)) ∧
     (x.denied = false → ∀ e, s.hubAddr (s.hubCore q.part) q.ctx (pktWord p.words 3) 0 = .inr e →
       exec (.watchWake h) s = .next (s.hubWalk h q (pktWord p.words 3))) ∧
     exec (.waitTimeout h num) s =
       .next (if p.since + pktWord p.words 6 / 2 ^ 32 * 1250 ≤ s.clk then s.waitEnds h pa num 4 else s)) ∧
   (∀ (h : Nat) (s : State) (x : Hart) (q : Qcb), s.hart? h = some x → x.qcb = some q.pa → x.blocked = none → s.qcb? q.pa = some q →
     q.st = .mapped →
     let s1 := s.modHart h fun y => { y with denied := false }
     let va := q.ring + 64 * (q.rdptr % 2 ^ q.cfg)
     let dbls := fun (l : List Word32) => (List.range 4).map fun i => l.getD (2 * i + 1) 0 ++ l.getD (2 * i) 0
     (q.wrptr ≤ q.rdptr → exec (.packetRead h) s = .next s) ∧
     (q.rdptr < q.wrptr → x.read = none → x.denied = true → exec (.packetRead h) s = .next (s1.faultQueue q q.rdptr 9)) ∧
     (q.rdptr < q.wrptr → x.read = none → x.denied = false → ∀ a first,
       (match x.half with | some y => if y.1 = q.rdptr then y.2 else [] | none => []) = first → a = va + 8 * first.length →
       (∀ y, s1.hubWords (s1.hubCore q.part) q.ctx a 8 = .inr y →
         exec (.packetRead h) s = .next ((s1.modHart h fun y => { y with half := none }).hubWalk h q y.1)) ∧
       (∀ l pa, s1.hubWords (s1.hubCore q.part) q.ctx a 8 = .inl l → s1.hubAddr (s1.hubCore q.part) q.ctx a 0 = .inl pa →
         (s1.directStart pa q.ctx.func = none → exec (.packetRead h) s = .next (s1.post 1 (.packetRead h))) ∧
         (∀ u, s1.directStart pa q.ctx.func = some u → first.length < 4 → exec (.packetRead h) s =
           .next ((u.modHart h fun y => { y with half := some (q.rdptr, first ++ dbls l) }).post 32 (.packetRead h))) ∧
         (∀ u, s1.directStart pa q.ctx.func = some u → first.length ≥ 4 → exec (.packetRead h) s =
           .next ((u.modHart h fun y => { y with half := none, read := some (q.rdptr, first ++ dbls l) }).startRead? h)))) ∧
     (q.rdptr < q.wrptr → ∀ num ws, x.read = some (num, ws) →
       (x.denied = false → exec (.packetRead h) s = .next (s1.startRead? h)) ∧
       (x.denied = true → exec (.packetRead h) s =
         .next (s1.failStart h q num ws (if pktWord ws 0 % 256 = 1 then 1 else 6))))))

/-! ### Errors, links, freezing and tests (21_containment) -/

/-- R371 to R376. A corrected error of a partition's request is counted with its SOURCE and sets CE, and changes nothing that a program
sees; one that cannot be corrected sets UE and the SOURCE, is counted and recorded with its address, marks the word of memory bad (SOURCE 0),
and aborts its requester, or what the compactor had of the line (SOURCE 3). Patrol scrub leaves memory as it is: a word it finds bad in a
partition's sector sets PATROL with SOURCE 0, is counted, recorded and marked, and a word it finds good is at most a corrected error counted
there (which of the two is a free choice of the model, log 60). A refresh holds its bank, begins a new window of the counts of its rows,
and ends by freeing the bank once for each hold; refresh management ends one row's count; how long either lasts is the model's free number
of at most 500 clk (log 12). A port sends an idle flit and again 0.5 µs later; a flit from a package not named failed is heard of the port
and of the package; a port silent for 2 µs is down; a switch is remembered as failed when all its ports have been down for 20 µs and a group
when all that lead to it have for 200 µs (which ports these are is the model's open topology, log 60); a package silent for 250 µs and not
yet named is named as failed, and where it is in no group of a partition that is all.
Completion: eccError, patrolRead, refresh, refreshManagement, idleFlit, haledFlitArrival, linkFailure, switchFailure, groupFailure,
namedFailure. -/
def Obligations.ErrorsAndLinks : Prop :=
  (∀ (part source pa op : Nat) (s : State), ∃ t, exec (.eccError part source pa op true) s = .next t ∧ t.mem = s.mem ∧ t.wgs = s.wgs ∧
    t.cores = s.cores ∧ (t.relPart part).cecount = capUp (s.relPart part).cecount ∧ (t.relPart part).errstat.getLsbD 0 = true ∧
    (source < 16 → ((t.relPart part).errstat.toNat / 16) % 16 = source) ∧ (t.relPart part).uecount = (s.relPart part).uecount) ∧
  (∀ (part source pa op : Nat) (s : State), ∃ s1 s2,
    s1 = s.recordUncorrectable part source (some pa) false ∧ s2 = (if source = 0 then s1.markBad pa else s1) ∧
    exec (.eccError part source pa op false) s =
      .next (if source = 3 then s2.compactorAborts part pa (s2.allRecords.filter fun x => x.2.live && x.2.line = pa / 128)
        else s2.abortRequester part pa op) ∧
    (s1.relPart part).uecount = capUp (s.relPart part).uecount ∧ (s1.relPart part).erraddr = BitVec.ofNat 64 pa ∧
    (s1.relPart part).errstat.getLsbD 1 = true ∧ (source < 16 → ((s1.relPart part).errstat.toNat / 16) % 16 = source) ∧
    (s1.relPart part).cecount = (s.relPart part).cecount ∧ (source = 0 → isHbm pa = true → pa / 4 ∈ s2.badWords)) ∧
  (∀ (pa : Nat) (s : State), ∃ t, exec (.patrolRead pa false) s = .next t ∧ t.mem = s.mem ∧ t.wgs = s.wgs ∧
    (t = s.takeFree ∨ ∃ p, s.sectorPart (paSector pa) = some p ∧ t = s.takeFree.correctable p.num 0)) ∧
  (∀ (pa : Nat) (s : State), ∃ t, exec (.patrolRead pa true) s = .next t ∧ t.mem = s.mem ∧ t.wgs = s.wgs ∧
    (isHbm pa = true → pa / 4 ∈ t.badWords) ∧
    ∀ p, s.sectorPart (paSector pa) = some p → (t.relPart p.num).errstat.getLsbD 2 = true ∧
      ((t.relPart p.num).errstat.toNat / 16) % 16 = 0 ∧ (t.relPart p.num).erraddr = BitVec.ofNat 64 pa ∧
      (t.relPart p.num).uecount = capUp (s.relPart p.num).uecount) ∧
  (∀ (stack bank : Nat) (s : State), s.rfmClk ≤ 500 ∧
    (∃ t, exec (.refresh stack bank false) s = .next t ∧ t.mem = s.mem ∧ (t.hbm stack).busy = (s.hbm stack).busy ++ [bank] ∧
      (t.hbm stack).acts = ((s.hbm stack).acts.filter fun a => a.1 ≠ bank) ∧ (s.clk + s.rfmClk, Instr.refresh stack bank true) ∈ t.agenda) ∧
    (∃ t, exec (.refresh stack bank true) s = .next t ∧ t.mem = s.mem ∧ (t.hbm stack).busy = (s.hbm stack).busy.erase bank)) ∧
  (∀ (stack bank row : Nat) (s : State), ∃ t, exec (.refreshManagement stack bank row) s = .next t ∧ t.mem = s.mem ∧
    (t.hbm stack).busy = (s.hbm stack).busy ++ [bank] ∧
    (t.hbm stack).acts = ((s.hbm stack).acts.filter fun a => !(a.1 = bank && a.2.1 = row)) ∧
    (s.clk + s.rfmClk, Instr.refresh stack bank true) ∈ t.agenda) ∧
  (∀ (port : Nat) (s : State), exec (.idleFlit port) s =
    .next (((s.modPort port fun p => { p with sent := s.clk }).send (.idleFlit port)).post 625 (.idleFlit port))) ∧
  (∀ (port pkg : Nat) (s : State), exec (.haledFlitArrival port pkg) s =
    .next (if pkg ∈ s.namedFailures then s
      else { s.modPort port (fun p => { p with heard := s.clk, down := false }) with heardFrom := kset s.heardFrom pkg s.clk })) ∧
  (∀ (port : Nat) (s : State), exec (.linkFailure port) s =
    .next (if (s.port port).heard + 2500 ≤ s.clk then s.modPort port fun p => { p with down := true } else s)) ∧
  (∀ (n : Nat) (s : State), ∃ t, exec (.switchFailure n) s = .next t ∧ t = { s with switchesDown := t.switchesDown } ∧
    ∀ x, x ∈ t.switchesDown ↔ x ∈ s.switchesDown ∨
      (x = n ∧ ∀ p < 18, Config.portSwitch p = n → (s.port p).heard + 2500 + 25000 ≤ s.clk)) ∧
  (∀ (n : Nat) (s : State), ∃ t, exec (.groupFailure n) s = .next t ∧ t = { s with groupsDown := t.groupsDown } ∧
    ∀ x, x ∈ t.groupsDown ↔ x ∈ s.groupsDown ∨
      (x = n ∧ ∀ p < 18, Config.portReaches p n = true → (s.port p).heard + 2500 + 250000 ≤ s.clk)) ∧
  (∀ (pkg : Nat) (s : State),
    ((pkg ∈ s.namedFailures ∨ ∃ x ∈ s.heardFrom, x.1 = pkg ∧ s.clk < x.2 + 312500) → exec (.namedFailure pkg) s = .next s) ∧
    (pkg ∉ s.namedFailures → (∀ x ∈ s.heardFrom, x.1 = pkg → x.2 + 312500 ≤ s.clk) →
      (∃ t, exec (.namedFailure pkg) s = .next t ∧ t.namedFailures = s.namedFailures ++ [pkg]) ∧
      ((∀ p ∈ s.parts, ∀ g ∈ p.groups, ∀ m ∈ g.2.1, m.2.1 ≠ pkg) → exec (.namedFailure pkg) s =
        .next (State.send { s with namedFailures := s.namedFailures ++ [pkg] } (.named pkg)))))

/-- R378, R379, R383 and R385. A violation freezes the crew, channel or function that caused it, and a starter for a request of its own (CREW
127: the model's choice, log 20). THAW and KILL act on the master in FRZLOG while it is VALID, and acknowledging it clears VALID and MORE
(what a thawed or killed starter or channel does then is the model's reading, log 20). A test that falls due is due again a test period
later, and is either begun at once or pending; after 50 ms in vain it is skipped, and the third skip in a row blocks the quad; a test that is
over keeps its tokens as ballast, drops the asking of its arrays, clears the skips where it passes, and marks its quad failed where it fails
(its outcome is an input of this step, log 12). A mismatch in paired mode rolls the node back and counts a corrected error.
Completion: violation, thaw, kill, acknowledge, inFieldTestDue, inFieldTestSkip, inFieldTestComplete, comparatorMismatch. -/
def Obligations.FreezeAndTests : Prop :=
  (∀ (cause func unit crew : Nat) (s : State),
    (cause = 1 → crew = 127 → exec (.violation cause func unit crew) s =
      .next (s.violate cause func unit crew (.starter (coreQuad unit)))) ∧
    (cause = 1 → crew ≠ 127 → exec (.violation cause func unit crew) s =
      .next (match s.crewAt unit crew with | some m => s.violate cause func unit crew m | none => s)) ∧
    (cause = 2 → exec (.violation cause func unit crew) s = .next (s.violate cause func unit crew (.channel unit))) ∧
    (2 < cause → exec (.violation cause func unit crew) s = .next (s.violate cause func unit crew (.function func)))) ∧
  (∀ (cause func unit crew : Nat) (s : State),
    unit ∈ (s.violate cause func unit crew (.channel unit)).frozenChans ∧
    ((s.violate cause func unit crew (.function func)).func func).frozen = true ∧
    (s.violate cause func unit crew (.channel unit)).mem = s.mem) ∧
  (∀ (s : State),
    (s.frzlog.getLsbD 63 = false → exec .thaw s = .next s ∧ exec .kill s = .next s) ∧
    (s.frzlog.getLsbD 63 = true → ∀ m, s.frzWho = some m → exec .thaw s = .next (s.thawMaster m) ∧ exec .kill s = .next (s.killMaster m)) ∧
    exec .acknowledge s = .next { s with frzlog := s.frzlog &&& 0x3FFFFFFFFFFFFFFF, frzWho := none }) ∧
  (∀ (quad : Nat) (s : State), ∃ t, exec (.inFieldTestDue quad) s = .next t ∧ t.mem = s.mem ∧
    (s.clk + s.boot.iftint * 4500000000000, Instr.inFieldTestDue quad) ∈ t.agenda ∧
    ((s.quad quad).failed = false → (s.quad quad).testing = false → (s.quad quad).testDue = none →
      ((t.quad quad).testDue ≠ none ∨ (t.quad quad).testing = true) ∧ (s.clk + 62500000, Instr.inFieldTestSkip quad) ∈ t.agenda)) ∧
  (∀ (quad : Nat) (s : State), ∃ t, exec (.inFieldTestSkip quad) s = .next t ∧ t.mem = s.mem ∧
    ((s.quad quad).testDue = none → t = s) ∧
    (∀ d, (s.quad quad).testDue = some d → d + 62500000 ≤ s.clk → (s.quad quad).blocked = false →
      (t.quad quad).skips = min 3 ((s.quad quad).skips + 1) ∧ ((t.quad quad).blocked = true ↔ 2 ≤ (s.quad quad).skips))) ∧
  (∀ (quad : Nat) (pass : Bool) (s : State), ∃ t, exec (.inFieldTestComplete quad pass) s = .next t ∧ t.mem = s.mem ∧
    ((s.quad quad).testing = false → t = s) ∧
    ((s.quad quad).testing = true → (t.quad quad).testing = false ∧
      (∀ i < 4, (t.core (quadCore quad i)).token = (s.core (quadCore quad i)).token.toBallast s.clk ∧
        (t.core (quadCore quad i)).asked = false) ∧
      (pass = true → (t.quad quad).skips = 0 ∧ (t.quad quad).blocked = false ∧ (t.quad quad).passed = s.clk) ∧
      (pass = false → (t.quad quad).failed = true))) ∧
  (∀ (part node : Nat) (s : State), exec (.comparatorMismatch part node) s =
    .next (match s.node? part node with | none => s | some _ => (s.correctable part 4).rollback part node []))

/-! ### The host's side (22_host) -/

/-- R386 and R388 to R391. A stage-2 request that has not been sent is entered in the fault ring where it has room: the entry's two words at
TAIL, TAIL counted on; else it waits (a ring keeps one entry free: the model's reading, log 24). A stage-1 request is sent to the root
complex. A reply to an outstanding request settles it and reaches its walker 20 clk later; a reply to a request that a reset freed is
discarded (where the same INDEX has gone out again, which of the two a reply answers is a free choice of the model, log 59); a stage-1 reply
that names neither freezes the function; a stage-2 one is ignored. An invalidation takes the translations into host memory in its range out
of every core. A host access changes nothing at once: its lines are requests that arrive at their home slices in the clk of the step; there
a write changes the bytes of its line that it may change and no others (which these are is the model's reading, log 61), and a read of one
line sends the bytes as the slice holds them.
Completion: stage2FaultEntryWrite, pageRequestMessage, prgResponse, stage2ReplyWrite, atsInvalidation, cxlMemWrite, cxlMemRead. -/
def Obligations.HostRequests : Prop :=
  (∀ (req : Nat) (s : State) (r : PageReq) (n : Nat), s.pageReqs.find? (fun r => r.id = req) = some r → s.faultRing = some n →
    (r.sent = true ∨ s.faultRoom = false → exec (.stage2FaultEntryWrite req) s = .next s) ∧
    (r.sent = false → s.faultRoom = true → ∃ t, exec (.stage2FaultEntryWrite req) s = .next t ∧
      let tail := (s.func 0).s2ftail.toNat % n
      let a := natBits (s.func 0).s2fring.toNat 63 12 * 4096 + 16 * tail
      t.mem = (s.mem.setDbl a (BitVec.ofNat 64 (r.kind + r.page % 2 ^ 52 * 4096))).setDbl (a + 8) (BitVec.ofNat 64 (r.index + r.func * 256)) ∧
      (t.func 0).s2ftail = BitVec.ofNat 32 ((tail + 1) % n))) ∧
  (∀ (req : Nat) (s : State) (r : PageReq), s.pageReqs.find? (fun r => r.id = req) = some r → ∃ t, exec (.pageRequestMessage req) s = .next t ∧
    t.mem = s.mem ∧ t.sent = s.sent ++ [.pri r.func r.index r.page] ∧ ∀ x ∈ t.pageReqs, x.id = req → x.sent = true) ∧
  (∀ (func stage index : Nat) (r : PageReq) (ok : Bool) (s : State), s.outstanding func stage index = some r →
    (∀ x ∈ (s.settle r ok).pageReqs, x.id = r.id → x.settled = true) ∧
    (s.clk + 20, Instr.pageReplyAtWalker r.id ok) ∈ (s.settle r ok).agenda) ∧
  (∀ (func index : Nat) (ok : Bool) (s : State),
    (∀ r, s.outstanding func 1 index = some r →
      ((1, index) ∉ (s.func func).freed → exec (.prgResponse func index ok) s = .next (s.settle r ok).takeFree) ∧
      (exec (.prgResponse func index ok) s = .next (s.settle r ok).takeFree ∨
        exec (.prgResponse func index ok) s = .next (s.discardReply func 1 index))) ∧
    (s.outstanding func 1 index = none → (1, index) ∉ (s.func func).freed →
      exec (.prgResponse func index ok) s = .next (s.violate 5 func index 0 (.function func))) ∧
    (s.outstanding func 1 index = none → (1, index) ∈ (s.func func).freed → exec (.prgResponse func index ok) s =
      .next (s.modFunc func fun f => { f with freed := f.freed.filter fun n => n ≠ (1, index) }).takeFree)) ∧
  (∀ (v : BitVec 64) (s : State),
    let func := v.toNat / 512 % 64
    let index := v.toNat % 256
    (∀ r, s.outstanding func 2 index = some r →
      ((2, index) ∉ (s.func func).freed → exec (.stage2ReplyWrite v) s = .next (s.settle r (!v.getLsbD 8)).takeFree) ∧
      (exec (.stage2ReplyWrite v) s = .next (s.settle r (!v.getLsbD 8)).takeFree ∨
        exec (.stage2ReplyWrite v) s = .next (s.discardReply func 2 index))) ∧
    (s.outstanding func 2 index = none → (2, index) ∉ (s.func func).freed → exec (.stage2ReplyWrite v) s = .next s) ∧
    (s.outstanding func 2 index = none → (2, index) ∈ (s.func func).freed → exec (.stage2ReplyWrite v) s =
      .next (s.modFunc func fun f => { f with freed := f.freed.filter fun n => n ≠ (2, index) }).takeFree)) ∧
  (∀ (addr bytes : Nat) (s : State), ∃ t, exec (.atsInvalidation addr bytes) s = .next t ∧ t.mem = s.mem ∧
    ∀ c, ∀ e, e ∈ (t.core c).tlb ↔ e ∈ (s.core c).tlb ∧ ¬ (isHost e.pa = true ∧ e.va < addr + bytes ∧ addr < e.va + e.size)) ∧
  (∀ (pa : Nat) (bytes : List (BitVec 8)) (s : State), ∃ t o, exec (.cxlMemWrite pa bytes) s = .next t ∧ t.mem = s.mem ∧ t.wgs = s.wgs ∧
    t.ops = s.ops ++ [o] ∧ o.kind = .host true ∧ o.ranges = (((List.range bytes.length).zip bytes).map fun b => (pa + b.1, b.2.toNat)) ∧
    (o.lines.map fun l => l.line) = rangeLines pa bytes.length ∧
    ∀ n ∈ rangeLines pa bytes.length, (s.clk, Instr.sliceRequestArrival o.id n) ∈ t.agenda) ∧
  (∀ (pa : Nat) (bytes : List (BitVec 8)) (o : MemOp) (l : LineReq) (s : State), s.mem.wf = true →
    o.ranges = (((List.range bytes.length).zip bytes).map fun b => (pa + b.1, b.2.toNat)) →
    ∀ a, (s.hostWrite o l).mem.get a =
      if pa ≤ a ∧ a < pa + bytes.length ∧ a / 128 = l.line ∧ s.hostMayWrite a = true then bytes.getD (a - pa) 0 else s.mem.get a) ∧
  (∀ (pa len : Nat) (s : State), ∃ t o, exec (.cxlMemRead pa len) s = .next t ∧ t.mem = s.mem ∧ t.wgs = s.wgs ∧
    t.ops = s.ops ++ [o] ∧ o.kind = .host false ∧ o.a = pa ∧ o.n = len ∧ (o.lines.map fun l => l.line) = rangeLines pa len ∧
    ∀ n ∈ rangeLines pa len, (s.clk, Instr.sliceRequestArrival o.id n) ∈ t.agenda) ∧
  (∀ (o : MemOp) (l : LineReq) (s : State), s.op? o.id = some o → o.lines = [l] → o.a / 128 = l.line → o.a % 128 + o.n ≤ 128 →
    (s.hostRead o l).mem = s.mem ∧ (s.hostRead o l).op? o.id = none ∧
    (s.hostRead o l).sent = s.sent ++ [.readData o.a ((List.range o.n).map fun k => s.homeByte (o.a + k)) false])

/-- R389, R392 and R395 to R399. A function-level reset takes the function's queues and its queue table, and ends after 10 ms (the whole of
the time that R392 allows: the model's reading, log 59); then the function is no longer being reset. Unmasking a vector sends the message of
the events that came while it was masked; while the function is being reset it does nothing. RESET_N and PWROK put the machine in reset when
they change, with memory and flash kept (the model's reading, log 59), and boot starts when both are high. VRALERT_N asks for a step down of
every island that has an array with load. A telemetry report is held, and sent with LOAD, every rail and the summaries of the partitions. A module that fails lane repair is left out. Boot takes the first slot that verifies, and
with none the device is in recovery; a flash write that touches the active slot is refused.
Completion: functionLevelReset, functionResetComplete, vectorUnmask, resetN, pwrok, vralertN, telemetryReport, laneRepair, boot, flashWrite. -/
def Obligations.ResetsAndBoot : Prop :=
  (∀ (func : Nat) (s : State), ∃ t, exec (.functionLevelReset func) s = .next t ∧
    ∀ f, f = func ∨ (func = 0 ∧ f ≤ s.boot.vfcount) → (t.func f).resetting = true ∧ (t.func f).fqt1 = 0 ∧
      (∀ q ∈ t.qcbs, q.qfunc ≠ f) ∧ (s.clk + 12500000, Instr.functionResetComplete f) ∈ t.agenda) ∧
  (∀ (func : Nat) (s : State), exec (.functionResetComplete func) s = .next (s.modFunc func fun f => { f with resetting := false })) ∧
  (∀ (func vec : Nat) (s : State),
    ((s.func func).resetting = true → exec (.vectorUnmask func vec) s = .next s) ∧
    ((s.func func).resetting = false → ∃ t, exec (.vectorUnmask func vec) s = .next t ∧ t.mem = s.mem ∧
      (t.func func).masked.getLsbD vec = false ∧ (t.func func).pendingBits.getLsbD vec = false ∧
      t.sent = s.sent ++ (if (s.func func).masked.getLsbD vec && (s.func func).pendingBits.getLsbD vec then [.msix func vec] else []))) ∧
  (∀ (level : Bool) (s : State),
    (level = s.boot.resetN → exec (.resetN level) s = .next s) ∧
    (level ≠ s.boot.resetN → ∃ t, exec (.resetN level) s = .next t ∧ t.mem = s.mem ∧ t.boot.flash = s.boot.flash ∧ t.wgs = [] ∧ t.parts = [] ∧
      t.boot.resetN = level ∧ t.boot.locked = false ∧ t.agenda = if level && s.boot.pwrok then [(s.clk, Instr.boot)] else []) ∧
    (level = s.boot.pwrok → exec (.pwrok level) s = .next s) ∧
    (level ≠ s.boot.pwrok → ∃ t, exec (.pwrok level) s = .next t ∧ t.mem = s.mem ∧ t.boot.flash = s.boot.flash ∧ t.wgs = [] ∧ t.parts = [] ∧
      t.boot.pwrok = level ∧ t.boot.locked = false ∧ t.agenda = if s.boot.resetN && level then [(s.clk, Instr.boot)] else [])) ∧
  (∀ (s : State), ∃ t, exec .vralertN s = .next t ∧ t.mem = s.mem ∧ t.wgs = s.wgs ∧
    t.pacer.vf.length = s.pacer.vf.length + ((List.range 96).filter fun i => (islandCores i).any fun c => (s.core c).hasLoad).length ∧
    ∀ x ∈ t.pacer.vf, x ∈ s.pacer.vf ∨ x.up = false) ∧
  (∀ (rail volts amps temp : Nat) (s : State), exec (.telemetryReport rail volts amps temp) s = .next { s with
    telemetry := kset s.telemetry rail (volts, amps, temp)
    sent := s.sent ++ [.telemetry (s.readPacer 8) (kset s.telemetry rail (volts, amps, temp))
      ((List.range 16).map fun p => (p, [(s.relPart p).errstat.setWidth 64, (s.relPart p).erraddr, (s.relPart p).cecount.setWidth 64,
        (s.relPart p).uecount.setWidth 64, (s.relPart p).rhbounce]))] }) ∧
  (∀ (module : Nat) (ok : Bool) (s : State), ∃ t, exec (.laneRepair module ok) s = .next t ∧ t = { s with leftOut := t.leftOut } ∧
    ∀ x, x ∈ t.leftOut ↔ x ∈ s.leftOut ∨ (ok = false ∧ x = module)) ∧
  (∀ (s : State),
    (bootSlot s.boot.flash = none → ∃ t, exec .boot s = .next t ∧ t.boot.recovery = true ∧ t.boot.locked = s.boot.locked ∧ t.mem = s.mem) ∧
    (∀ slot, bootSlot s.boot.flash = some slot → ∃ t, exec .boot s = .next t ∧ t.boot.locked = true ∧ t.boot.recovery = false ∧ t.mem = s.mem ∧
      t.boot.vfcount = cfgWord s.boot.flash slot 4 ∧ t.pacer.ramp = cfgWord s.boot.flash slot 0x0C ∧
      t.boot.iftint = cfgWord s.boot.flash slot 0x14 ∧ Msg.booted slot ∈ t.sent)) ∧
  (∀ (off : Nat) (bytes : List (BitVec 8)) (s : State),
    let touches := ∃ a, s.boot.active = some a ∧ off < slotBase a + 0x800000 ∧ slotBase a < off + bytes.length
    (touches → exec (.flashWrite off bytes) s = .next { s with sent := s.sent ++ [.flashRefused off] }) ∧
    (¬ touches → exec (.flashWrite off bytes) s = .next { s with boot := { s.boot with flash := s.boot.flash.setBytes off bytes } }))

/-! ### Encoding (02_encoding) -/

/-- R25, R26, R43 and R46: the word of every well-formed instruction, whatever follows it in memory, decodes to that instruction, with every
field at every value its class admits. -/
def Obligations.DecodeEncode : Prop :=
  ∀ (i : Instr) (w : Word32) (rest : List Byte), WellFormed i → encode i = some w → decode (bytesOfWord w ++ rest) = .ok (i, rest)

/-- R25, R26, R43 and R46: a word that decodes is the word of the instruction that it decodes to, so that no two words stand for one
instruction and no reserved bit is dropped; and what is rejected has no fewer bytes than a word. -/
def Obligations.EncodeDecode : Prop :=
  (∀ (w : Word32) (i : Instr), decodeWord w = .ok i → encode i = some w) ∧
  (∀ (b : List Byte), decode b = .error .short ↔ b.length < 4)

/-- R44: the unused majors are rejected, and an issue group or a starter that stands at such a word takes ILLOP there, in place of the word. -/
def Obligations.UnusedMajorsTrap : Prop :=
  (∀ (x : Word32), x.extractLsb' 24 7 ∈ unusedMajors ↔ decodeWord x = .error .unusedMajor) ∧
  (∀ (s s1 : State) (core : Nat) (p : Plan) (served : Option Nat) (w : Wg) (x : Word32), CoreTurn s s1 core p served w →
    (s1.codeFor w p.pc)[p.pc.word.toNat]? = some x → x.extractLsb' 24 7 ∈ unusedMajors →
    let s0 : State := s1.modWg w.id fun y => y.beginGroup p
    let k : Clk := { words := [], next := p.pc, more := false, bad := some p.pc }
    step s = .next (State.endCoreClk s1 core served [p] (({ s0 with cur := none }.groupTrap w.id p.threads .illop p.pc p.pc).keepRun p k
      []))) ∧
  (∀ (s s1 : State) (q : Nat) (k : Starter) (x : Word32), StarterTurn s s1 q k → k.code[k.beginAt.word.toNat]? = some x →
    x.extractLsb' 24 7 ∈ unusedMajors →
    let p : Plan := { who := .starter q, threads := [], pc := k.beginAt, port := 0, packets := 0, again := false }
    let c : Clk := { words := [], next := k.beginAt, more := false, bad := some k.beginAt }
    let t := ((s1.modStarter q fun y => { y with pc := k.beginAt }).starterTrap q .illop k.beginAt k.beginAt).keepRun p c []
    step s = .next { t with cur := none, issuedAt := kset t.issuedAt (1024 + q) (t.clk + 1) })

/-- A few words written out from the encoding tables of R26, R43 and R46 decode to the instructions that they stand for. -/
def Obligations.SpecWordsDecode : Prop :=
  decodeWord 0b1_0000001_111_0_0_00101_1000110_1000011#32 = .ok (.sadd true 7 false 5 70 67) ∧
  decodeWord 0b0_0011000_010_1_001001_0001000_1111111#32 = .ok (.vaddI32 false 2 true 9 8 127) ∧
  decodeWord 0b0_0110010_111_0_101_011_0000001_0000010#32 = .ok (.vcmpF32 false 7 false 5 3 1 2) ∧
  decodeWord 0b0_1010010_111_0_000100_1000001_0001111#32 = .ok (.ld false 7 false 4 65 15) ∧
  decodeWord 0b0_1101000_011_111111111111111111110#32 = .ok (.br 3 0x1FFFFE) ∧
  decodeWord 0b0_1000000_111_0_000010_0000001_00_1_0010#32 = .ok (.cvtEnc false 7 false 2 1 0 2) ∧
  decodeWord 0b0_0000000_000_0_000000_0000000_0000000#32 = .error .unusedMajor ∧
  decodeWord 0b0_0101111_111_0_000000_0000000_0000111#32 = .error .noRow

/-! ### Steps -/

/-- R34 to R36, R39 and R254 to R255: when nothing is due and a core or a starter begins a group at a word that decodes to an accepted
instruction, the step is exec of that instruction on the issuer as it stands, followed by the end of the clk; threads that a trap has not
taken, or that a bar has let through, go on behind the word. At a rep word the step begins the sequence. The order of the steps of a clk is
the model's choice (log 1): what is due first, then parks that end, then bounds of bwait, then cores and starters, then a vacate, and where
nothing is left the clk is counted on. That a clk whose word parks stands on the state before it, and that threads which a trap has not taken
go on behind the word, is its reading (log 33). -/
def Obligations.StepRunsDecodedWord : Prop :=
  (∀ (s : State) (e : Nat × Instr), s.nextDue = some e → step s = exec e.2 { s with agenda := without e s.agenda }) ∧
  (∀ (s : State) (wg crew : Nat), s.nextDue = none → s.nextPark = some (wg, crew) → step s = exec (.parkEnd wg crew) s) ∧
  (∀ (s : State) (wg crew m : Nat), s.nextDue = none → s.nextPark = none → s.nextBound = some (wg, crew, m) →
    step s = exec (.bwaitBoundExpiry wg crew m) s) ∧
  (∀ (s : State), Quiet s → s.nextTurn = none →
    (∀ e, s.nextVacate = some e → step s = exec e.2 { s with agenda := without e s.agenda }) ∧
    (s.nextVacate = none → step s = exec .pacerCreditTick s)) ∧
  (∀ (s s1 : State) (core : Nat) (p : Plan) (served : Option Nat) (w : Wg) (i : Instr) (lit : Word32) (t : State),
    CoreTurn s s1 core p served w → WordAt (s1.codeFor w p.pc) (s1.accepts w) p.pc i lit →
    let s0 := s1.modWg w.id fun y => y.beginGroup p
    let is := issueAt (.group w.id) p.threads p.pc i lit s1.ids (some (w.beginGroup p)) none
    exec i { s0 with cur := some is } = .next t →
    let through := letThrough t p p.threads
    let left := untrapped s0 t p p.threads
    (t.howEnded = .parked → through ≠ [] → ∃ c g a sc, i = .bar c g a sc) →
    let t1 := match t.howEnded with
      | .parked => if through = [] then t else { t.retire { is with threads := through } w.id with cur := t.cur }
      | .trapped => if left = [] then t else (t.retire { is with threads := left } w.id).ended .trapped
      | _ => t
    let word : ClkWord := { instr := i, addr := p.pc, lit := lit }
    let k : Clk := { words := [word], next := afterWord p.pc i, more := false, bad := none }
    step s = .next (State.endCoreClk s1 core served [p] ((t1.useUnits w p.port [word]).keepRun p k []))) ∧
  (∀ (s s1 u : State) (core : Nat) (p : Plan) (served : Option Nat) (w : Wg) (x : ClkWord) (t : BitVec 2) (sb sa sd : Bool) (n : BitVec 6),
    CoreTurn s s1 core p served w → x.instr = .rep t sb sa sd n →
    let k := clkAt (s1.codeFor w p.pc) (s1.accepts w) 1 p.pc
    k.bad = none → k.words = [x] → s1.issueRep w p k x t sb sa sd n s1 = .next u →
    step s = .next (State.endCoreClk s1 core served [p] u)) ∧
  (∀ (s s1 : State) (q : Nat) (k : Starter) (i : Instr) (lit : Word32) (t : State), StarterTurn s s1 q k →
    WordAt k.code s1.starterAccepts k.beginAt i lit →
    let p : Plan := { who := .starter q, threads := [], pc := k.beginAt, port := 0, packets := 0, again := false }
    let s0 := s1.modStarter q fun y => { y with pc := k.beginAt }
    let is := issueAt (.starter q) [] k.beginAt i lit s1.ids none (some { k with pc := k.beginAt })
    exec i { s0 with cur := some is } = .next t →
    let word : ClkWord := { instr := i, addr := k.beginAt, lit := lit }
    let t1 := if (match i with | .sdiv .. => true | _ => false) && !(t.howEnded == .parked) then
      t.modStarter q fun x => { x with divider := t.clk + 36 } else t
    let t2 := t1.keepRun p { words := [word], next := afterWord k.beginAt i, more := false, bad := none } []
    step s = .next { t2 with cur := none, issuedAt := kset t2.issuedAt (1024 + q) (t2.clk + 1) })

/-- A step of a state whose agenda holds device steps always gives a next state: the machine never stops on what a program does, and exec
refuses nothing. -/
def Obligations.StepNeverStops : Prop :=
  (∀ (s : State), s.AgendaOk → GoesOn (step s)) ∧ (∀ (i : Instr) (s : State) (m : String), exec i s ≠ .refused (.notModelled m))

/-- The invariant of a run: memory in its canonical form, addresses rising and no byte listed that reads as an unlisted one, and an agenda of
device steps only. Every step keeps it. -/
def Obligations.StepKeepsInvariant : Prop :=
  ∀ (s t : State), s.mem.wf = true → s.AgendaOk → step s = .next t → t.mem.wf = true ∧ t.AgendaOk

/-- R14, R344, R357, R375, R382 and R398: what reset leaves. Nothing is resident and no sector is owned; both credits hold 1,250 and RAMP is
48; a function's registers hold 0 but for QOSW with WEIGHT 16 and QBURST 256; the error registers hold 0; and the invariant of a run holds. That memory
lists nothing, every byte reading 0, is the model's choice (log 3), and so is it that boot is due at clk 0 with nothing else (log 4). -/
def Obligations.ResetState : Prop :=
  State.reset.wgs = [] ∧ State.reset.parts = [] ∧ State.reset.batons = [] ∧ State.reset.pacer.rise = 1250 ∧ State.reset.pacer.fall = 1250 ∧
  State.reset.pacer.ramp = 48 ∧ State.reset.load = 0 ∧
  (∀ f, (State.reset.func f).fqt1 = 0 ∧ (State.reset.func f).qosw = 0x10 ∧ (State.reset.func f).qrate = 0 ∧
    (State.reset.func f).qburst = 0x100 ∧ (State.reset.func f).frozen = false) ∧
  (∀ p, (State.reset.relPart p).errstat = 0 ∧ (State.reset.relPart p).cecount = 0 ∧ (State.reset.relPart p).uecount = 0) ∧
  (∀ a, State.reset.mem.get a = 0) ∧ State.reset.boot.locked = false ∧ State.reset.agenda = [(0, .boot)] ∧
  State.reset.mem.wf = true ∧ State.reset.AgendaOk

/-- The frame of the words that only compute in registers (R31, R36, R97). In a group nothing but the issuing workgroup changes, apart from
what the model posts for a result to come; and in that workgroup no thread outside the issue group, no register or predicate but the
destination, no call stack, and no register of a crew but the destination and the flags. In a starter likewise. -/
def Obligations.RegisterWordsFrame : Prop :=
  (∀ (i : Instr) (s t : State) (is : Issue) (w w0 : Wg), registerOnly i = true → Issues s is w → s.wg? w.id = some w0 → exec i s = .next t →
    t = { s with wgs := t.wgs, agenda := t.agenda, ids := t.ids } ∧ (∀ x ∈ s.wgs, x.id ≠ w.id → x ∈ t.wgs) ∧
    ∃ w1, t.wg? w.id = some w1 ∧ w1 = { w0 with threads := w1.threads, crews := w1.crews, pend := w1.pend } ∧
      (∀ (n : Nat) (k0 k1 : Thread), w0.threads[n]? = some k0 → w1.threads[n]? = some k1 →
        (n ∉ is.threads → k1 = k0) ∧ k1.rstack = k0.rstack ∧ k1.exited = k0.exited ∧ k1.wait = k0.wait ∧
        (∀ r, r ∉ (shape i).writes → k1.v.getD r 0 = k0.v.getD r 0) ∧ ∀ r < 7, 160 + r ∉ (shape i).writes → k1.p.getLsbD r = k0.p.getLsbD r) ∧
      ∀ (n : Nat) (k0 k1 : Crew), w0.crews[n]? = some k0 → w1.crews[n]? = some k1 →
        k1 = { k0 with s := k1.s, flags := k1.flags, masks := k1.masks, newFlags := k1.newFlags, newMasks := k1.newMasks } ∧
        ∀ r < 32, 64 + r ∉ (shape i).writes → k1.s.getD r 0 = k0.s.getD r 0) ∧
  (∀ (i : Instr) (s t : State) (is : Issue) (q : Nat) (k : Starter), registerOnly i = true → StarterIssues s is q k → exec i s = .next t →
    t = { s with quads := t.quads, agenda := t.agenda, ids := t.ids } ∧ (∀ x, x ≠ q → t.quad x = s.quad x) ∧
    let k0 := s.starter q
    let k1 := t.starter q
    let k2 := { k0 with flags := k1.flags, masks := k1.masks, newFlags := k1.newFlags, newMasks := k1.newMasks, pend := k1.pend }
    k1 = { k2 with s := k1.s, p := k1.p, pc := k1.pc, wait := k1.wait, notBefore := k1.notBefore, mark := k1.mark } ∧
    (∀ r < 32, 64 + r ∉ (shape i).writes → k1.s.getD r 0 = k0.s.getD r 0) ∧
    ∀ r < 7, 160 + r ∉ (shape i).writes → k1.p.getLsbD r = k0.p.getLsbD r)

/-! ### Memory (10_memory) -/

/-- R4 and R24: a word, a 64-bit value or a run of words that has been written reads back, and every byte outside what was written reads as
before. -/
def Obligations.MemoryReadsBack : Prop :=
  (∀ (m : Memory) (a : Nat) (x : Word32), m.wf = true → (m.setWord a x).word a = x ∧
    ∀ b, (b < a ∨ a + 4 ≤ b) → (m.setWord a x).get b = m.get b) ∧
  (∀ (m : Memory) (a : Nat) (x : Dbl), m.wf = true → (m.setDbl a x).dbl a = x ∧
    ∀ b, (b < a ∨ a + 8 ≤ b) → (m.setDbl a x).get b = m.get b) ∧
  (∀ (m : Memory) (a : Nat) (l : List Word32), m.wf = true →
    (∀ k < l.length, (m.setWords a l).word (a + 4 * k) = l.getD k 0) ∧ ∀ b, (b < a ∨ a + 4 * l.length ≤ b) → (m.setWords a l).get b = m.get b)

/-- R182: the home slice of an HBM address; all bytes of a line have one, and it lies on the die of the address's sector. -/
def Obligations.HomeSlice : Prop :=
  ∀ (pa die j : Nat), die < 4 → j < 4 → pa < 2 ^ 39 → pa / 2 ^ 35 = die * 4 + j →
    let h := ((pa / 2 ^ 7 % 4) ^^^ (pa / 2 ^ 13 % 4)) ^^^ (pa / 2 ^ 19 % 4)
    h < 4 ∧ paSlice pa = 16 * die + (4 * j + h) ∧ sliceDie (paSlice pa) = die ∧ ∀ b < 128, paSlice (pa / 128 * 128 + b) = paSlice pa
end

