-- ==== Sys2Proof/Laws/Dispatch.lean ====
section
/-! SUPPORT. Which meaning each arm of exec calls, one equation for each constructor. -/

namespace Sys2Proof.Machine

@[simp] theorem exec_sadd (x0 g w d a b) (s : State) : exec (.sadd x0 g w d a b) s = execSadd g w d a b s := rfl
@[simp] theorem exec_ssub (x0 g w d a b) (s : State) : exec (.ssub x0 g w d a b) s = execSsub g w d a b s := rfl
@[simp] theorem exec_smul (x0 g w d a b) (s : State) : exec (.smul x0 g w d a b) s = execSmul g w d a b s := rfl
@[simp] theorem exec_smulh (x0 g w d a b) (s : State) : exec (.smulh x0 g w d a b) s = execSmulh g w d a b s := rfl
@[simp] theorem exec_sdiv (x0 g w d a b) (s : State) : exec (.sdiv x0 g w d a b) s = execSdiv g w d a b s := rfl
@[simp] theorem exec_sand (x0 g w d a b) (s : State) : exec (.sand x0 g w d a b) s = execSand g w d a b s := rfl
@[simp] theorem exec_sor (x0 g w d a b) (s : State) : exec (.sor x0 g w d a b) s = execSor g w d a b s := rfl
@[simp] theorem exec_sxor (x0 g w d a b) (s : State) : exec (.sxor x0 g w d a b) s = execSxor g w d a b s := rfl
@[simp] theorem exec_sshl (x0 g w d a b) (s : State) : exec (.sshl x0 g w d a b) s = execSshl g w d a b s := rfl
@[simp] theorem exec_sshr (x0 g w d a b) (s : State) : exec (.sshr x0 g w d a b) s = execSshr g w d a b s := rfl
@[simp] theorem exec_ssra (x0 g w d a b) (s : State) : exec (.ssra x0 g w d a b) s = execSsra g w d a b s := rfl
@[simp] theorem exec_smin (x0 g w d a b) (s : State) : exec (.smin x0 g w d a b) s = execSmin g w d a b s := rfl
@[simp] theorem exec_smax (x0 g w d a b) (s : State) : exec (.smax x0 g w d a b) s = execSmax g w d a b s := rfl
@[simp] theorem exec_ssel (x0 g w d a b) (s : State) : exec (.ssel x0 g w d a b) s = execSsel g w d a b s := rfl
@[simp] theorem exec_scmp (x0 g w k p a b) (s : State) : exec (.scmp x0 g w k p a b) s = execScmp g w k p a b s := rfl
@[simp] theorem exec_smov (x0 g w d a) (s : State) : exec (.smov x0 g w d a) s = execSmov g w d a s := rfl
@[simp] theorem exec_sclz (x0 g w d a) (s : State) : exec (.sclz x0 g w d a) s = execSclz g w d a s := rfl
@[simp] theorem exec_spop (x0 g w d a) (s : State) : exec (.spop x0 g w d a) s = execSpop g w d a s := rfl
@[simp] theorem exec_sli (x0 g w d n) (s : State) : exec (.sli x0 g w d n) s = execSli g w d n s := rfl
@[simp] theorem exec_slitLo (x0 g w d a) (s : State) : exec (.slitLo x0 g w d a) s = execSlitLo g w d a s := rfl
@[simp] theorem exec_slitHi (x0 g w d a) (s : State) : exec (.slitHi x0 g w d a) s = execSlitHi g w d a s := rfl
@[simp] theorem exec_saddr (x0 g w d a b) (s : State) : exec (.saddr x0 g w d a b) s = execSaddr g w d a b s := rfl
@[simp] theorem exec_saddImm (x0 g w d a im) (s : State) : exec (.saddImm x0 g w d a im) s = execSaddImm g w d a im s := rfl
@[simp] theorem exec_scmpImm (x0 g w k p a im) (s : State) : exec (.scmpImm x0 g w k p a im) s = execScmpImm g w k p a im s := rfl
@[simp] theorem exec_vaddI32 (x0 g w d a b) (s : State) : exec (.vaddI32 x0 g w d a b) s = execVaddI32 g w d a b s := rfl
@[simp] theorem exec_vaddF32 (x0 g w d a b) (s : State) : exec (.vaddF32 x0 g w d a b) s = execVaddF32 g w d a b s := rfl
@[simp] theorem exec_vsubI32 (x0 g w d a b) (s : State) : exec (.vsubI32 x0 g w d a b) s = execVsubI32 g w d a b s := rfl
@[simp] theorem exec_vsubF32 (x0 g w d a b) (s : State) : exec (.vsubF32 x0 g w d a b) s = execVsubF32 g w d a b s := rfl
@[simp] theorem exec_vmulI32 (x0 g w d a b) (s : State) : exec (.vmulI32 x0 g w d a b) s = execVmulI32 g w d a b s := rfl
@[simp] theorem exec_vmulF32 (x0 g w d a b) (s : State) : exec (.vmulF32 x0 g w d a b) s = execVmulF32 g w d a b s := rfl
@[simp] theorem exec_vmulhI32 (x0 g w d a b) (s : State) : exec (.vmulhI32 x0 g w d a b) s = execVmulhI32 g w d a b s := rfl
@[simp] theorem exec_vmulhN32 (x0 g w d a b) (s : State) : exec (.vmulhN32 x0 g w d a b) s = execVmulhN32 g w d a b s := rfl
@[simp] theorem exec_vminI32 (x0 g w d a b) (s : State) : exec (.vminI32 x0 g w d a b) s = execVminI32 g w d a b s := rfl
@[simp] theorem exec_vminN32 (x0 g w d a b) (s : State) : exec (.vminN32 x0 g w d a b) s = execVminN32 g w d a b s := rfl
@[simp] theorem exec_vminF32 (x0 g w d a b) (s : State) : exec (.vminF32 x0 g w d a b) s = execVminF32 g w d a b s := rfl
@[simp] theorem exec_vmaxI32 (x0 g w d a b) (s : State) : exec (.vmaxI32 x0 g w d a b) s = execVmaxI32 g w d a b s := rfl
@[simp] theorem exec_vmaxN32 (x0 g w d a b) (s : State) : exec (.vmaxN32 x0 g w d a b) s = execVmaxN32 g w d a b s := rfl
@[simp] theorem exec_vmaxF32 (x0 g w d a b) (s : State) : exec (.vmaxF32 x0 g w d a b) s = execVmaxF32 g w d a b s := rfl
@[simp] theorem exec_vfmaF32 (x0 g w d a b) (s : State) : exec (.vfmaF32 x0 g w d a b) s = execVfmaF32 g w d a b s := rfl
@[simp] theorem exec_vmadI32 (x0 g w d a b) (s : State) : exec (.vmadI32 x0 g w d a b) s = execVmadI32 g w d a b s := rfl
@[simp] theorem exec_vand (x0 g w d a b) (s : State) : exec (.vand x0 g w d a b) s = execVand g w d a b s := rfl
@[simp] theorem exec_vor (x0 g w d a b) (s : State) : exec (.vor x0 g w d a b) s = execVor g w d a b s := rfl
@[simp] theorem exec_vxor (x0 g w d a b) (s : State) : exec (.vxor x0 g w d a b) s = execVxor g w d a b s := rfl
@[simp] theorem exec_vshl (x0 g w d a b) (s : State) : exec (.vshl x0 g w d a b) s = execVshl g w d a b s := rfl
@[simp] theorem exec_vshr (x0 g w d a b) (s : State) : exec (.vshr x0 g w d a b) s = execVshr g w d a b s := rfl
@[simp] theorem exec_vsra (x0 g w d a b) (s : State) : exec (.vsra x0 g w d a b) s = execVsra g w d a b s := rfl
@[simp] theorem exec_vsel (x0 g w d a b) (s : State) : exec (.vsel x0 g w d a b) s = execVsel g w d a b s := rfl
@[simp] theorem exec_vmov (x0 g w d a) (s : State) : exec (.vmov x0 g w d a) s = execVmov g w d a s := rfl
@[simp] theorem exec_vabsI32 (x0 g w d a) (s : State) : exec (.vabsI32 x0 g w d a) s = execVabsI32 g w d a s := rfl
@[simp] theorem exec_vabsF32 (x0 g w d a) (s : State) : exec (.vabsF32 x0 g w d a) s = execVabsF32 g w d a s := rfl
@[simp] theorem exec_vnegI32 (x0 g w d a) (s : State) : exec (.vnegI32 x0 g w d a) s = execVnegI32 g w d a s := rfl
@[simp] theorem exec_vnegF32 (x0 g w d a) (s : State) : exec (.vnegF32 x0 g w d a) s = execVnegF32 g w d a s := rfl
@[simp] theorem exec_vclz (x0 g w d a) (s : State) : exec (.vclz x0 g w d a) s = execVclz g w d a s := rfl
@[simp] theorem exec_vpop (x0 g w d a) (s : State) : exec (.vpop x0 g w d a) s = execVpop g w d a s := rfl
@[simp] theorem exec_frcp (x0 g w d a) (s : State) : exec (.frcp x0 g w d a) s = execFrcp g w d a s := rfl
@[simp] theorem exec_frsq (x0 g w d a) (s : State) : exec (.frsq x0 g w d a) s = execFrsq g w d a s := rfl
@[simp] theorem exec_fsqrt (x0 g w d a) (s : State) : exec (.fsqrt x0 g w d a) s = execFsqrt g w d a s := rfl
@[simp] theorem exec_fexp2 (x0 g w d a) (s : State) : exec (.fexp2 x0 g w d a) s = execFexp2 g w d a s := rfl
@[simp] theorem exec_flog2 (x0 g w d a) (s : State) : exec (.flog2 x0 g w d a) s = execFlog2 g w d a s := rfl
@[simp] theorem exec_fsin (x0 g w d a) (s : State) : exec (.fsin x0 g w d a) s = execFsin g w d a s := rfl
@[simp] theorem exec_fcos (x0 g w d a) (s : State) : exec (.fcos x0 g w d a) s = execFcos g w d a s := rfl
@[simp] theorem exec_ftanh (x0 g w d a) (s : State) : exec (.ftanh x0 g w d a) s = execFtanh g w d a s := rfl
@[simp] theorem exec_vcmpI32 (x0 g w k p a b) (s : State) : exec (.vcmpI32 x0 g w k p a b) s = execVcmpI32 g w k p a b s := rfl
@[simp] theorem exec_vcmpN32 (x0 g w k p a b) (s : State) : exec (.vcmpN32 x0 g w k p a b) s = execVcmpN32 g w k p a b s := rfl
@[simp] theorem exec_vcmpF32 (x0 g w k p a b) (s : State) : exec (.vcmpF32 x0 g w k p a b) s = execVcmpF32 g w k p a b s := rfl
@[simp] theorem exec_vclampI32 (x0 g w d a b) (s : State) : exec (.vclampI32 x0 g w d a b) s = execVclampI32 g w d a b s := rfl
@[simp] theorem exec_vclampF32 (x0 g w d a b) (s : State) : exec (.vclampF32 x0 g w d a b) s = execVclampF32 g w d a b s := rfl
@[simp] theorem exec_rep (t x y z n) (s : State) : exec (.rep t x y z n) s = execRep t x y z n s := rfl
@[simp] theorem exec_xshuf (x0 g w d a b) (s : State) : exec (.xshuf x0 g w d a b) s = execXshuf g w d a b s := rfl
@[simp] theorem exec_xrot (x0 g w d a b) (s : State) : exec (.xrot x0 g w d a b) s = execXrot g w d a b s := rfl
@[simp] theorem exec_xbcast (x0 g w d a b) (s : State) : exec (.xbcast x0 g w d a b) s = execXbcast g w d a b s := rfl
@[simp] theorem exec_xfirst (x0 g w d a b) (s : State) : exec (.xfirst x0 g w d a b) s = execXfirst g w d a b s := rfl
@[simp] theorem exec_xvote (x0 g w d a m) (s : State) : exec (.xvote x0 g w d a m) s = execXvote g w d a m s := rfl
@[simp] theorem exec_xreduce (x0 g w d a t o) (s : State) : exec (.xreduce x0 g w d a t o) s = execXreduce g w d a t o s := rfl
@[simp] theorem exec_xscan (x0 g w d a x t o) (s : State) : exec (.xscan x0 g w d a x t o) s = execXscan g w d a x t o s := rfl
@[simp] theorem exec_xcount (x0 g w d a b) (s : State) : exec (.xcount x0 g w d a b) s = execXcount g w d a b s := rfl
@[simp] theorem exec_cvtEnc (x0 g w d a r k) (s : State) : exec (.cvtEnc x0 g w d a r k) s = execCvtEnc g w d a r k s := rfl
@[simp] theorem exec_cvtDec (x0 g w d a p k) (s : State) : exec (.cvtDec x0 g w d a p k) s = execCvtDec g w d a p k s := rfl
@[simp] theorem exec_cvtsEnc (x0 g w d a r sc) (s : State) : exec (.cvtsEnc x0 g w d a r sc) s = execCvtsEnc g w d a r sc s := rfl
@[simp] theorem exec_cvtsDec (x0 g w d a p sc) (s : State) : exec (.cvtsDec x0 g w d a p sc) s = execCvtsDec g w d a p sc s := rfl
@[simp] theorem exec_plpack (x0 g w d a k) (s : State) : exec (.plpack x0 g w d a k) s = execPlpack g w d a k s := rfl
@[simp] theorem exec_plunpack (x0 g w d a p j) (s : State) : exec (.plunpack x0 g w d a p j) s = execPlunpack g w d a p j s := rfl
@[simp] theorem exec_plane (x0 g w d a m p) (s : State) : exec (.plane x0 g w d a m p) s = execPlane g w d a m p s := rfl
@[simp] theorem exec_fmtq (x0 g w d f sc) (s : State) : exec (.fmtq x0 g w d f sc) s = execFmtq g w d f sc s := rfl
@[simp] theorem exec_mclaim (x0 g w p a m) (s : State) : exec (.mclaim x0 g w p a m) s = execMclaim g w p a m s := rfl
@[simp] theorem exec_mrelease (x0 g a m) (s : State) : exec (.mrelease x0 g a m) s = execMrelease g a m s := rfl
@[simp] theorem exec_mload (x0 g d a sc) (s : State) : exec (.mload x0 g d a sc) s = execMload g d a sc s := rfl
@[simp] theorem exec_mzero (x0 g k b m) (s : State) : exec (.mzero x0 g k b m) s = execMzero g k b m s := rfl
@[simp] theorem exec_mma (x0 g y x a t z b m) (s : State) : exec (.mma x0 g y x a t z b m) s = execMma g y x a t z b m s := rfl
@[simp] theorem exec_mdrain (x0 g r o a l b m) (s : State) : exec (.mdrain x0 g r o a l b m) s = execMdrain g r o a l b m s := rfl
@[simp] theorem exec_mchk (x0 g w p b m) (s : State) : exec (.mchk x0 g w p b m) s = execMchk g w p b m s := rfl
@[simp] theorem exec_mheat (x0 g a m) (s : State) : exec (.mheat x0 g a m) s = execMheat g a m s := rfl
@[simp] theorem exec_mheatOff (x0 g m) (s : State) : exec (.mheatOff x0 g m) s = execMheatOff g m s := rfl
@[simp] theorem exec_mwait (x0 g q m) (s : State) : exec (.mwait x0 g q m) s = execMwait g q m s := rfl
@[simp] theorem exec_ld (x0 g w d a b) (s : State) : exec (.ld x0 g w d a b) s = execLd g w d a b s := rfl
@[simp] theorem exec_st (x0 g d a b) (s : State) : exec (.st x0 g d a b) s = execSt g d a b s := rfl
@[simp] theorem exec_lds (x0 g w d a b) (s : State) : exec (.lds x0 g w d a b) s = execLds g w d a b s := rfl
@[simp] theorem exec_sts (x0 g d a b) (s : State) : exec (.sts x0 g d a b) s = execSts g d a b s := rfl
@[simp] theorem exec_ldx (x0 g w d a b) (s : State) : exec (.ldx x0 g w d a b) s = execLdx g w d a b s := rfl
@[simp] theorem exec_stx (x0 g d a b) (s : State) : exec (.stx x0 g d a b) s = execStx g d a b s := rfl
@[simp] theorem exec_ldw (x0 g w d a b) (s : State) : exec (.ldw x0 g w d a b) s = execLdw g w d a b s := rfl
@[simp] theorem exec_stw (x0 g d a b) (s : State) : exec (.stw x0 g d a b) s = execStw g d a b s := rfl
@[simp] theorem exec_pres (x0 g v a) (s : State) : exec (.pres x0 g v a) s = execPres g v a s := rfl
@[simp] theorem exec_seal (x0 g n) (s : State) : exec (.seal x0 g n) s = execSeal g n s := rfl
@[simp] theorem exec_unseal (x0 g n) (s : State) : exec (.unseal x0 g n) s = execUnseal g n s := rfl
@[simp] theorem exec_pref (x0 g n a l) (s : State) : exec (.pref x0 g n a l) s = execPref g n a l s := rfl
@[simp] theorem exec_bind (x0 g n a) (s : State) : exec (.bind x0 g n a) s = execBind g n a s := rfl
@[simp] theorem exec_unbind (x0 g n a) (s : State) : exec (.unbind x0 g n a) s = execUnbind g n a s := rfl
@[simp] theorem exec_acq (x0 g a sc) (s : State) : exec (.acq x0 g a sc) s = execAcq g a sc s := rfl
@[simp] theorem exec_rel (x0 g a sc) (s : State) : exec (.rel x0 g a sc) s = execRel g a sc s := rfl
@[simp] theorem exec_chkpt (x0 g n a) (s : State) : exec (.chkpt x0 g n a) s = execChkpt g n a s := rfl
@[simp] theorem exec_logq (x0 g w d a) (s : State) : exec (.logq x0 g w d a) s = execLogq g w d a s := rfl
@[simp] theorem exec_fence (x0 g sc) (s : State) : exec (.fence x0 g sc) s = execFence g sc s := rfl
@[simp] theorem exec_xfence (x0 g o im sc) (s : State) : exec (.xfence x0 g o im sc) s = execXfence g o im sc s := rfl
@[simp] theorem exec_aadd (x0 g w d a t) (s : State) : exec (.aadd x0 g w d a t) s = execAadd g w d a t s := rfl
@[simp] theorem exec_amin (x0 g w d a t) (s : State) : exec (.amin x0 g w d a t) s = execAmin g w d a t s := rfl
@[simp] theorem exec_amax (x0 g w d a t) (s : State) : exec (.amax x0 g w d a t) s = execAmax g w d a t s := rfl
@[simp] theorem exec_aand (x0 g w d a) (s : State) : exec (.aand x0 g w d a) s = execAand g w d a s := rfl
@[simp] theorem exec_aor (x0 g w d a) (s : State) : exec (.aor x0 g w d a) s = execAor g w d a s := rfl
@[simp] theorem exec_axor (x0 g w d a) (s : State) : exec (.axor x0 g w d a) s = execAxor g w d a s := rfl
@[simp] theorem exec_aswap (x0 g w d a) (s : State) : exec (.aswap x0 g w d a) s = execAswap g w d a s := rfl
@[simp] theorem exec_acas (x0 g w d a) (s : State) : exec (.acas x0 g w d a) s = execAcas g w d a s := rfl
@[simp] theorem exec_ainc (x0 g w d a) (s : State) : exec (.ainc x0 g w d a) s = execAinc g w d a s := rfl
@[simp] theorem exec_radd (x0 g d a t) (s : State) : exec (.radd x0 g d a t) s = execRadd g d a t s := rfl
@[simp] theorem exec_raddPf (x0 g d a t) (s : State) : exec (.raddPf x0 g d a t) s = execRaddPf g d a t s := rfl
@[simp] theorem exec_raddFlush (x0 g a) (s : State) : exec (.raddFlush x0 g a) s = execRaddFlush g a s := rfl
@[simp] theorem exec_oadd (x0 g d a b) (s : State) : exec (.oadd x0 g d a b) s = execOadd g d a b s := rfl
@[simp] theorem exec_orinit (x0 g n a b) (s : State) : exec (.orinit x0 g n a b) s = execOrinit g n a b s := rfl
@[simp] theorem exec_br (g f) (s : State) : exec (.br g f) s = execBr g f s := rfl
@[simp] theorem exec_brp (g f) (s : State) : exec (.brp g f) s = execBrp g f s := rfl
@[simp] theorem exec_jmp (g a) (s : State) : exec (.jmp g a) s = execJmp g a s := rfl
@[simp] theorem exec_call (g f) (s : State) : exec (.call g f) s = execCall g f s := rfl
@[simp] theorem exec_calli (g a) (s : State) : exec (.calli g a) s = execCalli g a s := rfl
@[simp] theorem exec_ret (g) (s : State) : exec (.ret g) s = execRet g s := rfl
@[simp] theorem exec_exit (g) (s : State) : exec (.exit g) s = execExit g s := rfl
@[simp] theorem exec_yield (g) (s : State) : exec (.yield g) s = execYield g s := rfl
@[simp] theorem exec_fwait (x0 g h) (s : State) : exec (.fwait x0 g h) s = execFwait g h s := rfl
@[simp] theorem exec_ftest (x0 g w p h) (s : State) : exec (.ftest x0 g w p h) s = execFtest g w p h s := rfl
@[simp] theorem exec_fcancel (x0 g h) (s : State) : exec (.fcancel x0 g h) s = execFcancel g h s := rfl
@[simp] theorem exec_fmovHh (x0 g w e h) (s : State) : exec (.fmovHh x0 g w e h) s = execFmovHh g w e h s := rfl
@[simp] theorem exec_fmovSh (x0 g w d h) (s : State) : exec (.fmovSh x0 g w d h) s = execFmovSh g w d h s := rfl
@[simp] theorem exec_fmovHs (x0 g w e a) (s : State) : exec (.fmovHs x0 g w e a) s = execFmovHs g w e a s := rfl
@[simp] theorem exec_cpy (x0 g w h a b) (s : State) : exec (.cpy x0 g w h a b) s = execCpy g w h a b s := rfl
@[simp] theorem exec_cpyw (x0 g w h a b) (s : State) : exec (.cpyw x0 g w h a b) s = execCpyw g w h a b s := rfl
@[simp] theorem exec_ovl (x0 g w h a b) (s : State) : exec (.ovl x0 g w h a b) s = execOvl g w h a b s := rfl
@[simp] theorem exec_gth (x0 g w h a b) (s : State) : exec (.gth x0 g w h a b) s = execGth g w h a b s := rfl
@[simp] theorem exec_coll (x0 g w h a y q k) (s : State) : exec (.coll x0 g w h a y q k) s = execColl g w h a y q k s := rfl
@[simp] theorem exec_rlink (x0 g r a) (s : State) : exec (.rlink x0 g r a) s = execRlink g r a s := rfl
@[simp] theorem exec_rclose (x0 g x r) (s : State) : exec (.rclose x0 g x r) s = execRclose g x r s := rfl
@[simp] theorem exec_spawn (x0 g w d a b) (s : State) : exec (.spawn x0 g w d a b) s = execSpawn g w d a b s := rfl
@[simp] theorem exec_done (x0 g w d a) (s : State) : exec (.done x0 g w d a) s = execDone g w d a s := rfl
@[simp] theorem exec_tbfull (x0 g a) (s : State) : exec (.tbfull x0 g a) s = execTbfull g a s := rfl
@[simp] theorem exec_tbempty (x0 g a) (s : State) : exec (.tbempty x0 g a) s = execTbempty g a s := rfl
@[simp] theorem exec_tbwait (x0 g a) (s : State) : exec (.tbwait x0 g a) s = execTbwait g a s := rfl
@[simp] theorem exec_heatid (x0 g w d a) (s : State) : exec (.heatid x0 g w d a) s = execHeatid g w d a s := rfl
@[simp] theorem exec_bar (x0 g a sc) (s : State) : exec (.bar x0 g a sc) s = execBar g a sc s := rfl
@[simp] theorem exec_binit (x0 g n a) (s : State) : exec (.binit x0 g n a) s = execBinit g n a s := rfl
@[simp] theorem exec_barrive (x0 g w d a k) (s : State) : exec (.barrive x0 g w d a k) s = execBarrive g w d a k s := rfl
@[simp] theorem exec_bwait (x0 g w d a t) (s : State) : exec (.bwait x0 g w d a t) s = execBwait g w d a t s := rfl
@[simp] theorem exec_btest (x0 g w p a) (s : State) : exec (.btest x0 g w p a) s = execBtest g w p a s := rfl
@[simp] theorem exec_sysrd (x0 g w d n) (s : State) : exec (.sysrd x0 g w d n) s = execSysrd g w d n s := rfl
@[simp] theorem exec_syswr (x0 g d n) (s : State) : exec (.syswr x0 g d n) s = execSyswr g d n s := rfl
@[simp] theorem exec_caprd (x0 g w d a) (s : State) : exec (.caprd x0 g w d a) s = execCaprd g w d a s := rfl
@[simp] theorem exec_tfence (x0 g) (s : State) : exec (.tfence x0 g) s = execTfence g s := rfl
@[simp] theorem exec_trap (g a) (s : State) : exec (.trap g a) s = execTrap g a s := rfl
@[simp] theorem exec_tret (g) (s : State) : exec (.tret g) s = execTret g s := rfl
@[simp] theorem exec_flagrd (x0 g w d a) (s : State) : exec (.flagrd x0 g w d a) s = execFlagrd g w d a s := rfl
@[simp] theorem exec_flagclr (x0 g a) (s : State) : exec (.flagclr x0 g a) s = execFlagclr g a s := rfl
@[simp] theorem exec_ctxsave (x0 g a) (s : State) : exec (.ctxsave x0 g a) s = execCtxsave g a s := rfl
@[simp] theorem exec_ctxload (x0 g a) (s : State) : exec (.ctxload x0 g a) s = execCtxload g a s := rfl
@[simp] theorem exec_multiClkResultWrite (wg id) (s : State) : exec (.multiClkResultWrite wg id) s = execMultiClkResultWrite wg id s := rfl
@[simp] theorem exec_loadReply (op line) (s : State) : exec (.loadReply op line) s = execLoadReply op line s := rfl
@[simp] theorem exec_sliceRequestArrival (op line) (s : State) : exec (.sliceRequestArrival op line) s = execSliceRequestArrival op line s := rfl
@[simp] theorem exec_sliceHoldBoundExpiry (op line) (s : State) : exec (.sliceHoldBoundExpiry op line) s = execSliceHoldBoundExpiry op line s := rfl
@[simp] theorem exec_hbmHoldBoundExpiry (op line) (s : State) : exec (.hbmHoldBoundExpiry op line) s = execHbmHoldBoundExpiry op line s := rfl
@[simp] theorem exec_routerPacket (op line reply blocked) (s : State) : exec (.routerPacket op line reply blocked) s = execRouterPacket op line reply blocked s := rfl
@[simp] theorem exec_bounceNotice (op line cause) (s : State) : exec (.bounceNotice op line cause) s = execBounceNotice op line cause s := rfl
@[simp] theorem exec_replayReissue (op line) (s : State) : exec (.replayReissue op line) s = execReplayReissue op line s := rfl
@[simp] theorem exec_walkOutcome (walk) (s : State) : exec (.walkOutcome walk) s = execWalkOutcome walk s := rfl
@[simp] theorem exec_stage2FaultEntryWrite (req) (s : State) : exec (.stage2FaultEntryWrite req) s = execStage2FaultEntryWrite req s := rfl
@[simp] theorem exec_pageRequestMessage (req) (s : State) : exec (.pageRequestMessage req) s = execPageRequestMessage req s := rfl
@[simp] theorem exec_pageReplyAtWalker (req ok) (s : State) : exec (.pageReplyAtWalker req ok) s = execPageReplyAtWalker req ok s := rfl
@[simp] theorem exec_pageFailureDelivery (req) (s : State) : exec (.pageFailureDelivery req) s = execPageFailureDelivery req s := rfl
@[simp] theorem exec_heatWindowRequest (op line) (s : State) : exec (.heatWindowRequest op line) s = execHeatWindowRequest op line s := rfl
@[simp] theorem exec_absenceNotice (core owner line) (s : State) : exec (.absenceNotice core owner line) s = execAbsenceNotice core owner line s := rfl
@[simp] theorem exec_wakeNotice (core owner line) (s : State) : exec (.wakeNotice core owner line) s = execWakeNotice core owner line s := rfl
@[simp] theorem exec_stxAcknowledge (op line) (s : State) : exec (.stxAcknowledge op line) s = execStxAcknowledge op line s := rfl
@[simp] theorem exec_logBufferDrain (core) (s : State) : exec (.logBufferDrain core) s = execLogBufferDrain core s := rfl
@[simp] theorem exec_logWaitExpiry (op) (s : State) : exec (.logWaitExpiry op) s = execLogWaitExpiry op s := rfl
@[simp] theorem exec_releaseAtSlice (op) (s : State) : exec (.releaseAtSlice op) s = execReleaseAtSlice op s := rfl
@[simp] theorem exec_acquireAtSlice (op) (s : State) : exec (.acquireAtSlice op) s = execAcquireAtSlice op s := rfl
@[simp] theorem exec_releaseReply (op) (s : State) : exec (.releaseReply op) s = execReleaseReply op s := rfl
@[simp] theorem exec_acquireReply (op) (s : State) : exec (.acquireReply op) s = execAcquireReply op s := rfl
@[simp] theorem exec_nodeCommit (part node) (s : State) : exec (.nodeCommit part node) s = execNodeCommit part node s := rfl
@[simp] theorem exec_compactorApply (core seq) (s : State) : exec (.compactorApply core seq) s = execCompactorApply core seq s := rfl
@[simp] theorem exec_atomicAtSlice (op line) (s : State) : exec (.atomicAtSlice op line) s = execAtomicAtSlice op line s := rfl
@[simp] theorem exec_atomicReply (op line) (s : State) : exec (.atomicReply op line) s = execAtomicReply op line s := rfl
@[simp] theorem exec_replyAcknowledgeNotice (op line) (s : State) : exec (.replyAcknowledgeNotice op line) s = execReplyAcknowledgeNotice op line s := rfl
@[simp] theorem exec_joinWake (part counter) (s : State) : exec (.joinWake part counter) s = execJoinWake part counter s := rfl
@[simp] theorem exec_waiterRegistration (part baton) (s : State) : exec (.waiterRegistration part baton) s = execWaiterRegistration part baton s := rfl
@[simp] theorem exec_spawnEntry (op) (s : State) : exec (.spawnEntry op) s = execSpawnEntry op s := rfl
@[simp] theorem exec_spawnStatus (op status) (s : State) : exec (.spawnStatus op status) s = execSpawnStatus op status s := rfl
@[simp] theorem exec_batonPlacement (part) (s : State) : exec (.batonPlacement part) s = execBatonPlacement part s := rfl
@[simp] theorem exec_batonStart (part baton cores) (s : State) : exec (.batonStart part baton cores) s = execBatonStart part baton cores s := rfl
@[simp] theorem exec_heatReservation (part grid) (s : State) : exec (.heatReservation part grid) s = execHeatReservation part grid s := rfl
@[simp] theorem exec_placementLevelAging (part baton) (s : State) : exec (.placementLevelAging part baton) s = execPlacementLevelAging part baton s := rfl
@[simp] theorem exec_batonFinish (part baton) (s : State) : exec (.batonFinish part baton) s = execBatonFinish part baton s := rfl
@[simp] theorem exec_timeSliceExpiry (wg) (s : State) : exec (.timeSliceExpiry wg) s = execTimeSliceExpiry wg s := rfl
@[simp] theorem exec_crewVacate (wg crew) (s : State) : exec (.crewVacate wg crew) s = execCrewVacate wg crew s := rfl
@[simp] theorem exec_batonResume (part baton cores) (s : State) : exec (.batonResume part baton cores) s = execBatonResume part baton cores s := rfl
@[simp] theorem exec_engineWordStart (word chan) (s : State) : exec (.engineWordStart word chan) s = execEngineWordStart word chan s := rfl
@[simp] theorem exec_engineLineWrite (word line) (s : State) : exec (.engineLineWrite word line) s = execEngineLineWrite word line s := rfl
@[simp] theorem exec_gatherElement (word lane) (s : State) : exec (.gatherElement word lane) s = execGatherElement word lane s := rfl
@[simp] theorem exec_engineWordComplete (word) (s : State) : exec (.engineWordComplete word) s = execEngineWordComplete word s := rfl
@[simp] theorem exec_relayFlitArrival (flit) (s : State) : exec (.relayFlitArrival flit) s = execRelayFlitArrival flit s := rfl
@[simp] theorem exec_relayAcknowledge (flit refused) (s : State) : exec (.relayAcknowledge flit refused) s = execRelayAcknowledge flit refused s := rfl
@[simp] theorem exec_relayResend (flit) (s : State) : exec (.relayResend flit) s = execRelayResend flit s := rfl
@[simp] theorem exec_barrierEpisodeRelease (ep) (s : State) : exec (.barrierEpisodeRelease ep) s = execBarrierEpisodeRelease ep s := rfl
@[simp] theorem exec_macroOperationStart (core) (s : State) : exec (.macroOperationStart core) s = execMacroOperationStart core s := rfl
@[simp] theorem exec_tokenRequest (core) (s : State) : exec (.tokenRequest core) s = execTokenRequest core s := rfl
@[simp] theorem exec_tokenServe (part) (s : State) : exec (.tokenServe part) s = execTokenServe part s := rfl
@[simp] theorem exec_tokenGrant (core) (s : State) : exec (.tokenGrant core) s = execTokenGrant core s := rfl
@[simp] theorem exec_mmaRowStep (core) (s : State) : exec (.mmaRowStep core) s = execMmaRowStep core s := rfl
@[simp] theorem exec_mmaComplete (core) (s : State) : exec (.mmaComplete core) s = execMmaComplete core s := rfl
@[simp] theorem exec_mzeroComplete (core) (s : State) : exec (.mzeroComplete core) s = execMzeroComplete core s := rfl
@[simp] theorem exec_checkComplete (core) (s : State) : exec (.checkComplete core) s = execCheckComplete core s := rfl
@[simp] theorem exec_drainLineWrite (core line) (s : State) : exec (.drainLineWrite core line) s = execDrainLineWrite core line s := rfl
@[simp] theorem exec_drainComplete (core) (s : State) : exec (.drainComplete core) s = execDrainComplete core s := rfl
@[simp] theorem exec_slotScrubComplete (core slot) (s : State) : exec (.slotScrubComplete core slot) s = execSlotScrubComplete core slot s := rfl
@[simp] theorem exec_pinnedReserveBuild (part grid) (s : State) : exec (.pinnedReserveBuild part grid) s = execPinnedReserveBuild part grid s := rfl
@[simp] theorem exec_refresh (stack bank done) (s : State) : exec (.refresh stack bank done) s = execRefresh stack bank done s := rfl
@[simp] theorem exec_packetRead (hart) (s : State) : exec (.packetRead hart) s = execPacketRead hart s := rfl
@[simp] theorem exec_packetComplete (qcb num status) (s : State) : exec (.packetComplete qcb num status) s = execPacketComplete qcb num status s := rfl
@[simp] theorem exec_watchWake (hart) (s : State) : exec (.watchWake hart) s = execWatchWake hart s := rfl
@[simp] theorem exec_waitTimeout (hart num) (s : State) : exec (.waitTimeout hart num) s = execWaitTimeout hart num s := rfl
@[simp] theorem exec_inFieldTestComplete (quad pass) (s : State) : exec (.inFieldTestComplete quad pass) s = execInFieldTestComplete quad pass s := rfl
@[simp] theorem exec_hbmRequestArrival (op line) (s : State) : exec (.hbmRequestArrival op line) s = execHbmRequestArrival op line s := rfl
@[simp] theorem exec_refreshManagement (stack bank row) (s : State) : exec (.refreshManagement stack bank row) s = execRefreshManagement stack bank row s := rfl
@[simp] theorem exec_functionResetComplete (func) (s : State) : exec (.functionResetComplete func) s = execFunctionResetComplete func s := rfl
@[simp] theorem exec_inFieldTestSkip (quad) (s : State) : exec (.inFieldTestSkip quad) s = execInFieldTestSkip quad s := rfl
@[simp] theorem exec_idleFlit (port) (s : State) : exec (.idleFlit port) s = execIdleFlit port s := rfl
@[simp] theorem exec_inFieldTestDue (quad) (s : State) : exec (.inFieldTestDue quad) s = execInFieldTestDue quad s := rfl
@[simp] theorem exec_starterBegin (quad wg) (s : State) : exec (.starterBegin quad wg) s = execStarterBegin quad wg s := rfl
@[simp] theorem exec_contextSpill (quad) (s : State) : exec (.contextSpill quad) s = execContextSpill quad s := rfl
@[simp] theorem exec_parkEnd (wg crew) (s : State) : exec (.parkEnd wg crew) s = execParkEnd wg crew s := rfl
@[simp] theorem exec_repeatIssue (wg crew) (s : State) : exec (.repeatIssue wg crew) s = execRepeatIssue wg crew s := rfl
@[simp] theorem exec_transmitRegisterWrite (n v) (s : State) : exec (.transmitRegisterWrite n v) s = execTransmitRegisterWrite n v s := rfl
@[simp] theorem exec_receiveRegisterRead (n d w) (s : State) : exec (.receiveRegisterRead n d w) s = execReceiveRegisterRead n d w s := rfl
@[simp] theorem exec_repctlWrite (v) (s : State) : exec (.repctlWrite v) s = execRepctlWrite v s := rfl
@[simp] theorem exec_prgResponse (func index ok) (s : State) : exec (.prgResponse func index ok) s = execPrgResponse func index ok s := rfl
@[simp] theorem exec_stage2ReplyWrite (v) (s : State) : exec (.stage2ReplyWrite v) s = execStage2ReplyWrite v s := rfl
@[simp] theorem exec_atsInvalidation (addr bytes) (s : State) : exec (.atsInvalidation addr bytes) s = execAtsInvalidation addr bytes s := rfl
@[simp] theorem exec_cxlMemWrite (pa bytes) (s : State) : exec (.cxlMemWrite pa bytes) s = execCxlMemWrite pa bytes s := rfl
@[simp] theorem exec_cxlMemRead (pa len) (s : State) : exec (.cxlMemRead pa len) s = execCxlMemRead pa len s := rfl
@[simp] theorem exec_nodeRollback (part node) (s : State) : exec (.nodeRollback part node) s = execNodeRollback part node s := rfl
@[simp] theorem exec_contextSave (part) (s : State) : exec (.contextSave part) s = execContextSave part s := rfl
@[simp] theorem exec_collectiveAbort (part gid) (s : State) : exec (.collectiveAbort part gid) s = execCollectiveAbort part gid s := rfl
@[simp] theorem exec_bwaitBoundExpiry (wg crew since) (s : State) : exec (.bwaitBoundExpiry wg crew since) s = execBwaitBoundExpiry wg crew since s := rfl
@[simp] theorem exec_workgroupKill (wg addr) (s : State) : exec (.workgroupKill wg addr) s = execWorkgroupKill wg addr s := rfl
@[simp] theorem exec_pacerCreditTick (s : State) : exec (.pacerCreditTick) s = execPacerCreditTick s := rfl
@[simp] theorem exec_vfStep (island up) (s : State) : exec (.vfStep island up) s = execVfStep island up s := rfl
@[simp] theorem exec_rampSlotStart (s : State) : exec (.rampSlotStart) s = execRampSlotStart s := rfl
@[simp] theorem exec_notify (func q n) (s : State) : exec (.notify func q n) s = execNotify func q n s := rfl
@[simp] theorem exec_destroyDrain (func q pf) (s : State) : exec (.destroyDrain func q pf) s = execDestroyDrain func q pf s := rfl
@[simp] theorem exec_destroyKill (func q pf) (s : State) : exec (.destroyKill func q pf) s = execDestroyKill func q pf s := rfl
@[simp] theorem exec_resume (func q pf) (s : State) : exec (.resume func q pf) s = execResume func q pf s := rfl
@[simp] theorem exec_queueMap (s : State) : exec (.queueMap) s = execQueueMap s := rfl
@[simp] theorem exec_nop (hart) (s : State) : exec (.nop hart) s = execNop hart s := rfl
@[simp] theorem exec_launch (hart) (s : State) : exec (.launch hart) s = execLaunch hart s := rfl
@[simp] theorem exec_wait (hart) (s : State) : exec (.wait hart) s = execWait hart s := rfl
@[simp] theorem exec_inval (hart) (s : State) : exec (.inval hart) s = execInval hart s := rfl
@[simp] theorem exec_group (hart) (s : State) : exec (.group hart) s = execGroup hart s := rfl
@[simp] theorem exec_preempt (hart) (s : State) : exec (.preempt hart) s = execPreempt hart s := rfl
@[simp] theorem exec_partCreate (hart) (s : State) : exec (.partCreate hart) s = execPartCreate hart s := rfl
@[simp] theorem exec_partDissolve (hart) (s : State) : exec (.partDissolve hart) s = execPartDissolve hart s := rfl
@[simp] theorem exec_eccError (part source pa op correctable) (s : State) : exec (.eccError part source pa op correctable) s = execEccError part source pa op correctable s := rfl
@[simp] theorem exec_patrolRead (pa bad) (s : State) : exec (.patrolRead pa bad) s = execPatrolRead pa bad s := rfl
@[simp] theorem exec_bucketFill (core) (s : State) : exec (.bucketFill core) s = execBucketFill core s := rfl
@[simp] theorem exec_linkFailure (port) (s : State) : exec (.linkFailure port) s = execLinkFailure port s := rfl
@[simp] theorem exec_switchFailure (switch) (s : State) : exec (.switchFailure switch) s = execSwitchFailure switch s := rfl
@[simp] theorem exec_groupFailure (grp) (s : State) : exec (.groupFailure grp) s = execGroupFailure grp s := rfl
@[simp] theorem exec_namedFailure (pkg) (s : State) : exec (.namedFailure pkg) s = execNamedFailure pkg s := rfl
@[simp] theorem exec_violation (cause func unit crew) (s : State) : exec (.violation cause func unit crew) s = execViolation cause func unit crew s := rfl
@[simp] theorem exec_thaw (s : State) : exec (.thaw) s = execThaw s := rfl
@[simp] theorem exec_kill (s : State) : exec (.kill) s = execKill s := rfl
@[simp] theorem exec_acknowledge (s : State) : exec (.acknowledge) s = execAcknowledge s := rfl
@[simp] theorem exec_queuePendingAging (qcb) (s : State) : exec (.queuePendingAging qcb) s = execQueuePendingAging qcb s := rfl
@[simp] theorem exec_comparatorMismatch (part node) (s : State) : exec (.comparatorMismatch part node) s = execComparatorMismatch part node s := rfl
@[simp] theorem exec_functionLevelReset (func) (s : State) : exec (.functionLevelReset func) s = execFunctionLevelReset func s := rfl
@[simp] theorem exec_vectorUnmask (func vec) (s : State) : exec (.vectorUnmask func vec) s = execVectorUnmask func vec s := rfl
@[simp] theorem exec_resetN (level) (s : State) : exec (.resetN level) s = execResetN level s := rfl
@[simp] theorem exec_pwrok (level) (s : State) : exec (.pwrok level) s = execPwrok level s := rfl
@[simp] theorem exec_vralertN (s : State) : exec (.vralertN) s = execVralertN s := rfl
@[simp] theorem exec_telemetryReport (rail volts amps temp) (s : State) : exec (.telemetryReport rail volts amps temp) s = execTelemetryReport rail volts amps temp s := rfl
@[simp] theorem exec_boot (s : State) : exec (.boot) s = execBoot s := rfl
@[simp] theorem exec_hubRegisterWrite (offset func bar2 v) (s : State) : exec (.hubRegisterWrite offset func bar2 v) s = execHubRegisterWrite offset func bar2 v s := rfl
@[simp] theorem exec_haledFlitArrival (port pkg) (s : State) : exec (.haledFlitArrival port pkg) s = execHaledFlitArrival port pkg s := rfl
@[simp] theorem exec_qcbLoad (func q) (s : State) : exec (.qcbLoad func q) s = execQcbLoad func q s := rfl
@[simp] theorem exec_laneRepair (module ok) (s : State) : exec (.laneRepair module ok) s = execLaneRepair module ok s := rfl
@[simp] theorem exec_atsTranslationCompletion (core va pa ok) (s : State) : exec (.atsTranslationCompletion core va pa ok) s = execAtsTranslationCompletion core va pa ok s := rfl
@[simp] theorem exec_flashWrite (offset bytes) (s : State) : exec (.flashWrite offset bytes) s = execFlashWrite offset bytes s := rfl

end Sys2Proof.Machine
end

