-- ==== Sys2Proof/Laws/Ops.lean ====
section
/-! SUPPORT. What the shared operations do: a meaning runs on the word being issued, and what a word's end leaves unchanged. -/

namespace Sys2Proof.Machine

theorem withGroup_next {s : State} {is : Issue} {w : Wg} (h : Issues s is w) (f : Issue → Wg → State) :
    withGroup s f = .next (f is w) := by
  obtain ⟨hc, hw, hr⟩ := h
  obtain ⟨who, _, _, _, _, _, _, _, base, _, _⟩ := is
  cases base <;> simp_all [State.reading, withGroup]

theorem withStarter_next {s : State} {is : Issue} {q : Nat} {k : Starter} (h : StarterIssues s is q k)
    (f : Issue → Nat → Starter → State) : withStarter s f = .next (f is q k) := by
  obtain ⟨hc, hw, hr⟩ := h
  subst hr
  simp only [withStarter, hc, hw] <;> rfl

theorem withEither_group {s : State} {is : Issue} {w : Wg} (h : Issues s is w) (f : Issue → Wg → State)
    (g : Issue → Nat → Starter → State) : withEither s f g = .next (f is w) := by
  have h' := withGroup_next h f
  obtain ⟨hc, hw, hr⟩ := h
  obtain ⟨who, _, _, _, _, _, _, _, base, _, _⟩ := is
  simp_all [withEither]

theorem withEither_starter {s : State} {is : Issue} {q : Nat} {k : Starter} (h : StarterIssues s is q k)
    (f : Issue → Wg → State) (g : Issue → Nat → Starter → State) : withEither s f g = .next (g is q k) := by
  have h' := withStarter_next h g
  obtain ⟨hc, hw, hr⟩ := h
  obtain ⟨who, _, _, _, _, _, _, _, base, _, _⟩ := is
  simp_all [withEither]

/-! ### What the ends of a word leave unchanged -/

/-- A word that retires changes its workgroup only (R34). -/
theorem retireAt_frame (s : State) (is : Issue) (wg d : Nat) : s.retireAt is wg d = { s with wgs := (s.retireAt is wg d).wgs } := rfl

/-- A word that finishes changes its workgroup, and puts a result to come on the agenda under a fresh identity (R70, R99). -/
theorem finish_frame (s : State) (is : Issue) (w : Wg) (e : Effect) (l : Nat) :
    s.finish is w e l = { s with wgs := (s.finish is w e l).wgs, agenda := (s.finish is w e l).agenda, ids := (s.finish is w e l).ids } := by
  unfold State.finish
  split <;> rfl

/-- A starter's word that finishes changes the starter, and puts a result to come on the agenda. -/
theorem starterFinish_frame (s : State) (is : Issue) (q : Nat) (sl : List (Nat × Dbl)) (p : List (Nat × Bool)) (fl : BitVec 8) (l : Nat) :
    s.starterFinish is q sl p fl l = { s with
      quads := (s.starterFinish is q sl p fl l).quads
      agenda := (s.starterFinish is q sl p fl l).agenda
      ids := (s.starterFinish is q sl p fl l).ids } := by
  unfold State.starterFinish
  split <;> rfl

/-- A word that parks changes its workgroup, and says so to the issue runner (R412). -/
theorem park_frame (s : State) (is : Issue) (wg : Nat) (c : PCond) :
    s.park is wg c = { s with wgs := (s.park is wg c).wgs, cur := (s.park is wg c).cur } := rfl

theorem parkMark_frame (s : State) (is : Issue) (wg : Nat) (c : PCond) (m : Nat) :
    s.parkMark is wg c m = { s with wgs := (s.parkMark is wg c m).wgs, cur := (s.parkMark is wg c m).cur } := rfl

theorem block_frame (s : State) (is : Issue) (wg op : Nat) : s.block is wg op = { s with wgs := (s.block is wg op).wgs } := rfl

/-- A crew that takes a trap changes in its workgroup only (R333, R335). -/
theorem crewTrap_frame (s : State) (wg crew : Nat) (l : List Nat) (t : Trap) (a b : Pc) :
    s.crewTrap wg crew l t a b = { s with wgs := (s.crewTrap wg crew l t a b).wgs } := by
  unfold State.crewTrap
  split
  · rfl
  · split
    · rfl
    · dsimp only
      split <;> rfl

theorem foldl_wgs {α : Type} (f : State → α → State) (h : ∀ s x, f s x = { s with wgs := (f s x).wgs }) (l : List α) :
    ∀ s, l.foldl f s = { s with wgs := (l.foldl f s).wgs } := by
  induction l with
  | nil => intro s; rfl
  | cons x t ih =>
    intro s
    rw [List.foldl_cons, ih (f s x)]
    generalize (t.foldl f (f s x)).wgs = ws
    rw [h s x]

theorem reportStop_frame (s : State) (g : Nat) : s.reportStop g = { s with agenda := (s.reportStop g).agenda } := by
  unfold State.reportStop
  split <;> rfl

/-- Threads that take a trap change their workgroup, and the command complex may be told (R333, R335). -/
theorem groupTrap_frame (s : State) (wg : Nat) (ts : List Nat) (t : Trap) (a b : Pc) :
    s.groupTrap wg ts t a b = { s with wgs := (s.groupTrap wg ts t a b).wgs, agenda := (s.groupTrap wg ts t a b).agenda } := by
  unfold State.groupTrap
  split
  · rfl
  · next w _ =>
    dsimp only
    generalize hx : (w.crewsOf ts).foldl
      (fun s c => s.crewTrap wg c ((ts.filter fun x => w.crewOf x = c).map w.laneOf) t a b) s = x
    have hf : x = { s with wgs := x.wgs } := by
      rw [← hx]
      exact foldl_wgs _ (fun s c => crewTrap_frame s wg c _ t a b) _ s
    split
    · split
      · rw [reportStop_frame]; generalize (x.reportStop w.grid).agenda = ag; rw [hf]
      · rw [hf]
    · rw [hf]

theorem groupTrap_ended (s : State) (wg : Nat) (ts : List Nat) (t : Trap) (a b : Pc) (e : Ended) :
    (s.groupTrap wg ts t a b).ended e = { s with
      wgs := ((s.groupTrap wg ts t a b).ended e).wgs
      agenda := ((s.groupTrap wg ts t a b).ended e).agenda
      cur := ((s.groupTrap wg ts t a b).ended e).cur } := by
  have h := groupTrap_frame s wg ts t a b
  generalize s.groupTrap wg ts t a b = x at h ⊢
  rw [h]
  rfl

/-- A word that traps changes its workgroup, and says so to the issue runner. -/
theorem trapHere_frame (s : State) (is : Issue) (wg : Nat) (ts : List Nat) (t : Trap) :
    s.trapHere is wg ts t = { s with
      wgs := (s.trapHere is wg ts t).wgs
      agenda := (s.trapHere is wg ts t).agenda
      cur := (s.trapHere is wg ts t).cur } :=
  groupTrap_ended ..

/-- A starter that takes a trap changes itself; one that is not delegated stops the workgroups of its grid on the quad, and the command
complex is told (R335). -/
theorem starterTrap_frame (s : State) (q : Nat) (t : Trap) (a b : Pc) :
    s.starterTrap q t a b = { s with
      quads := (s.starterTrap q t a b).quads
      wgs := (s.starterTrap q t a b).wgs
      agenda := (s.starterTrap q t a b).agenda } := by
  unfold State.starterTrap
  dsimp only
  split
  · rfl
  · split
    · rw [reportStop_frame]; rfl
    · rfl

/-- A group that issues alone in a clk gives way to none (R69). -/
theorem writesLast_alone (s : State) (w : Wg) (n : Nat) (regs : List (Nat × Nat) × List (Nat × Nat)) : s.writesLast w n n regs = s := by
  simp [State.writesLast]

/-- An interrupt changes its function's registers and what has been sent (R389). -/
theorem vector_frame (s : State) (f v : Nat) : s.vector f v = { s with funcs := (s.vector f v).funcs, sent := (s.vector f v).sent } := by
  unfold State.vector
  split
  · rfl
  · split <;> rfl

theorem event_frame (s : State) (f b : Nat) : s.event f b = { s with funcs := (s.event f b).funcs, sent := (s.event f b).sent } := by
  unfold State.event
  split
  · rfl
  · rw [vector_frame]; rfl

end Sys2Proof.Machine
end

