-- ==== Sys2Proof/Laws/Gives.lean ====
section
/-! SUPPORT. One lemma for each shared form of a word: what it gives, in the terms of Safety.lean. -/

namespace Sys2Proof.Machine

theorem scalarOp_gives {i : Instr} {g : BitVec 3} {wr : Bool} {d : BitVec 5} {lat : Nat}
    {f f' : (BitVec 7 → Dbl) → Dbl → Dbl × BitVec 8} (h : ∀ s, exec i s = scalarOp s g wr d lat f)
    (hf : ∀ x o, f x o = f' x o) : ScalarGives i g wr d lat f' := by
  have e : f = f' := funext fun x => funext fun o => hf x o
  subst e
  refine ⟨fun s is w hi ha => ?_, fun s is w hi ha => ?_, fun s is q k hi hg => ?_, fun s is q k hi hg => ?_⟩
  · rw [h, scalarOp, withEither_group hi, if_neg ha]; rfl
  · rw [h, scalarOp, withEither_group hi, if_pos ha]
  · rw [h, scalarOp, withEither_starter hi, if_pos hg]
  · rw [h, scalarOp, withEither_starter hi]; simp [hg]

theorem scalarCmp_compares {i : Instr} {g : BitVec 3} {wr : Bool} {p : BitVec 3} {f f' : (BitVec 7 → Dbl) → Bool}
    (h : ∀ s, exec i s = scalarCmp s g wr p f) (hf : ∀ x, f x = f' x) : ScalarCompares i g wr p f' := by
  have e : f = f' := funext hf
  subst e
  refine ⟨fun s is w hi => ?_, fun s is q k hi hg => ?_, fun s is q k hi hg => ?_⟩
  · rw [h, scalarCmp, withEither_group hi]
  · rw [h, scalarCmp, withEither_starter hi, if_pos hg]
  · rw [h, scalarCmp, withEither_starter hi]; simp [hg]

theorem vecOp_gives {i : Instr} {g : BitVec 3} {wr : Bool} {d : BitVec 6} {a b : BitVec 7} {lat : Nat}
    {f f' : FpMode → Word32 → Word32 → Word32 → Word32 × BitVec 8} (h : ∀ s, exec i s = vecOp s g wr d a b lat f)
    (hf : ∀ md x y o, f md x y o = f' md x y o) : VectorGives i g wr d a b lat f' := by
  have e : f = f' := funext fun md => funext fun x => funext fun y => funext fun o => hf md x y o
  subst e
  intro s is w hi
  rw [h, vecOp, withGroup_next hi]
  simp [vectorEffect, Function.comp_def]

theorem vecOp1_gives {i : Instr} {g : BitVec 3} {wr : Bool} {d : BitVec 6} {a : BitVec 7} {lat : Nat}
    {f f' : FpMode → Word32 → Word32 × BitVec 8} (h : ∀ s, exec i s = vecOp1 s g wr d a lat f)
    (hf : ∀ md x, f md x = f' md x) : VectorGives1 i g wr d a lat f' :=
  vecOp_gives h fun md x _ _ => hf md x

theorem vecCmp_compares {i : Instr} {g : BitVec 3} {wr : Bool} {p : BitVec 3} {a b : BitVec 7}
    {f f' : FpMode → Word32 → Word32 → Bool × BitVec 8} (h : ∀ s, exec i s = vecCmp s g wr p a b f)
    (hf : ∀ md x y, f md x y = f' md x y) : VectorCompares i g wr p a b f' := by
  have e : f = f' := funext fun md => funext fun x => funext fun y => hf md x y
  subst e
  intro s is w hi
  rw [h, vecCmp, withGroup_next hi]
  simp [predEffect, Function.comp_def]

theorem xVec_gives {i : Instr} {g : BitVec 3} {wr : Bool} {d : BitVec 6} {srcs : List (BitVec 7)} {lat : Wg → Nat}
    {f f' : State → Issue → Wg → List Nat → Nat → Word32 × BitVec 8} (h : ∀ s, exec i s = xVec s g wr d srcs lat (f s))
    (hf : ∀ s is w act t, f s is w act t = f' s is w act t) : CrossGives i g wr d srcs lat f' := by
  have e : f = f' := funext fun s => funext fun is => funext fun w => funext fun act => funext fun t => hf s is w act t
  subst e
  intro s is w hi hx
  rw [h, xVec, withGroup_next hi]
  simp [vectorEffect, lostFlag, Function.comp_def, hx]

theorem xUni_gives {i : Instr} {g : BitVec 3} {wr : Bool} {d : BitVec 5} {src : BitVec 7}
    {f f' : State → Issue → Wg → List Nat → Dbl} (h : ∀ s, exec i s = xUni s g wr d [src] (f s))
    (hf : ∀ s is w act, f s is w act = f' s is w act) : CrossGivesOne i g wr d src f' := by
  have e : f = f' := funext fun s => funext fun is => funext fun w => funext fun act => hf s is w act
  subst e
  intro s is w hi hx ha
  rw [h, xUni, withGroup_next hi]
  simp [lostFlag, hx, ha]

end Sys2Proof.Machine
end

