-- ==== Sys2Proof/Laws/Memory.lean ====
section
/-! SUPPORT. Tables and memories: what a read after a write gives, and that every operation on a memory keeps its canonical form. -/

namespace Sys2Proof.Machine

/-! ### Tables -/

theorem kget_kset {α : Type} (d : α) (l : List (Nat × α)) (k j : Nat) (v : α) :
    kget d (kset l k v) j = if j = k then v else kget d l j := by
  induction l with
  | nil => simp [kset, kget, eq_comm]
  | cons x t ih =>
    obtain ⟨a, y⟩ := x
    simp only [kset]
    split <;> simp only [kget, ih] <;> split <;> split <;> simp_all

@[simp] theorem kget_kset_same {α : Type} (d : α) (l : List (Nat × α)) (k : Nat) (v : α) : kget d (kset l k v) k = v := by
  simp [kget_kset]

theorem kget_kset_other {α : Type} (d : α) (l : List (Nat × α)) {k j : Nat} (v : α) (h : j ≠ k) :
    kget d (kset l k v) j = kget d l j := by simp [kget_kset, h]

/-- Looking up by a key that a change keeps. -/
theorem find_mapIf {α : Type} (key : α → Nat) (n m : Nat) (f : α → α) (hf : ∀ x, key (f x) = key x) (l : List α) :
    (mapIf (fun x => decide (key x = n)) f l).find? (fun x => decide (key x = m)) =
      (l.find? fun x => decide (key x = m)).map fun x => if m = n then f x else x := by
  induction l with
  | nil => rfl
  | cons x t ih =>
    have e : mapIf (fun x => decide (key x = n)) f (x :: t) =
        (if key x = n then f x else x) :: mapIf (fun x => decide (key x = n)) f t := by simp [mapIf]
    have k : key (if key x = n then f x else x) = key x := by split <;> simp [hf]
    rw [e, List.find?_cons, List.find?_cons, ih, k]
    by_cases hm : key x = m <;> simp [hm]

/-! ### Reading a byte of a canonical memory -/

/-- Addresses strictly rising above a bound, no byte 0. -/
def Above : Nat → Memory → Prop
  | _, [] => True
  | n, (a, x) :: t => n ≤ a ∧ x ≠ 0 ∧ Above (a + 1) t

theorem wf_above (m : Memory) : m.wf = true ↔ Above 0 m := by
  have h : ∀ (m : Memory) (a : Nat) (x : Byte), Memory.wf ((a, x) :: m) = true ↔ x ≠ 0 ∧ Above (a + 1) m := by
    intro m
    induction m with
    | nil => intro a x; simp [Memory.wf, Above]
    | cons y t ih =>
      obtain ⟨b, z⟩ := y
      intro a x
      simp only [Memory.wf, Above, Bool.and_eq_true, bne_iff_ne, ne_eq, decide_eq_true_eq, ih]
      constructor
      · rintro ⟨⟨h1, h2⟩, h3, h4⟩; exact ⟨h1, h2, h3, h4⟩
      · rintro ⟨h1, h2, h3, h4⟩; exact ⟨⟨h1, h2⟩, h3, h4⟩
  cases m with
  | nil => simp [Memory.wf, Above]
  | cons y t => obtain ⟨b, z⟩ := y; simp [h, Above]

theorem above_mono {n k : Nat} (h : n ≤ k) : ∀ {m : Memory}, Above k m → Above n m
  | [], _ => trivial
  | (_, _) :: _, ⟨h1, h2, h3⟩ => ⟨by omega, h2, h3⟩

theorem get_below {n a : Nat} (h : a < n) : ∀ {m : Memory}, Above n m → m.get a = 0
  | [], _ => rfl
  | (b, x) :: t, ⟨h1, _, h3⟩ => by
    have : ¬ a = b := by omega
    simp only [Memory.get, this, if_false]
    exact get_below (by omega : a < b + 1) h3

theorem set_above {n : Nat} (a : Nat) (x : Byte) (hn : n ≤ a) : ∀ {m : Memory}, Above n m → Above n (m.set a x)
  | [], _ => by
    simp only [Memory.set]
    split
    · trivial
    · exact ⟨hn, ‹_›, trivial⟩
  | (b, y) :: t, ⟨h1, h2, h3⟩ => by
    simp only [Memory.set]
    split
    · split
      · exact ⟨h1, h2, h3⟩
      · exact ⟨hn, ‹_›, by omega, h2, h3⟩
    · split
      · subst b
        split
        · exact above_mono (by omega) h3
        · exact ⟨hn, ‹_›, h3⟩
      · exact ⟨h1, h2, set_above a x (by omega) h3⟩

theorem get_set_above {n : Nat} (a b : Nat) (x : Byte) : ∀ {m : Memory}, Above n m →
    (m.set a x).get b = if b = a then x else m.get b
  | [], _ => by
    simp only [Memory.set]
    split <;> simp_all [Memory.get]
  | (c, y) :: t, ⟨_, _, h3⟩ => by
    simp only [Memory.set]
    split
    · split
      · next h0 =>
        subst h0
        by_cases hb : b = a
        · subst hb
          have : ¬ b = c := by omega
          simp only [Memory.get, this, if_false, if_true]
          exact get_below (by omega) h3
        · simp [hb]
      · simp only [Memory.get]
    · split
      · subst c
        split
        · next h0 =>
          subst h0
          by_cases hb : b = a
          · subst hb; simpa using get_below (by omega) h3
          · simp [Memory.get, hb]
        · by_cases hb : b = a <;> simp [Memory.get, hb]
      · simp only [Memory.get, get_set_above a b x h3]
        split <;> split <;> simp_all

/-- A byte written reads back, and no other byte changes. -/
theorem get_set {m : Memory} (h : m.wf = true) (a b : Nat) (x : Byte) : (m.set a x).get b = if b = a then x else m.get b :=
  get_set_above a b x ((wf_above m).1 h)

/-! ### The canonical form is kept -/

theorem set_wf {m : Memory} (h : m.wf = true) (a : Nat) (x : Byte) : (m.set a x).wf = true :=
  (wf_above _).2 (set_above a x (Nat.zero_le _) ((wf_above m).1 h))

theorem setBytes_wf (l : List Byte) : ∀ {m : Memory}, m.wf = true → ∀ a, (m.setBytes a l).wf = true := by
  induction l with
  | nil => intro m h a; exact h
  | cons x t ih => intro m h a; exact ih (set_wf h a x) (a + 1)

theorem setWord_wf {m : Memory} (h : m.wf = true) (a : Nat) (w : Word32) : (m.setWord a w).wf = true := setBytes_wf _ h a

theorem setDbl_wf {m : Memory} (h : m.wf = true) (a : Nat) (d : Dbl) : (m.setDbl a d).wf = true :=
  setWord_wf (setWord_wf h a _) (a + 4) _

theorem setWords_wf (l : List Word32) : ∀ {m : Memory}, m.wf = true → ∀ a, (m.setWords a l).wf = true := by
  induction l with
  | nil => intro m h a; exact h
  | cons x t ih => intro m h a; exact ih (setWord_wf h a x) (a + 4)

/-- Bytes written read back, and no other byte changes. -/
theorem get_setBytes (l : List Byte) : ∀ {m : Memory}, m.wf = true → ∀ a b,
    (m.setBytes a l).get b = if a ≤ b ∧ b < a + l.length then l.getD (b - a) 0 else m.get b := by
  induction l with
  | nil =>
    intro m _ a b
    rw [if_neg (by simp only [List.length_nil]; omega)]
    rfl
  | cons x t ih =>
    intro m h a b
    rw [Memory.setBytes, ih (set_wf h a x), get_set h]
    by_cases e : b = a
    · subst e
      rw [if_neg (by omega), if_pos rfl, if_pos ⟨Nat.le_refl _, by simp only [List.length_cons]; omega⟩]
      simp
    · by_cases r : a + 1 ≤ b ∧ b < a + 1 + t.length
      · have r2 : a ≤ b ∧ b < a + (x :: t).length := by simp only [List.length_cons]; omega
        have r3 : b - a = (b - (a + 1)) + 1 := by omega
        rw [if_pos r, if_pos r2, r3, List.getD_cons_succ]
      · have r2 : ¬ (a ≤ b ∧ b < a + (x :: t).length) := by simp only [List.length_cons]; omega
        rw [if_neg r, if_neg r2, if_neg e]

/-- Where a byte lies in a word that has been written, and that no other byte changes. -/
theorem get_setWord {m : Memory} (h : m.wf = true) (a b : Nat) (w : Word32) :
    (m.setWord a w).get b = if a ≤ b ∧ b < a + 4 then (wordBytes w).getD (b - a) 0 else m.get b := get_setBytes _ h a b

/-- No byte outside a 64-bit value that has been written changes. -/
theorem get_setDbl_far {m : Memory} (h : m.wf = true) (a b : Nat) (d : Dbl) (f : b < a ∨ a + 8 ≤ b) :
    (m.setDbl a d).get b = m.get b := by
  rw [Memory.setDbl, get_setWord (setWord_wf h a _), get_setWord h]
  rw [if_neg (by omega), if_neg (by omega)]

theorem above_filter (p : Nat × Byte → Bool) : ∀ {m : Memory} {n : Nat}, Above n m → Above n (m.filter p)
  | [], _, _ => trivial
  | (a, x) :: t, n, ⟨h1, h2, h3⟩ => by
    simp only [List.filter_cons]
    split
    · exact ⟨h1, h2, above_filter p h3⟩
    · exact above_mono (by omega) (above_filter p h3)

theorem clear_wf {m : Memory} (h : m.wf = true) (a n : Nat) : (m.clear a n).wf = true :=
  (wf_above _).2 (above_filter _ ((wf_above m).1 h))

/-- Two memories side by side, the first below an address and the second from it on. -/
theorem above_append {k : Nat} : ∀ {l m : Memory} {n : Nat}, Above n l → (∀ x ∈ l, x.1 < k) → Above k m → n ≤ k → Above n (l ++ m)
  | [], _, _, _, _, hm, hk => above_mono hk hm
  | (a, _) :: _, _, _, ⟨h1, h2, h3⟩, hl, hm, _ =>
    ⟨h1, h2, above_append h3 (fun y hy => hl y (List.mem_cons_of_mem _ hy)) hm (hl (a, _) (List.mem_cons_self ..))⟩

/-- A filter on addresses from k on leaves a memory that begins at k. -/
theorem above_from (k : Nat) (p : Nat × Byte → Bool) (hp : ∀ x, p x = true → k ≤ x.1) :
    ∀ {m : Memory} {n : Nat}, Above n m → Above k (m.filter p)
  | [], _, _ => trivial
  | (a, x) :: t, n, ⟨_, h2, h3⟩ => by
    simp only [List.filter_cons]
    split
    · exact ⟨hp _ ‹_›, h2, above_filter p h3⟩
    · exact above_from k p hp h3

theorem patch_wf {m src : Memory} (h : m.wf = true) (hs : src.wf = true) (a n : Nat) : (m.patch src a n).wf = true := by
  have hm := (wf_above m).1 h
  have hsrc := (wf_above src).1 hs
  refine (wf_above _).2 (above_append (k := a + n) (above_append (k := a) (above_filter _ hm) ?_ ?_ (Nat.zero_le _)) ?_ ?_ (Nat.zero_le _))
  · intro x hx; simpa using (List.mem_filter.1 hx).2
  · exact above_from a _ (fun x hx => by simp at hx; exact hx.1) hsrc
  · intro x hx
    rcases List.mem_append.1 hx with hx | hx <;> have := (List.mem_filter.1 hx).2 <;> simp at this <;> omega
  · exact above_from (a + n) _ (fun x hx => by simpa using hx) hm

/-- A memory whose addresses are counted from k on. -/
theorem above_shift (k : Nat) : ∀ {m : Memory} {n : Nat}, k ≤ n → Above n m → Above (n - k) (m.map fun x => (x.1 - k, x.2))
  | [], _, _, _ => trivial
  | (a, x) :: t, n, hk, ⟨h1, h2, h3⟩ => by
    have := above_shift k (n := a + 1) (by omega) h3
    exact ⟨by simp only; omega, h2, above_mono (by simp only; omega) this⟩

theorem slice_wf {m : Memory} (h : m.wf = true) (a n : Nat) : (m.slice a n).wf = true := by
  have := above_shift a (Nat.le_refl a)
    (above_from a (fun x => decide (a ≤ x.1) && decide (x.1 < a + n)) (fun x hx => by simp at hx; exact hx.1) ((wf_above m).1 h))
  exact (wf_above _).2 (above_mono (Nat.zero_le _) this)

/-- Words numbered in a rising order keep the canonical form once the bytes an unlisted address reads as are left out. -/
theorem above_range (a : Nat) (f : Nat → Byte) : ∀ (n k : Nat), Above (a + k)
    (((List.range' k n).map fun j => (a + j, f j)).filter fun x => x.2 ≠ 0)
  | 0, _ => trivial
  | n + 1, k => by
    have ih := above_range a f n (k + 1)
    rw [List.range'_succ, List.map_cons, List.filter_cons]
    split
    · next h => exact ⟨Nat.le_refl _, by simpa using h, above_mono (by omega) ih⟩
    · exact above_mono (by omega) ih

theorem image_wf (a n : Nat) (f : Nat → Byte) :
    Memory.wf (((List.range n).map fun j => (a + j, f j)).filter fun x => x.2 ≠ 0) = true := by
  have h := above_range a f n 0
  rw [← List.range_eq_range'] at h
  exact (wf_above _).2 (above_mono (Nat.zero_le _) h)

theorem slotImage_wf (s : State) (a : Nat) : (s.slotImage a).wf = true := by
  unfold State.slotImage
  generalize 0x300000 = n
  exact image_wf a n _

/-- A memory written by a list of steps that keep the form keeps it. -/
theorem foldl_wf {α : Type} (f : Memory → α → Memory) (hf : ∀ m x, m.wf = true → (f m x).wf = true) (l : List α) :
    ∀ {m : Memory}, m.wf = true → (l.foldl f m).wf = true := by
  induction l with
  | nil => intro m h; exact h
  | cons x t ih => intro m h; exact ih (hf m x h)

/-! ### Writes at home slices (R233, R355) -/

/-- Waking the harts that watch a line puts steps on the agenda and changes nothing else. -/
theorem wakeWatch_agenda (s : State) (pa : Nat) : s.wakeWatch pa = { s with agenda := (s.wakeWatch pa).agenda } := by
  have h : ∀ (l : List Hart) (s : State) (f : State → Hart → State), (∀ s h, f s h = { s with agenda := (f s h).agenda }) →
      l.foldl f s = { s with agenda := (l.foldl f s).agenda } := by
    intro l
    induction l with
    | nil => intro s f _; rfl
    | cons x t ih =>
      intro s f hf
      rw [List.foldl_cons, ih (f s x) f hf]
      generalize (t.foldl f (f s x)).agenda = ag
      rw [hf s x]
  refine h _ _ _ fun s x => ?_
  split <;> try rfl
  split <;> try rfl
  split <;> rfl

/-- A write in place changes the memory, the agenda and the words known to be bad, and nothing else. -/
theorem setHome_eq (s : State) (pa : Nat) (w : Word32) :
    s.setHome pa w =
      { s with mem := s.mem.setWord pa w, agenda := (s.setHome pa w).agenda, badWords := (s.setHome pa w).badWords } := by
  have h := wakeWatch_agenda { s with mem := s.mem.setWord pa w, badWords := s.badWords.filter fun n => n ≠ pa / 4 } pa
  rw [State.setHome, h]

theorem setHomeDbl_eq (s : State) (pa : Nat) (d : Dbl) :
    s.setHomeDbl pa d =
      { s with mem := s.mem.setDbl pa d, agenda := (s.setHomeDbl pa d).agenda, badWords := (s.setHomeDbl pa d).badWords } := by
  have h := wakeWatch_agenda
    { s with mem := s.mem.setDbl pa d, badWords := s.badWords.filter fun n => n ≠ pa / 4 ∧ n ≠ pa / 4 + 1 } pa
  rw [State.setHomeDbl, h]

theorem setHome_mem (s : State) (pa : Nat) (w : Word32) : (s.setHome pa w).mem = s.mem.setWord pa w := by rw [setHome_eq]
theorem setHomeDbl_mem (s : State) (pa : Nat) (d : Dbl) : (s.setHomeDbl pa d).mem = s.mem.setDbl pa d := by rw [setHomeDbl_eq]

theorem setHome_wf {s : State} (h : s.mem.wf = true) (pa : Nat) (w : Word32) : (s.setHome pa w).mem.wf = true := by
  rw [setHome_mem]; exact setWord_wf h pa w
theorem setHomeDbl_wf {s : State} (h : s.mem.wf = true) (pa : Nat) (d : Dbl) : (s.setHomeDbl pa d).mem.wf = true := by
  rw [setHomeDbl_mem]; exact setDbl_wf h pa d

end Sys2Proof.Machine
end

