-- ==== Sys2Proof/Laws/State.lean ====
section
/-! SUPPORT. What each update of a part of the state leaves in each field of it: one equation for each field and update, so that no proof
unfolds a record update. -/

namespace Sys2Proof.Machine.State

variable (s : State)

@[simp] theorem post_wgs (d i) : (s.post d i).wgs = s.wgs := rfl
@[simp] theorem post_cores (d i) : (s.post d i).cores = s.cores := rfl
@[simp] theorem post_quads (d i) : (s.post d i).quads = s.quads := rfl
@[simp] theorem post_mem (d i) : (s.post d i).mem = s.mem := rfl
@[simp] theorem post_slices (d i) : (s.post d i).slices = s.slices := rfl
@[simp] theorem post_hbms (d i) : (s.post d i).hbms = s.hbms := rfl
@[simp] theorem post_ops (d i) : (s.post d i).ops = s.ops := rfl
@[simp] theorem post_walks (d i) : (s.post d i).walks = s.walks := rfl
@[simp] theorem post_walkCache (d i) : (s.post d i).walkCache = s.walkCache := rfl
@[simp] theorem post_pageReqs (d i) : (s.post d i).pageReqs = s.pageReqs := rfl
@[simp] theorem post_objs (d i) : (s.post d i).objs = s.objs := rfl
@[simp] theorem post_ordAccs (d i) : (s.post d i).ordAccs = s.ordAccs := rfl
@[simp] theorem post_contribs (d i) : (s.post d i).contribs = s.contribs := rfl
@[simp] theorem post_results (d i) : (s.post d i).results = s.results := rfl
@[simp] theorem post_joins (d i) : (s.post d i).joins = s.joins := rfl
@[simp] theorem post_waiters (d i) : (s.post d i).waiters = s.waiters := rfl
@[simp] theorem post_episodes (d i) : (s.post d i).episodes = s.episodes := rfl
@[simp] theorem post_words (d i) : (s.post d i).words = s.words := rfl
@[simp] theorem post_frozenChans (d i) : (s.post d i).frozenChans = s.frozenChans := rfl
@[simp] theorem post_flits (d i) : (s.post d i).flits = s.flits := rfl
@[simp] theorem post_parts (d i) : (s.post d i).parts = s.parts := rfl
@[simp] theorem post_batons (d i) : (s.post d i).batons = s.batons := rfl
@[simp] theorem post_grids (d i) : (s.post d i).grids = s.grids := rfl
@[simp] theorem post_nodes (d i) : (s.post d i).nodes = s.nodes := rfl
@[simp] theorem post_pacer (d i) : (s.post d i).pacer = s.pacer := rfl
@[simp] theorem post_qcbs (d i) : (s.post d i).qcbs = s.qcbs := rfl
@[simp] theorem post_qcbsOut (d i) : (s.post d i).qcbsOut = s.qcbsOut := rfl
@[simp] theorem post_harts (d i) : (s.post d i).harts = s.harts := rfl
@[simp] theorem post_packets (d i) : (s.post d i).packets = s.packets := rfl
@[simp] theorem post_hubWaits (d i) : (s.post d i).hubWaits = s.hubWaits := rfl
@[simp] theorem post_funcs (d i) : (s.post d i).funcs = s.funcs := rfl
@[simp] theorem post_relParts (d i) : (s.post d i).relParts = s.relParts := rfl
@[simp] theorem post_rhctl (d i) : (s.post d i).rhctl = s.rhctl := rfl
@[simp] theorem post_frzlog (d i) : (s.post d i).frzlog = s.frzlog := rfl
@[simp] theorem post_frzWho (d i) : (s.post d i).frzWho = s.frzWho := rfl
@[simp] theorem post_ports (d i) : (s.post d i).ports = s.ports := rfl
@[simp] theorem post_switchesDown (d i) : (s.post d i).switchesDown = s.switchesDown := rfl
@[simp] theorem post_groupsDown (d i) : (s.post d i).groupsDown = s.groupsDown := rfl
@[simp] theorem post_namedFailures (d i) : (s.post d i).namedFailures = s.namedFailures := rfl
@[simp] theorem post_heardFrom (d i) : (s.post d i).heardFrom = s.heardFrom := rfl
@[simp] theorem post_badWords (d i) : (s.post d i).badWords = s.badWords := rfl
@[simp] theorem post_leftOut (d i) : (s.post d i).leftOut = s.leftOut := rfl
@[simp] theorem post_telemetry (d i) : (s.post d i).telemetry = s.telemetry := rfl
@[simp] theorem post_caps (d i) : (s.post d i).caps = s.caps := rfl
@[simp] theorem post_boot (d i) : (s.post d i).boot = s.boot := rfl
@[simp] theorem post_clk (d i) : (s.post d i).clk = s.clk := rfl
@[simp] theorem post_agenda (d i) : (s.post d i).agenda = s.agenda ++ [(s.clk + d, i)] := rfl
@[simp] theorem post_cur (d i) : (s.post d i).cur = s.cur := rfl
@[simp] theorem post_runs (d i) : (s.post d i).runs = s.runs := rfl
@[simp] theorem post_issuedAt (d i) : (s.post d i).issuedAt = s.issuedAt := rfl
@[simp] theorem post_free (d i) : (s.post d i).free = s.free := rfl
@[simp] theorem post_ids (d i) : (s.post d i).ids = s.ids := rfl
@[simp] theorem post_sent (d i) : (s.post d i).sent = s.sent := rfl

@[simp] theorem takeId_wgs : (s.takeId).wgs = s.wgs := rfl
@[simp] theorem takeId_cores : (s.takeId).cores = s.cores := rfl
@[simp] theorem takeId_quads : (s.takeId).quads = s.quads := rfl
@[simp] theorem takeId_mem : (s.takeId).mem = s.mem := rfl
@[simp] theorem takeId_slices : (s.takeId).slices = s.slices := rfl
@[simp] theorem takeId_hbms : (s.takeId).hbms = s.hbms := rfl
@[simp] theorem takeId_ops : (s.takeId).ops = s.ops := rfl
@[simp] theorem takeId_walks : (s.takeId).walks = s.walks := rfl
@[simp] theorem takeId_walkCache : (s.takeId).walkCache = s.walkCache := rfl
@[simp] theorem takeId_pageReqs : (s.takeId).pageReqs = s.pageReqs := rfl
@[simp] theorem takeId_objs : (s.takeId).objs = s.objs := rfl
@[simp] theorem takeId_ordAccs : (s.takeId).ordAccs = s.ordAccs := rfl
@[simp] theorem takeId_contribs : (s.takeId).contribs = s.contribs := rfl
@[simp] theorem takeId_results : (s.takeId).results = s.results := rfl
@[simp] theorem takeId_joins : (s.takeId).joins = s.joins := rfl
@[simp] theorem takeId_waiters : (s.takeId).waiters = s.waiters := rfl
@[simp] theorem takeId_episodes : (s.takeId).episodes = s.episodes := rfl
@[simp] theorem takeId_words : (s.takeId).words = s.words := rfl
@[simp] theorem takeId_frozenChans : (s.takeId).frozenChans = s.frozenChans := rfl
@[simp] theorem takeId_flits : (s.takeId).flits = s.flits := rfl
@[simp] theorem takeId_parts : (s.takeId).parts = s.parts := rfl
@[simp] theorem takeId_batons : (s.takeId).batons = s.batons := rfl
@[simp] theorem takeId_grids : (s.takeId).grids = s.grids := rfl
@[simp] theorem takeId_nodes : (s.takeId).nodes = s.nodes := rfl
@[simp] theorem takeId_pacer : (s.takeId).pacer = s.pacer := rfl
@[simp] theorem takeId_qcbs : (s.takeId).qcbs = s.qcbs := rfl
@[simp] theorem takeId_qcbsOut : (s.takeId).qcbsOut = s.qcbsOut := rfl
@[simp] theorem takeId_harts : (s.takeId).harts = s.harts := rfl
@[simp] theorem takeId_packets : (s.takeId).packets = s.packets := rfl
@[simp] theorem takeId_hubWaits : (s.takeId).hubWaits = s.hubWaits := rfl
@[simp] theorem takeId_funcs : (s.takeId).funcs = s.funcs := rfl
@[simp] theorem takeId_relParts : (s.takeId).relParts = s.relParts := rfl
@[simp] theorem takeId_rhctl : (s.takeId).rhctl = s.rhctl := rfl
@[simp] theorem takeId_frzlog : (s.takeId).frzlog = s.frzlog := rfl
@[simp] theorem takeId_frzWho : (s.takeId).frzWho = s.frzWho := rfl
@[simp] theorem takeId_ports : (s.takeId).ports = s.ports := rfl
@[simp] theorem takeId_switchesDown : (s.takeId).switchesDown = s.switchesDown := rfl
@[simp] theorem takeId_groupsDown : (s.takeId).groupsDown = s.groupsDown := rfl
@[simp] theorem takeId_namedFailures : (s.takeId).namedFailures = s.namedFailures := rfl
@[simp] theorem takeId_heardFrom : (s.takeId).heardFrom = s.heardFrom := rfl
@[simp] theorem takeId_badWords : (s.takeId).badWords = s.badWords := rfl
@[simp] theorem takeId_leftOut : (s.takeId).leftOut = s.leftOut := rfl
@[simp] theorem takeId_telemetry : (s.takeId).telemetry = s.telemetry := rfl
@[simp] theorem takeId_caps : (s.takeId).caps = s.caps := rfl
@[simp] theorem takeId_boot : (s.takeId).boot = s.boot := rfl
@[simp] theorem takeId_clk : (s.takeId).clk = s.clk := rfl
@[simp] theorem takeId_agenda : (s.takeId).agenda = s.agenda := rfl
@[simp] theorem takeId_cur : (s.takeId).cur = s.cur := rfl
@[simp] theorem takeId_runs : (s.takeId).runs = s.runs := rfl
@[simp] theorem takeId_issuedAt : (s.takeId).issuedAt = s.issuedAt := rfl
@[simp] theorem takeId_free : (s.takeId).free = s.free := rfl
@[simp] theorem takeId_ids : (s.takeId).ids = s.ids + 1 := rfl
@[simp] theorem takeId_sent : (s.takeId).sent = s.sent := rfl

@[simp] theorem takeFree_wgs : (s.takeFree).wgs = s.wgs := rfl
@[simp] theorem takeFree_cores : (s.takeFree).cores = s.cores := rfl
@[simp] theorem takeFree_quads : (s.takeFree).quads = s.quads := rfl
@[simp] theorem takeFree_mem : (s.takeFree).mem = s.mem := rfl
@[simp] theorem takeFree_slices : (s.takeFree).slices = s.slices := rfl
@[simp] theorem takeFree_hbms : (s.takeFree).hbms = s.hbms := rfl
@[simp] theorem takeFree_ops : (s.takeFree).ops = s.ops := rfl
@[simp] theorem takeFree_walks : (s.takeFree).walks = s.walks := rfl
@[simp] theorem takeFree_walkCache : (s.takeFree).walkCache = s.walkCache := rfl
@[simp] theorem takeFree_pageReqs : (s.takeFree).pageReqs = s.pageReqs := rfl
@[simp] theorem takeFree_objs : (s.takeFree).objs = s.objs := rfl
@[simp] theorem takeFree_ordAccs : (s.takeFree).ordAccs = s.ordAccs := rfl
@[simp] theorem takeFree_contribs : (s.takeFree).contribs = s.contribs := rfl
@[simp] theorem takeFree_results : (s.takeFree).results = s.results := rfl
@[simp] theorem takeFree_joins : (s.takeFree).joins = s.joins := rfl
@[simp] theorem takeFree_waiters : (s.takeFree).waiters = s.waiters := rfl
@[simp] theorem takeFree_episodes : (s.takeFree).episodes = s.episodes := rfl
@[simp] theorem takeFree_words : (s.takeFree).words = s.words := rfl
@[simp] theorem takeFree_frozenChans : (s.takeFree).frozenChans = s.frozenChans := rfl
@[simp] theorem takeFree_flits : (s.takeFree).flits = s.flits := rfl
@[simp] theorem takeFree_parts : (s.takeFree).parts = s.parts := rfl
@[simp] theorem takeFree_batons : (s.takeFree).batons = s.batons := rfl
@[simp] theorem takeFree_grids : (s.takeFree).grids = s.grids := rfl
@[simp] theorem takeFree_nodes : (s.takeFree).nodes = s.nodes := rfl
@[simp] theorem takeFree_pacer : (s.takeFree).pacer = s.pacer := rfl
@[simp] theorem takeFree_qcbs : (s.takeFree).qcbs = s.qcbs := rfl
@[simp] theorem takeFree_qcbsOut : (s.takeFree).qcbsOut = s.qcbsOut := rfl
@[simp] theorem takeFree_harts : (s.takeFree).harts = s.harts := rfl
@[simp] theorem takeFree_packets : (s.takeFree).packets = s.packets := rfl
@[simp] theorem takeFree_hubWaits : (s.takeFree).hubWaits = s.hubWaits := rfl
@[simp] theorem takeFree_funcs : (s.takeFree).funcs = s.funcs := rfl
@[simp] theorem takeFree_relParts : (s.takeFree).relParts = s.relParts := rfl
@[simp] theorem takeFree_rhctl : (s.takeFree).rhctl = s.rhctl := rfl
@[simp] theorem takeFree_frzlog : (s.takeFree).frzlog = s.frzlog := rfl
@[simp] theorem takeFree_frzWho : (s.takeFree).frzWho = s.frzWho := rfl
@[simp] theorem takeFree_ports : (s.takeFree).ports = s.ports := rfl
@[simp] theorem takeFree_switchesDown : (s.takeFree).switchesDown = s.switchesDown := rfl
@[simp] theorem takeFree_groupsDown : (s.takeFree).groupsDown = s.groupsDown := rfl
@[simp] theorem takeFree_namedFailures : (s.takeFree).namedFailures = s.namedFailures := rfl
@[simp] theorem takeFree_heardFrom : (s.takeFree).heardFrom = s.heardFrom := rfl
@[simp] theorem takeFree_badWords : (s.takeFree).badWords = s.badWords := rfl
@[simp] theorem takeFree_leftOut : (s.takeFree).leftOut = s.leftOut := rfl
@[simp] theorem takeFree_telemetry : (s.takeFree).telemetry = s.telemetry := rfl
@[simp] theorem takeFree_caps : (s.takeFree).caps = s.caps := rfl
@[simp] theorem takeFree_boot : (s.takeFree).boot = s.boot := rfl
@[simp] theorem takeFree_clk : (s.takeFree).clk = s.clk := rfl
@[simp] theorem takeFree_agenda : (s.takeFree).agenda = s.agenda := rfl
@[simp] theorem takeFree_cur : (s.takeFree).cur = s.cur := rfl
@[simp] theorem takeFree_runs : (s.takeFree).runs = s.runs := rfl
@[simp] theorem takeFree_issuedAt : (s.takeFree).issuedAt = s.issuedAt := rfl
@[simp] theorem takeFree_free : (s.takeFree).free = s.free + 1 := rfl
@[simp] theorem takeFree_ids : (s.takeFree).ids = s.ids := rfl
@[simp] theorem takeFree_sent : (s.takeFree).sent = s.sent := rfl

@[simp] theorem send_wgs (m) : (s.send m).wgs = s.wgs := rfl
@[simp] theorem send_cores (m) : (s.send m).cores = s.cores := rfl
@[simp] theorem send_quads (m) : (s.send m).quads = s.quads := rfl
@[simp] theorem send_mem (m) : (s.send m).mem = s.mem := rfl
@[simp] theorem send_slices (m) : (s.send m).slices = s.slices := rfl
@[simp] theorem send_hbms (m) : (s.send m).hbms = s.hbms := rfl
@[simp] theorem send_ops (m) : (s.send m).ops = s.ops := rfl
@[simp] theorem send_walks (m) : (s.send m).walks = s.walks := rfl
@[simp] theorem send_walkCache (m) : (s.send m).walkCache = s.walkCache := rfl
@[simp] theorem send_pageReqs (m) : (s.send m).pageReqs = s.pageReqs := rfl
@[simp] theorem send_objs (m) : (s.send m).objs = s.objs := rfl
@[simp] theorem send_ordAccs (m) : (s.send m).ordAccs = s.ordAccs := rfl
@[simp] theorem send_contribs (m) : (s.send m).contribs = s.contribs := rfl
@[simp] theorem send_results (m) : (s.send m).results = s.results := rfl
@[simp] theorem send_joins (m) : (s.send m).joins = s.joins := rfl
@[simp] theorem send_waiters (m) : (s.send m).waiters = s.waiters := rfl
@[simp] theorem send_episodes (m) : (s.send m).episodes = s.episodes := rfl
@[simp] theorem send_words (m) : (s.send m).words = s.words := rfl
@[simp] theorem send_frozenChans (m) : (s.send m).frozenChans = s.frozenChans := rfl
@[simp] theorem send_flits (m) : (s.send m).flits = s.flits := rfl
@[simp] theorem send_parts (m) : (s.send m).parts = s.parts := rfl
@[simp] theorem send_batons (m) : (s.send m).batons = s.batons := rfl
@[simp] theorem send_grids (m) : (s.send m).grids = s.grids := rfl
@[simp] theorem send_nodes (m) : (s.send m).nodes = s.nodes := rfl
@[simp] theorem send_pacer (m) : (s.send m).pacer = s.pacer := rfl
@[simp] theorem send_qcbs (m) : (s.send m).qcbs = s.qcbs := rfl
@[simp] theorem send_qcbsOut (m) : (s.send m).qcbsOut = s.qcbsOut := rfl
@[simp] theorem send_harts (m) : (s.send m).harts = s.harts := rfl
@[simp] theorem send_packets (m) : (s.send m).packets = s.packets := rfl
@[simp] theorem send_hubWaits (m) : (s.send m).hubWaits = s.hubWaits := rfl
@[simp] theorem send_funcs (m) : (s.send m).funcs = s.funcs := rfl
@[simp] theorem send_relParts (m) : (s.send m).relParts = s.relParts := rfl
@[simp] theorem send_rhctl (m) : (s.send m).rhctl = s.rhctl := rfl
@[simp] theorem send_frzlog (m) : (s.send m).frzlog = s.frzlog := rfl
@[simp] theorem send_frzWho (m) : (s.send m).frzWho = s.frzWho := rfl
@[simp] theorem send_ports (m) : (s.send m).ports = s.ports := rfl
@[simp] theorem send_switchesDown (m) : (s.send m).switchesDown = s.switchesDown := rfl
@[simp] theorem send_groupsDown (m) : (s.send m).groupsDown = s.groupsDown := rfl
@[simp] theorem send_namedFailures (m) : (s.send m).namedFailures = s.namedFailures := rfl
@[simp] theorem send_heardFrom (m) : (s.send m).heardFrom = s.heardFrom := rfl
@[simp] theorem send_badWords (m) : (s.send m).badWords = s.badWords := rfl
@[simp] theorem send_leftOut (m) : (s.send m).leftOut = s.leftOut := rfl
@[simp] theorem send_telemetry (m) : (s.send m).telemetry = s.telemetry := rfl
@[simp] theorem send_caps (m) : (s.send m).caps = s.caps := rfl
@[simp] theorem send_boot (m) : (s.send m).boot = s.boot := rfl
@[simp] theorem send_clk (m) : (s.send m).clk = s.clk := rfl
@[simp] theorem send_agenda (m) : (s.send m).agenda = s.agenda := rfl
@[simp] theorem send_cur (m) : (s.send m).cur = s.cur := rfl
@[simp] theorem send_runs (m) : (s.send m).runs = s.runs := rfl
@[simp] theorem send_issuedAt (m) : (s.send m).issuedAt = s.issuedAt := rfl
@[simp] theorem send_free (m) : (s.send m).free = s.free := rfl
@[simp] theorem send_ids (m) : (s.send m).ids = s.ids := rfl
@[simp] theorem send_sent (m) : (s.send m).sent = s.sent ++ [m] := rfl

@[simp] theorem modCore_wgs (c f) : (s.modCore c f).wgs = s.wgs := rfl
@[simp] theorem modCore_cores (c f) : (s.modCore c f).cores = kset s.cores c (f (s.core c)) := rfl
@[simp] theorem modCore_quads (c f) : (s.modCore c f).quads = s.quads := rfl
@[simp] theorem modCore_mem (c f) : (s.modCore c f).mem = s.mem := rfl
@[simp] theorem modCore_slices (c f) : (s.modCore c f).slices = s.slices := rfl
@[simp] theorem modCore_hbms (c f) : (s.modCore c f).hbms = s.hbms := rfl
@[simp] theorem modCore_ops (c f) : (s.modCore c f).ops = s.ops := rfl
@[simp] theorem modCore_walks (c f) : (s.modCore c f).walks = s.walks := rfl
@[simp] theorem modCore_walkCache (c f) : (s.modCore c f).walkCache = s.walkCache := rfl
@[simp] theorem modCore_pageReqs (c f) : (s.modCore c f).pageReqs = s.pageReqs := rfl
@[simp] theorem modCore_objs (c f) : (s.modCore c f).objs = s.objs := rfl
@[simp] theorem modCore_ordAccs (c f) : (s.modCore c f).ordAccs = s.ordAccs := rfl
@[simp] theorem modCore_contribs (c f) : (s.modCore c f).contribs = s.contribs := rfl
@[simp] theorem modCore_results (c f) : (s.modCore c f).results = s.results := rfl
@[simp] theorem modCore_joins (c f) : (s.modCore c f).joins = s.joins := rfl
@[simp] theorem modCore_waiters (c f) : (s.modCore c f).waiters = s.waiters := rfl
@[simp] theorem modCore_episodes (c f) : (s.modCore c f).episodes = s.episodes := rfl
@[simp] theorem modCore_words (c f) : (s.modCore c f).words = s.words := rfl
@[simp] theorem modCore_frozenChans (c f) : (s.modCore c f).frozenChans = s.frozenChans := rfl
@[simp] theorem modCore_flits (c f) : (s.modCore c f).flits = s.flits := rfl
@[simp] theorem modCore_parts (c f) : (s.modCore c f).parts = s.parts := rfl
@[simp] theorem modCore_batons (c f) : (s.modCore c f).batons = s.batons := rfl
@[simp] theorem modCore_grids (c f) : (s.modCore c f).grids = s.grids := rfl
@[simp] theorem modCore_nodes (c f) : (s.modCore c f).nodes = s.nodes := rfl
@[simp] theorem modCore_pacer (c f) : (s.modCore c f).pacer = s.pacer := rfl
@[simp] theorem modCore_qcbs (c f) : (s.modCore c f).qcbs = s.qcbs := rfl
@[simp] theorem modCore_qcbsOut (c f) : (s.modCore c f).qcbsOut = s.qcbsOut := rfl
@[simp] theorem modCore_harts (c f) : (s.modCore c f).harts = s.harts := rfl
@[simp] theorem modCore_packets (c f) : (s.modCore c f).packets = s.packets := rfl
@[simp] theorem modCore_hubWaits (c f) : (s.modCore c f).hubWaits = s.hubWaits := rfl
@[simp] theorem modCore_funcs (c f) : (s.modCore c f).funcs = s.funcs := rfl
@[simp] theorem modCore_relParts (c f) : (s.modCore c f).relParts = s.relParts := rfl
@[simp] theorem modCore_rhctl (c f) : (s.modCore c f).rhctl = s.rhctl := rfl
@[simp] theorem modCore_frzlog (c f) : (s.modCore c f).frzlog = s.frzlog := rfl
@[simp] theorem modCore_frzWho (c f) : (s.modCore c f).frzWho = s.frzWho := rfl
@[simp] theorem modCore_ports (c f) : (s.modCore c f).ports = s.ports := rfl
@[simp] theorem modCore_switchesDown (c f) : (s.modCore c f).switchesDown = s.switchesDown := rfl
@[simp] theorem modCore_groupsDown (c f) : (s.modCore c f).groupsDown = s.groupsDown := rfl
@[simp] theorem modCore_namedFailures (c f) : (s.modCore c f).namedFailures = s.namedFailures := rfl
@[simp] theorem modCore_heardFrom (c f) : (s.modCore c f).heardFrom = s.heardFrom := rfl
@[simp] theorem modCore_badWords (c f) : (s.modCore c f).badWords = s.badWords := rfl
@[simp] theorem modCore_leftOut (c f) : (s.modCore c f).leftOut = s.leftOut := rfl
@[simp] theorem modCore_telemetry (c f) : (s.modCore c f).telemetry = s.telemetry := rfl
@[simp] theorem modCore_caps (c f) : (s.modCore c f).caps = s.caps := rfl
@[simp] theorem modCore_boot (c f) : (s.modCore c f).boot = s.boot := rfl
@[simp] theorem modCore_clk (c f) : (s.modCore c f).clk = s.clk := rfl
@[simp] theorem modCore_agenda (c f) : (s.modCore c f).agenda = s.agenda := rfl
@[simp] theorem modCore_cur (c f) : (s.modCore c f).cur = s.cur := rfl
@[simp] theorem modCore_runs (c f) : (s.modCore c f).runs = s.runs := rfl
@[simp] theorem modCore_issuedAt (c f) : (s.modCore c f).issuedAt = s.issuedAt := rfl
@[simp] theorem modCore_free (c f) : (s.modCore c f).free = s.free := rfl
@[simp] theorem modCore_ids (c f) : (s.modCore c f).ids = s.ids := rfl
@[simp] theorem modCore_sent (c f) : (s.modCore c f).sent = s.sent := rfl

@[simp] theorem modQuad_wgs (q f) : (s.modQuad q f).wgs = s.wgs := rfl
@[simp] theorem modQuad_cores (q f) : (s.modQuad q f).cores = s.cores := rfl
@[simp] theorem modQuad_quads (q f) : (s.modQuad q f).quads = kset s.quads q (f (s.quad q)) := rfl
@[simp] theorem modQuad_mem (q f) : (s.modQuad q f).mem = s.mem := rfl
@[simp] theorem modQuad_slices (q f) : (s.modQuad q f).slices = s.slices := rfl
@[simp] theorem modQuad_hbms (q f) : (s.modQuad q f).hbms = s.hbms := rfl
@[simp] theorem modQuad_ops (q f) : (s.modQuad q f).ops = s.ops := rfl
@[simp] theorem modQuad_walks (q f) : (s.modQuad q f).walks = s.walks := rfl
@[simp] theorem modQuad_walkCache (q f) : (s.modQuad q f).walkCache = s.walkCache := rfl
@[simp] theorem modQuad_pageReqs (q f) : (s.modQuad q f).pageReqs = s.pageReqs := rfl
@[simp] theorem modQuad_objs (q f) : (s.modQuad q f).objs = s.objs := rfl
@[simp] theorem modQuad_ordAccs (q f) : (s.modQuad q f).ordAccs = s.ordAccs := rfl
@[simp] theorem modQuad_contribs (q f) : (s.modQuad q f).contribs = s.contribs := rfl
@[simp] theorem modQuad_results (q f) : (s.modQuad q f).results = s.results := rfl
@[simp] theorem modQuad_joins (q f) : (s.modQuad q f).joins = s.joins := rfl
@[simp] theorem modQuad_waiters (q f) : (s.modQuad q f).waiters = s.waiters := rfl
@[simp] theorem modQuad_episodes (q f) : (s.modQuad q f).episodes = s.episodes := rfl
@[simp] theorem modQuad_words (q f) : (s.modQuad q f).words = s.words := rfl
@[simp] theorem modQuad_frozenChans (q f) : (s.modQuad q f).frozenChans = s.frozenChans := rfl
@[simp] theorem modQuad_flits (q f) : (s.modQuad q f).flits = s.flits := rfl
@[simp] theorem modQuad_parts (q f) : (s.modQuad q f).parts = s.parts := rfl
@[simp] theorem modQuad_batons (q f) : (s.modQuad q f).batons = s.batons := rfl
@[simp] theorem modQuad_grids (q f) : (s.modQuad q f).grids = s.grids := rfl
@[simp] theorem modQuad_nodes (q f) : (s.modQuad q f).nodes = s.nodes := rfl
@[simp] theorem modQuad_pacer (q f) : (s.modQuad q f).pacer = s.pacer := rfl
@[simp] theorem modQuad_qcbs (q f) : (s.modQuad q f).qcbs = s.qcbs := rfl
@[simp] theorem modQuad_qcbsOut (q f) : (s.modQuad q f).qcbsOut = s.qcbsOut := rfl
@[simp] theorem modQuad_harts (q f) : (s.modQuad q f).harts = s.harts := rfl
@[simp] theorem modQuad_packets (q f) : (s.modQuad q f).packets = s.packets := rfl
@[simp] theorem modQuad_hubWaits (q f) : (s.modQuad q f).hubWaits = s.hubWaits := rfl
@[simp] theorem modQuad_funcs (q f) : (s.modQuad q f).funcs = s.funcs := rfl
@[simp] theorem modQuad_relParts (q f) : (s.modQuad q f).relParts = s.relParts := rfl
@[simp] theorem modQuad_rhctl (q f) : (s.modQuad q f).rhctl = s.rhctl := rfl
@[simp] theorem modQuad_frzlog (q f) : (s.modQuad q f).frzlog = s.frzlog := rfl
@[simp] theorem modQuad_frzWho (q f) : (s.modQuad q f).frzWho = s.frzWho := rfl
@[simp] theorem modQuad_ports (q f) : (s.modQuad q f).ports = s.ports := rfl
@[simp] theorem modQuad_switchesDown (q f) : (s.modQuad q f).switchesDown = s.switchesDown := rfl
@[simp] theorem modQuad_groupsDown (q f) : (s.modQuad q f).groupsDown = s.groupsDown := rfl
@[simp] theorem modQuad_namedFailures (q f) : (s.modQuad q f).namedFailures = s.namedFailures := rfl
@[simp] theorem modQuad_heardFrom (q f) : (s.modQuad q f).heardFrom = s.heardFrom := rfl
@[simp] theorem modQuad_badWords (q f) : (s.modQuad q f).badWords = s.badWords := rfl
@[simp] theorem modQuad_leftOut (q f) : (s.modQuad q f).leftOut = s.leftOut := rfl
@[simp] theorem modQuad_telemetry (q f) : (s.modQuad q f).telemetry = s.telemetry := rfl
@[simp] theorem modQuad_caps (q f) : (s.modQuad q f).caps = s.caps := rfl
@[simp] theorem modQuad_boot (q f) : (s.modQuad q f).boot = s.boot := rfl
@[simp] theorem modQuad_clk (q f) : (s.modQuad q f).clk = s.clk := rfl
@[simp] theorem modQuad_agenda (q f) : (s.modQuad q f).agenda = s.agenda := rfl
@[simp] theorem modQuad_cur (q f) : (s.modQuad q f).cur = s.cur := rfl
@[simp] theorem modQuad_runs (q f) : (s.modQuad q f).runs = s.runs := rfl
@[simp] theorem modQuad_issuedAt (q f) : (s.modQuad q f).issuedAt = s.issuedAt := rfl
@[simp] theorem modQuad_free (q f) : (s.modQuad q f).free = s.free := rfl
@[simp] theorem modQuad_ids (q f) : (s.modQuad q f).ids = s.ids := rfl
@[simp] theorem modQuad_sent (q f) : (s.modQuad q f).sent = s.sent := rfl

@[simp] theorem modStarter_wgs (q f) : (s.modStarter q f).wgs = s.wgs := rfl
@[simp] theorem modStarter_cores (q f) : (s.modStarter q f).cores = s.cores := rfl
@[simp] theorem modStarter_mem (q f) : (s.modStarter q f).mem = s.mem := rfl
@[simp] theorem modStarter_slices (q f) : (s.modStarter q f).slices = s.slices := rfl
@[simp] theorem modStarter_hbms (q f) : (s.modStarter q f).hbms = s.hbms := rfl
@[simp] theorem modStarter_ops (q f) : (s.modStarter q f).ops = s.ops := rfl
@[simp] theorem modStarter_walks (q f) : (s.modStarter q f).walks = s.walks := rfl
@[simp] theorem modStarter_walkCache (q f) : (s.modStarter q f).walkCache = s.walkCache := rfl
@[simp] theorem modStarter_pageReqs (q f) : (s.modStarter q f).pageReqs = s.pageReqs := rfl
@[simp] theorem modStarter_objs (q f) : (s.modStarter q f).objs = s.objs := rfl
@[simp] theorem modStarter_ordAccs (q f) : (s.modStarter q f).ordAccs = s.ordAccs := rfl
@[simp] theorem modStarter_contribs (q f) : (s.modStarter q f).contribs = s.contribs := rfl
@[simp] theorem modStarter_results (q f) : (s.modStarter q f).results = s.results := rfl
@[simp] theorem modStarter_joins (q f) : (s.modStarter q f).joins = s.joins := rfl
@[simp] theorem modStarter_waiters (q f) : (s.modStarter q f).waiters = s.waiters := rfl
@[simp] theorem modStarter_episodes (q f) : (s.modStarter q f).episodes = s.episodes := rfl
@[simp] theorem modStarter_words (q f) : (s.modStarter q f).words = s.words := rfl
@[simp] theorem modStarter_frozenChans (q f) : (s.modStarter q f).frozenChans = s.frozenChans := rfl
@[simp] theorem modStarter_flits (q f) : (s.modStarter q f).flits = s.flits := rfl
@[simp] theorem modStarter_parts (q f) : (s.modStarter q f).parts = s.parts := rfl
@[simp] theorem modStarter_batons (q f) : (s.modStarter q f).batons = s.batons := rfl
@[simp] theorem modStarter_grids (q f) : (s.modStarter q f).grids = s.grids := rfl
@[simp] theorem modStarter_nodes (q f) : (s.modStarter q f).nodes = s.nodes := rfl
@[simp] theorem modStarter_pacer (q f) : (s.modStarter q f).pacer = s.pacer := rfl
@[simp] theorem modStarter_qcbs (q f) : (s.modStarter q f).qcbs = s.qcbs := rfl
@[simp] theorem modStarter_qcbsOut (q f) : (s.modStarter q f).qcbsOut = s.qcbsOut := rfl
@[simp] theorem modStarter_harts (q f) : (s.modStarter q f).harts = s.harts := rfl
@[simp] theorem modStarter_packets (q f) : (s.modStarter q f).packets = s.packets := rfl
@[simp] theorem modStarter_hubWaits (q f) : (s.modStarter q f).hubWaits = s.hubWaits := rfl
@[simp] theorem modStarter_funcs (q f) : (s.modStarter q f).funcs = s.funcs := rfl
@[simp] theorem modStarter_relParts (q f) : (s.modStarter q f).relParts = s.relParts := rfl
@[simp] theorem modStarter_rhctl (q f) : (s.modStarter q f).rhctl = s.rhctl := rfl
@[simp] theorem modStarter_frzlog (q f) : (s.modStarter q f).frzlog = s.frzlog := rfl
@[simp] theorem modStarter_frzWho (q f) : (s.modStarter q f).frzWho = s.frzWho := rfl
@[simp] theorem modStarter_ports (q f) : (s.modStarter q f).ports = s.ports := rfl
@[simp] theorem modStarter_switchesDown (q f) : (s.modStarter q f).switchesDown = s.switchesDown := rfl
@[simp] theorem modStarter_groupsDown (q f) : (s.modStarter q f).groupsDown = s.groupsDown := rfl
@[simp] theorem modStarter_namedFailures (q f) : (s.modStarter q f).namedFailures = s.namedFailures := rfl
@[simp] theorem modStarter_heardFrom (q f) : (s.modStarter q f).heardFrom = s.heardFrom := rfl
@[simp] theorem modStarter_badWords (q f) : (s.modStarter q f).badWords = s.badWords := rfl
@[simp] theorem modStarter_leftOut (q f) : (s.modStarter q f).leftOut = s.leftOut := rfl
@[simp] theorem modStarter_telemetry (q f) : (s.modStarter q f).telemetry = s.telemetry := rfl
@[simp] theorem modStarter_caps (q f) : (s.modStarter q f).caps = s.caps := rfl
@[simp] theorem modStarter_boot (q f) : (s.modStarter q f).boot = s.boot := rfl
@[simp] theorem modStarter_clk (q f) : (s.modStarter q f).clk = s.clk := rfl
@[simp] theorem modStarter_agenda (q f) : (s.modStarter q f).agenda = s.agenda := rfl
@[simp] theorem modStarter_cur (q f) : (s.modStarter q f).cur = s.cur := rfl
@[simp] theorem modStarter_runs (q f) : (s.modStarter q f).runs = s.runs := rfl
@[simp] theorem modStarter_issuedAt (q f) : (s.modStarter q f).issuedAt = s.issuedAt := rfl
@[simp] theorem modStarter_free (q f) : (s.modStarter q f).free = s.free := rfl
@[simp] theorem modStarter_ids (q f) : (s.modStarter q f).ids = s.ids := rfl
@[simp] theorem modStarter_sent (q f) : (s.modStarter q f).sent = s.sent := rfl

@[simp] theorem modSlice_wgs (h f) : (s.modSlice h f).wgs = s.wgs := rfl
@[simp] theorem modSlice_cores (h f) : (s.modSlice h f).cores = s.cores := rfl
@[simp] theorem modSlice_quads (h f) : (s.modSlice h f).quads = s.quads := rfl
@[simp] theorem modSlice_mem (h f) : (s.modSlice h f).mem = s.mem := rfl
@[simp] theorem modSlice_slices (h f) : (s.modSlice h f).slices = kset s.slices h (f (s.slice h)) := rfl
@[simp] theorem modSlice_hbms (h f) : (s.modSlice h f).hbms = s.hbms := rfl
@[simp] theorem modSlice_ops (h f) : (s.modSlice h f).ops = s.ops := rfl
@[simp] theorem modSlice_walks (h f) : (s.modSlice h f).walks = s.walks := rfl
@[simp] theorem modSlice_walkCache (h f) : (s.modSlice h f).walkCache = s.walkCache := rfl
@[simp] theorem modSlice_pageReqs (h f) : (s.modSlice h f).pageReqs = s.pageReqs := rfl
@[simp] theorem modSlice_objs (h f) : (s.modSlice h f).objs = s.objs := rfl
@[simp] theorem modSlice_ordAccs (h f) : (s.modSlice h f).ordAccs = s.ordAccs := rfl
@[simp] theorem modSlice_contribs (h f) : (s.modSlice h f).contribs = s.contribs := rfl
@[simp] theorem modSlice_results (h f) : (s.modSlice h f).results = s.results := rfl
@[simp] theorem modSlice_joins (h f) : (s.modSlice h f).joins = s.joins := rfl
@[simp] theorem modSlice_waiters (h f) : (s.modSlice h f).waiters = s.waiters := rfl
@[simp] theorem modSlice_episodes (h f) : (s.modSlice h f).episodes = s.episodes := rfl
@[simp] theorem modSlice_words (h f) : (s.modSlice h f).words = s.words := rfl
@[simp] theorem modSlice_frozenChans (h f) : (s.modSlice h f).frozenChans = s.frozenChans := rfl
@[simp] theorem modSlice_flits (h f) : (s.modSlice h f).flits = s.flits := rfl
@[simp] theorem modSlice_parts (h f) : (s.modSlice h f).parts = s.parts := rfl
@[simp] theorem modSlice_batons (h f) : (s.modSlice h f).batons = s.batons := rfl
@[simp] theorem modSlice_grids (h f) : (s.modSlice h f).grids = s.grids := rfl
@[simp] theorem modSlice_nodes (h f) : (s.modSlice h f).nodes = s.nodes := rfl
@[simp] theorem modSlice_pacer (h f) : (s.modSlice h f).pacer = s.pacer := rfl
@[simp] theorem modSlice_qcbs (h f) : (s.modSlice h f).qcbs = s.qcbs := rfl
@[simp] theorem modSlice_qcbsOut (h f) : (s.modSlice h f).qcbsOut = s.qcbsOut := rfl
@[simp] theorem modSlice_harts (h f) : (s.modSlice h f).harts = s.harts := rfl
@[simp] theorem modSlice_packets (h f) : (s.modSlice h f).packets = s.packets := rfl
@[simp] theorem modSlice_hubWaits (h f) : (s.modSlice h f).hubWaits = s.hubWaits := rfl
@[simp] theorem modSlice_funcs (h f) : (s.modSlice h f).funcs = s.funcs := rfl
@[simp] theorem modSlice_relParts (h f) : (s.modSlice h f).relParts = s.relParts := rfl
@[simp] theorem modSlice_rhctl (h f) : (s.modSlice h f).rhctl = s.rhctl := rfl
@[simp] theorem modSlice_frzlog (h f) : (s.modSlice h f).frzlog = s.frzlog := rfl
@[simp] theorem modSlice_frzWho (h f) : (s.modSlice h f).frzWho = s.frzWho := rfl
@[simp] theorem modSlice_ports (h f) : (s.modSlice h f).ports = s.ports := rfl
@[simp] theorem modSlice_switchesDown (h f) : (s.modSlice h f).switchesDown = s.switchesDown := rfl
@[simp] theorem modSlice_groupsDown (h f) : (s.modSlice h f).groupsDown = s.groupsDown := rfl
@[simp] theorem modSlice_namedFailures (h f) : (s.modSlice h f).namedFailures = s.namedFailures := rfl
@[simp] theorem modSlice_heardFrom (h f) : (s.modSlice h f).heardFrom = s.heardFrom := rfl
@[simp] theorem modSlice_badWords (h f) : (s.modSlice h f).badWords = s.badWords := rfl
@[simp] theorem modSlice_leftOut (h f) : (s.modSlice h f).leftOut = s.leftOut := rfl
@[simp] theorem modSlice_telemetry (h f) : (s.modSlice h f).telemetry = s.telemetry := rfl
@[simp] theorem modSlice_caps (h f) : (s.modSlice h f).caps = s.caps := rfl
@[simp] theorem modSlice_boot (h f) : (s.modSlice h f).boot = s.boot := rfl
@[simp] theorem modSlice_clk (h f) : (s.modSlice h f).clk = s.clk := rfl
@[simp] theorem modSlice_agenda (h f) : (s.modSlice h f).agenda = s.agenda := rfl
@[simp] theorem modSlice_cur (h f) : (s.modSlice h f).cur = s.cur := rfl
@[simp] theorem modSlice_runs (h f) : (s.modSlice h f).runs = s.runs := rfl
@[simp] theorem modSlice_issuedAt (h f) : (s.modSlice h f).issuedAt = s.issuedAt := rfl
@[simp] theorem modSlice_free (h f) : (s.modSlice h f).free = s.free := rfl
@[simp] theorem modSlice_ids (h f) : (s.modSlice h f).ids = s.ids := rfl
@[simp] theorem modSlice_sent (h f) : (s.modSlice h f).sent = s.sent := rfl

@[simp] theorem modHbm_wgs (n f) : (s.modHbm n f).wgs = s.wgs := rfl
@[simp] theorem modHbm_cores (n f) : (s.modHbm n f).cores = s.cores := rfl
@[simp] theorem modHbm_quads (n f) : (s.modHbm n f).quads = s.quads := rfl
@[simp] theorem modHbm_mem (n f) : (s.modHbm n f).mem = s.mem := rfl
@[simp] theorem modHbm_slices (n f) : (s.modHbm n f).slices = s.slices := rfl
@[simp] theorem modHbm_hbms (n f) : (s.modHbm n f).hbms = kset s.hbms n (f (s.hbm n)) := rfl
@[simp] theorem modHbm_ops (n f) : (s.modHbm n f).ops = s.ops := rfl
@[simp] theorem modHbm_walks (n f) : (s.modHbm n f).walks = s.walks := rfl
@[simp] theorem modHbm_walkCache (n f) : (s.modHbm n f).walkCache = s.walkCache := rfl
@[simp] theorem modHbm_pageReqs (n f) : (s.modHbm n f).pageReqs = s.pageReqs := rfl
@[simp] theorem modHbm_objs (n f) : (s.modHbm n f).objs = s.objs := rfl
@[simp] theorem modHbm_ordAccs (n f) : (s.modHbm n f).ordAccs = s.ordAccs := rfl
@[simp] theorem modHbm_contribs (n f) : (s.modHbm n f).contribs = s.contribs := rfl
@[simp] theorem modHbm_results (n f) : (s.modHbm n f).results = s.results := rfl
@[simp] theorem modHbm_joins (n f) : (s.modHbm n f).joins = s.joins := rfl
@[simp] theorem modHbm_waiters (n f) : (s.modHbm n f).waiters = s.waiters := rfl
@[simp] theorem modHbm_episodes (n f) : (s.modHbm n f).episodes = s.episodes := rfl
@[simp] theorem modHbm_words (n f) : (s.modHbm n f).words = s.words := rfl
@[simp] theorem modHbm_frozenChans (n f) : (s.modHbm n f).frozenChans = s.frozenChans := rfl
@[simp] theorem modHbm_flits (n f) : (s.modHbm n f).flits = s.flits := rfl
@[simp] theorem modHbm_parts (n f) : (s.modHbm n f).parts = s.parts := rfl
@[simp] theorem modHbm_batons (n f) : (s.modHbm n f).batons = s.batons := rfl
@[simp] theorem modHbm_grids (n f) : (s.modHbm n f).grids = s.grids := rfl
@[simp] theorem modHbm_nodes (n f) : (s.modHbm n f).nodes = s.nodes := rfl
@[simp] theorem modHbm_pacer (n f) : (s.modHbm n f).pacer = s.pacer := rfl
@[simp] theorem modHbm_qcbs (n f) : (s.modHbm n f).qcbs = s.qcbs := rfl
@[simp] theorem modHbm_qcbsOut (n f) : (s.modHbm n f).qcbsOut = s.qcbsOut := rfl
@[simp] theorem modHbm_harts (n f) : (s.modHbm n f).harts = s.harts := rfl
@[simp] theorem modHbm_packets (n f) : (s.modHbm n f).packets = s.packets := rfl
@[simp] theorem modHbm_hubWaits (n f) : (s.modHbm n f).hubWaits = s.hubWaits := rfl
@[simp] theorem modHbm_funcs (n f) : (s.modHbm n f).funcs = s.funcs := rfl
@[simp] theorem modHbm_relParts (n f) : (s.modHbm n f).relParts = s.relParts := rfl
@[simp] theorem modHbm_rhctl (n f) : (s.modHbm n f).rhctl = s.rhctl := rfl
@[simp] theorem modHbm_frzlog (n f) : (s.modHbm n f).frzlog = s.frzlog := rfl
@[simp] theorem modHbm_frzWho (n f) : (s.modHbm n f).frzWho = s.frzWho := rfl
@[simp] theorem modHbm_ports (n f) : (s.modHbm n f).ports = s.ports := rfl
@[simp] theorem modHbm_switchesDown (n f) : (s.modHbm n f).switchesDown = s.switchesDown := rfl
@[simp] theorem modHbm_groupsDown (n f) : (s.modHbm n f).groupsDown = s.groupsDown := rfl
@[simp] theorem modHbm_namedFailures (n f) : (s.modHbm n f).namedFailures = s.namedFailures := rfl
@[simp] theorem modHbm_heardFrom (n f) : (s.modHbm n f).heardFrom = s.heardFrom := rfl
@[simp] theorem modHbm_badWords (n f) : (s.modHbm n f).badWords = s.badWords := rfl
@[simp] theorem modHbm_leftOut (n f) : (s.modHbm n f).leftOut = s.leftOut := rfl
@[simp] theorem modHbm_telemetry (n f) : (s.modHbm n f).telemetry = s.telemetry := rfl
@[simp] theorem modHbm_caps (n f) : (s.modHbm n f).caps = s.caps := rfl
@[simp] theorem modHbm_boot (n f) : (s.modHbm n f).boot = s.boot := rfl
@[simp] theorem modHbm_clk (n f) : (s.modHbm n f).clk = s.clk := rfl
@[simp] theorem modHbm_agenda (n f) : (s.modHbm n f).agenda = s.agenda := rfl
@[simp] theorem modHbm_cur (n f) : (s.modHbm n f).cur = s.cur := rfl
@[simp] theorem modHbm_runs (n f) : (s.modHbm n f).runs = s.runs := rfl
@[simp] theorem modHbm_issuedAt (n f) : (s.modHbm n f).issuedAt = s.issuedAt := rfl
@[simp] theorem modHbm_free (n f) : (s.modHbm n f).free = s.free := rfl
@[simp] theorem modHbm_ids (n f) : (s.modHbm n f).ids = s.ids := rfl
@[simp] theorem modHbm_sent (n f) : (s.modHbm n f).sent = s.sent := rfl

@[simp] theorem modFunc_wgs (n f) : (s.modFunc n f).wgs = s.wgs := rfl
@[simp] theorem modFunc_cores (n f) : (s.modFunc n f).cores = s.cores := rfl
@[simp] theorem modFunc_quads (n f) : (s.modFunc n f).quads = s.quads := rfl
@[simp] theorem modFunc_mem (n f) : (s.modFunc n f).mem = s.mem := rfl
@[simp] theorem modFunc_slices (n f) : (s.modFunc n f).slices = s.slices := rfl
@[simp] theorem modFunc_hbms (n f) : (s.modFunc n f).hbms = s.hbms := rfl
@[simp] theorem modFunc_ops (n f) : (s.modFunc n f).ops = s.ops := rfl
@[simp] theorem modFunc_walks (n f) : (s.modFunc n f).walks = s.walks := rfl
@[simp] theorem modFunc_walkCache (n f) : (s.modFunc n f).walkCache = s.walkCache := rfl
@[simp] theorem modFunc_pageReqs (n f) : (s.modFunc n f).pageReqs = s.pageReqs := rfl
@[simp] theorem modFunc_objs (n f) : (s.modFunc n f).objs = s.objs := rfl
@[simp] theorem modFunc_ordAccs (n f) : (s.modFunc n f).ordAccs = s.ordAccs := rfl
@[simp] theorem modFunc_contribs (n f) : (s.modFunc n f).contribs = s.contribs := rfl
@[simp] theorem modFunc_results (n f) : (s.modFunc n f).results = s.results := rfl
@[simp] theorem modFunc_joins (n f) : (s.modFunc n f).joins = s.joins := rfl
@[simp] theorem modFunc_waiters (n f) : (s.modFunc n f).waiters = s.waiters := rfl
@[simp] theorem modFunc_episodes (n f) : (s.modFunc n f).episodes = s.episodes := rfl
@[simp] theorem modFunc_words (n f) : (s.modFunc n f).words = s.words := rfl
@[simp] theorem modFunc_frozenChans (n f) : (s.modFunc n f).frozenChans = s.frozenChans := rfl
@[simp] theorem modFunc_flits (n f) : (s.modFunc n f).flits = s.flits := rfl
@[simp] theorem modFunc_parts (n f) : (s.modFunc n f).parts = s.parts := rfl
@[simp] theorem modFunc_batons (n f) : (s.modFunc n f).batons = s.batons := rfl
@[simp] theorem modFunc_grids (n f) : (s.modFunc n f).grids = s.grids := rfl
@[simp] theorem modFunc_nodes (n f) : (s.modFunc n f).nodes = s.nodes := rfl
@[simp] theorem modFunc_pacer (n f) : (s.modFunc n f).pacer = s.pacer := rfl
@[simp] theorem modFunc_qcbs (n f) : (s.modFunc n f).qcbs = s.qcbs := rfl
@[simp] theorem modFunc_qcbsOut (n f) : (s.modFunc n f).qcbsOut = s.qcbsOut := rfl
@[simp] theorem modFunc_harts (n f) : (s.modFunc n f).harts = s.harts := rfl
@[simp] theorem modFunc_packets (n f) : (s.modFunc n f).packets = s.packets := rfl
@[simp] theorem modFunc_hubWaits (n f) : (s.modFunc n f).hubWaits = s.hubWaits := rfl
@[simp] theorem modFunc_funcs (n f) : (s.modFunc n f).funcs = kset s.funcs n (f (s.func n)) := rfl
@[simp] theorem modFunc_relParts (n f) : (s.modFunc n f).relParts = s.relParts := rfl
@[simp] theorem modFunc_rhctl (n f) : (s.modFunc n f).rhctl = s.rhctl := rfl
@[simp] theorem modFunc_frzlog (n f) : (s.modFunc n f).frzlog = s.frzlog := rfl
@[simp] theorem modFunc_frzWho (n f) : (s.modFunc n f).frzWho = s.frzWho := rfl
@[simp] theorem modFunc_ports (n f) : (s.modFunc n f).ports = s.ports := rfl
@[simp] theorem modFunc_switchesDown (n f) : (s.modFunc n f).switchesDown = s.switchesDown := rfl
@[simp] theorem modFunc_groupsDown (n f) : (s.modFunc n f).groupsDown = s.groupsDown := rfl
@[simp] theorem modFunc_namedFailures (n f) : (s.modFunc n f).namedFailures = s.namedFailures := rfl
@[simp] theorem modFunc_heardFrom (n f) : (s.modFunc n f).heardFrom = s.heardFrom := rfl
@[simp] theorem modFunc_badWords (n f) : (s.modFunc n f).badWords = s.badWords := rfl
@[simp] theorem modFunc_leftOut (n f) : (s.modFunc n f).leftOut = s.leftOut := rfl
@[simp] theorem modFunc_telemetry (n f) : (s.modFunc n f).telemetry = s.telemetry := rfl
@[simp] theorem modFunc_caps (n f) : (s.modFunc n f).caps = s.caps := rfl
@[simp] theorem modFunc_boot (n f) : (s.modFunc n f).boot = s.boot := rfl
@[simp] theorem modFunc_clk (n f) : (s.modFunc n f).clk = s.clk := rfl
@[simp] theorem modFunc_agenda (n f) : (s.modFunc n f).agenda = s.agenda := rfl
@[simp] theorem modFunc_cur (n f) : (s.modFunc n f).cur = s.cur := rfl
@[simp] theorem modFunc_runs (n f) : (s.modFunc n f).runs = s.runs := rfl
@[simp] theorem modFunc_issuedAt (n f) : (s.modFunc n f).issuedAt = s.issuedAt := rfl
@[simp] theorem modFunc_free (n f) : (s.modFunc n f).free = s.free := rfl
@[simp] theorem modFunc_ids (n f) : (s.modFunc n f).ids = s.ids := rfl
@[simp] theorem modFunc_sent (n f) : (s.modFunc n f).sent = s.sent := rfl

@[simp] theorem modRel_wgs (p f) : (s.modRel p f).wgs = s.wgs := rfl
@[simp] theorem modRel_cores (p f) : (s.modRel p f).cores = s.cores := rfl
@[simp] theorem modRel_quads (p f) : (s.modRel p f).quads = s.quads := rfl
@[simp] theorem modRel_mem (p f) : (s.modRel p f).mem = s.mem := rfl
@[simp] theorem modRel_slices (p f) : (s.modRel p f).slices = s.slices := rfl
@[simp] theorem modRel_hbms (p f) : (s.modRel p f).hbms = s.hbms := rfl
@[simp] theorem modRel_ops (p f) : (s.modRel p f).ops = s.ops := rfl
@[simp] theorem modRel_walks (p f) : (s.modRel p f).walks = s.walks := rfl
@[simp] theorem modRel_walkCache (p f) : (s.modRel p f).walkCache = s.walkCache := rfl
@[simp] theorem modRel_pageReqs (p f) : (s.modRel p f).pageReqs = s.pageReqs := rfl
@[simp] theorem modRel_objs (p f) : (s.modRel p f).objs = s.objs := rfl
@[simp] theorem modRel_ordAccs (p f) : (s.modRel p f).ordAccs = s.ordAccs := rfl
@[simp] theorem modRel_contribs (p f) : (s.modRel p f).contribs = s.contribs := rfl
@[simp] theorem modRel_results (p f) : (s.modRel p f).results = s.results := rfl
@[simp] theorem modRel_joins (p f) : (s.modRel p f).joins = s.joins := rfl
@[simp] theorem modRel_waiters (p f) : (s.modRel p f).waiters = s.waiters := rfl
@[simp] theorem modRel_episodes (p f) : (s.modRel p f).episodes = s.episodes := rfl
@[simp] theorem modRel_words (p f) : (s.modRel p f).words = s.words := rfl
@[simp] theorem modRel_frozenChans (p f) : (s.modRel p f).frozenChans = s.frozenChans := rfl
@[simp] theorem modRel_flits (p f) : (s.modRel p f).flits = s.flits := rfl
@[simp] theorem modRel_parts (p f) : (s.modRel p f).parts = s.parts := rfl
@[simp] theorem modRel_batons (p f) : (s.modRel p f).batons = s.batons := rfl
@[simp] theorem modRel_grids (p f) : (s.modRel p f).grids = s.grids := rfl
@[simp] theorem modRel_nodes (p f) : (s.modRel p f).nodes = s.nodes := rfl
@[simp] theorem modRel_pacer (p f) : (s.modRel p f).pacer = s.pacer := rfl
@[simp] theorem modRel_qcbs (p f) : (s.modRel p f).qcbs = s.qcbs := rfl
@[simp] theorem modRel_qcbsOut (p f) : (s.modRel p f).qcbsOut = s.qcbsOut := rfl
@[simp] theorem modRel_harts (p f) : (s.modRel p f).harts = s.harts := rfl
@[simp] theorem modRel_packets (p f) : (s.modRel p f).packets = s.packets := rfl
@[simp] theorem modRel_hubWaits (p f) : (s.modRel p f).hubWaits = s.hubWaits := rfl
@[simp] theorem modRel_funcs (p f) : (s.modRel p f).funcs = s.funcs := rfl
@[simp] theorem modRel_relParts (p f) : (s.modRel p f).relParts = kset s.relParts p (f (s.relPart p)) := rfl
@[simp] theorem modRel_rhctl (p f) : (s.modRel p f).rhctl = s.rhctl := rfl
@[simp] theorem modRel_frzlog (p f) : (s.modRel p f).frzlog = s.frzlog := rfl
@[simp] theorem modRel_frzWho (p f) : (s.modRel p f).frzWho = s.frzWho := rfl
@[simp] theorem modRel_ports (p f) : (s.modRel p f).ports = s.ports := rfl
@[simp] theorem modRel_switchesDown (p f) : (s.modRel p f).switchesDown = s.switchesDown := rfl
@[simp] theorem modRel_groupsDown (p f) : (s.modRel p f).groupsDown = s.groupsDown := rfl
@[simp] theorem modRel_namedFailures (p f) : (s.modRel p f).namedFailures = s.namedFailures := rfl
@[simp] theorem modRel_heardFrom (p f) : (s.modRel p f).heardFrom = s.heardFrom := rfl
@[simp] theorem modRel_badWords (p f) : (s.modRel p f).badWords = s.badWords := rfl
@[simp] theorem modRel_leftOut (p f) : (s.modRel p f).leftOut = s.leftOut := rfl
@[simp] theorem modRel_telemetry (p f) : (s.modRel p f).telemetry = s.telemetry := rfl
@[simp] theorem modRel_caps (p f) : (s.modRel p f).caps = s.caps := rfl
@[simp] theorem modRel_boot (p f) : (s.modRel p f).boot = s.boot := rfl
@[simp] theorem modRel_clk (p f) : (s.modRel p f).clk = s.clk := rfl
@[simp] theorem modRel_agenda (p f) : (s.modRel p f).agenda = s.agenda := rfl
@[simp] theorem modRel_cur (p f) : (s.modRel p f).cur = s.cur := rfl
@[simp] theorem modRel_runs (p f) : (s.modRel p f).runs = s.runs := rfl
@[simp] theorem modRel_issuedAt (p f) : (s.modRel p f).issuedAt = s.issuedAt := rfl
@[simp] theorem modRel_free (p f) : (s.modRel p f).free = s.free := rfl
@[simp] theorem modRel_ids (p f) : (s.modRel p f).ids = s.ids := rfl
@[simp] theorem modRel_sent (p f) : (s.modRel p f).sent = s.sent := rfl

@[simp] theorem modWg_cores (n f) : (s.modWg n f).cores = s.cores := rfl
@[simp] theorem modWg_quads (n f) : (s.modWg n f).quads = s.quads := rfl
@[simp] theorem modWg_mem (n f) : (s.modWg n f).mem = s.mem := rfl
@[simp] theorem modWg_slices (n f) : (s.modWg n f).slices = s.slices := rfl
@[simp] theorem modWg_hbms (n f) : (s.modWg n f).hbms = s.hbms := rfl
@[simp] theorem modWg_ops (n f) : (s.modWg n f).ops = s.ops := rfl
@[simp] theorem modWg_walks (n f) : (s.modWg n f).walks = s.walks := rfl
@[simp] theorem modWg_walkCache (n f) : (s.modWg n f).walkCache = s.walkCache := rfl
@[simp] theorem modWg_pageReqs (n f) : (s.modWg n f).pageReqs = s.pageReqs := rfl
@[simp] theorem modWg_objs (n f) : (s.modWg n f).objs = s.objs := rfl
@[simp] theorem modWg_ordAccs (n f) : (s.modWg n f).ordAccs = s.ordAccs := rfl
@[simp] theorem modWg_contribs (n f) : (s.modWg n f).contribs = s.contribs := rfl
@[simp] theorem modWg_results (n f) : (s.modWg n f).results = s.results := rfl
@[simp] theorem modWg_joins (n f) : (s.modWg n f).joins = s.joins := rfl
@[simp] theorem modWg_waiters (n f) : (s.modWg n f).waiters = s.waiters := rfl
@[simp] theorem modWg_episodes (n f) : (s.modWg n f).episodes = s.episodes := rfl
@[simp] theorem modWg_words (n f) : (s.modWg n f).words = s.words := rfl
@[simp] theorem modWg_frozenChans (n f) : (s.modWg n f).frozenChans = s.frozenChans := rfl
@[simp] theorem modWg_flits (n f) : (s.modWg n f).flits = s.flits := rfl
@[simp] theorem modWg_parts (n f) : (s.modWg n f).parts = s.parts := rfl
@[simp] theorem modWg_batons (n f) : (s.modWg n f).batons = s.batons := rfl
@[simp] theorem modWg_grids (n f) : (s.modWg n f).grids = s.grids := rfl
@[simp] theorem modWg_nodes (n f) : (s.modWg n f).nodes = s.nodes := rfl
@[simp] theorem modWg_pacer (n f) : (s.modWg n f).pacer = s.pacer := rfl
@[simp] theorem modWg_qcbs (n f) : (s.modWg n f).qcbs = s.qcbs := rfl
@[simp] theorem modWg_qcbsOut (n f) : (s.modWg n f).qcbsOut = s.qcbsOut := rfl
@[simp] theorem modWg_harts (n f) : (s.modWg n f).harts = s.harts := rfl
@[simp] theorem modWg_packets (n f) : (s.modWg n f).packets = s.packets := rfl
@[simp] theorem modWg_hubWaits (n f) : (s.modWg n f).hubWaits = s.hubWaits := rfl
@[simp] theorem modWg_funcs (n f) : (s.modWg n f).funcs = s.funcs := rfl
@[simp] theorem modWg_relParts (n f) : (s.modWg n f).relParts = s.relParts := rfl
@[simp] theorem modWg_rhctl (n f) : (s.modWg n f).rhctl = s.rhctl := rfl
@[simp] theorem modWg_frzlog (n f) : (s.modWg n f).frzlog = s.frzlog := rfl
@[simp] theorem modWg_frzWho (n f) : (s.modWg n f).frzWho = s.frzWho := rfl
@[simp] theorem modWg_ports (n f) : (s.modWg n f).ports = s.ports := rfl
@[simp] theorem modWg_switchesDown (n f) : (s.modWg n f).switchesDown = s.switchesDown := rfl
@[simp] theorem modWg_groupsDown (n f) : (s.modWg n f).groupsDown = s.groupsDown := rfl
@[simp] theorem modWg_namedFailures (n f) : (s.modWg n f).namedFailures = s.namedFailures := rfl
@[simp] theorem modWg_heardFrom (n f) : (s.modWg n f).heardFrom = s.heardFrom := rfl
@[simp] theorem modWg_badWords (n f) : (s.modWg n f).badWords = s.badWords := rfl
@[simp] theorem modWg_leftOut (n f) : (s.modWg n f).leftOut = s.leftOut := rfl
@[simp] theorem modWg_telemetry (n f) : (s.modWg n f).telemetry = s.telemetry := rfl
@[simp] theorem modWg_caps (n f) : (s.modWg n f).caps = s.caps := rfl
@[simp] theorem modWg_boot (n f) : (s.modWg n f).boot = s.boot := rfl
@[simp] theorem modWg_clk (n f) : (s.modWg n f).clk = s.clk := rfl
@[simp] theorem modWg_agenda (n f) : (s.modWg n f).agenda = s.agenda := rfl
@[simp] theorem modWg_cur (n f) : (s.modWg n f).cur = s.cur := rfl
@[simp] theorem modWg_runs (n f) : (s.modWg n f).runs = s.runs := rfl
@[simp] theorem modWg_issuedAt (n f) : (s.modWg n f).issuedAt = s.issuedAt := rfl
@[simp] theorem modWg_free (n f) : (s.modWg n f).free = s.free := rfl
@[simp] theorem modWg_ids (n f) : (s.modWg n f).ids = s.ids := rfl
@[simp] theorem modWg_sent (n f) : (s.modWg n f).sent = s.sent := rfl

@[simp] theorem modOp_wgs (n f) : (s.modOp n f).wgs = s.wgs := rfl
@[simp] theorem modOp_cores (n f) : (s.modOp n f).cores = s.cores := rfl
@[simp] theorem modOp_quads (n f) : (s.modOp n f).quads = s.quads := rfl
@[simp] theorem modOp_mem (n f) : (s.modOp n f).mem = s.mem := rfl
@[simp] theorem modOp_slices (n f) : (s.modOp n f).slices = s.slices := rfl
@[simp] theorem modOp_hbms (n f) : (s.modOp n f).hbms = s.hbms := rfl
@[simp] theorem modOp_walks (n f) : (s.modOp n f).walks = s.walks := rfl
@[simp] theorem modOp_walkCache (n f) : (s.modOp n f).walkCache = s.walkCache := rfl
@[simp] theorem modOp_pageReqs (n f) : (s.modOp n f).pageReqs = s.pageReqs := rfl
@[simp] theorem modOp_objs (n f) : (s.modOp n f).objs = s.objs := rfl
@[simp] theorem modOp_ordAccs (n f) : (s.modOp n f).ordAccs = s.ordAccs := rfl
@[simp] theorem modOp_contribs (n f) : (s.modOp n f).contribs = s.contribs := rfl
@[simp] theorem modOp_results (n f) : (s.modOp n f).results = s.results := rfl
@[simp] theorem modOp_joins (n f) : (s.modOp n f).joins = s.joins := rfl
@[simp] theorem modOp_waiters (n f) : (s.modOp n f).waiters = s.waiters := rfl
@[simp] theorem modOp_episodes (n f) : (s.modOp n f).episodes = s.episodes := rfl
@[simp] theorem modOp_words (n f) : (s.modOp n f).words = s.words := rfl
@[simp] theorem modOp_frozenChans (n f) : (s.modOp n f).frozenChans = s.frozenChans := rfl
@[simp] theorem modOp_flits (n f) : (s.modOp n f).flits = s.flits := rfl
@[simp] theorem modOp_parts (n f) : (s.modOp n f).parts = s.parts := rfl
@[simp] theorem modOp_batons (n f) : (s.modOp n f).batons = s.batons := rfl
@[simp] theorem modOp_grids (n f) : (s.modOp n f).grids = s.grids := rfl
@[simp] theorem modOp_nodes (n f) : (s.modOp n f).nodes = s.nodes := rfl
@[simp] theorem modOp_pacer (n f) : (s.modOp n f).pacer = s.pacer := rfl
@[simp] theorem modOp_qcbs (n f) : (s.modOp n f).qcbs = s.qcbs := rfl
@[simp] theorem modOp_qcbsOut (n f) : (s.modOp n f).qcbsOut = s.qcbsOut := rfl
@[simp] theorem modOp_harts (n f) : (s.modOp n f).harts = s.harts := rfl
@[simp] theorem modOp_packets (n f) : (s.modOp n f).packets = s.packets := rfl
@[simp] theorem modOp_hubWaits (n f) : (s.modOp n f).hubWaits = s.hubWaits := rfl
@[simp] theorem modOp_funcs (n f) : (s.modOp n f).funcs = s.funcs := rfl
@[simp] theorem modOp_relParts (n f) : (s.modOp n f).relParts = s.relParts := rfl
@[simp] theorem modOp_rhctl (n f) : (s.modOp n f).rhctl = s.rhctl := rfl
@[simp] theorem modOp_frzlog (n f) : (s.modOp n f).frzlog = s.frzlog := rfl
@[simp] theorem modOp_frzWho (n f) : (s.modOp n f).frzWho = s.frzWho := rfl
@[simp] theorem modOp_ports (n f) : (s.modOp n f).ports = s.ports := rfl
@[simp] theorem modOp_switchesDown (n f) : (s.modOp n f).switchesDown = s.switchesDown := rfl
@[simp] theorem modOp_groupsDown (n f) : (s.modOp n f).groupsDown = s.groupsDown := rfl
@[simp] theorem modOp_namedFailures (n f) : (s.modOp n f).namedFailures = s.namedFailures := rfl
@[simp] theorem modOp_heardFrom (n f) : (s.modOp n f).heardFrom = s.heardFrom := rfl
@[simp] theorem modOp_badWords (n f) : (s.modOp n f).badWords = s.badWords := rfl
@[simp] theorem modOp_leftOut (n f) : (s.modOp n f).leftOut = s.leftOut := rfl
@[simp] theorem modOp_telemetry (n f) : (s.modOp n f).telemetry = s.telemetry := rfl
@[simp] theorem modOp_caps (n f) : (s.modOp n f).caps = s.caps := rfl
@[simp] theorem modOp_boot (n f) : (s.modOp n f).boot = s.boot := rfl
@[simp] theorem modOp_clk (n f) : (s.modOp n f).clk = s.clk := rfl
@[simp] theorem modOp_agenda (n f) : (s.modOp n f).agenda = s.agenda := rfl
@[simp] theorem modOp_cur (n f) : (s.modOp n f).cur = s.cur := rfl
@[simp] theorem modOp_runs (n f) : (s.modOp n f).runs = s.runs := rfl
@[simp] theorem modOp_issuedAt (n f) : (s.modOp n f).issuedAt = s.issuedAt := rfl
@[simp] theorem modOp_free (n f) : (s.modOp n f).free = s.free := rfl
@[simp] theorem modOp_ids (n f) : (s.modOp n f).ids = s.ids := rfl
@[simp] theorem modOp_sent (n f) : (s.modOp n f).sent = s.sent := rfl

@[simp] theorem dropOp_wgs (n) : (s.dropOp n).wgs = s.wgs := rfl
@[simp] theorem dropOp_cores (n) : (s.dropOp n).cores = s.cores := rfl
@[simp] theorem dropOp_quads (n) : (s.dropOp n).quads = s.quads := rfl
@[simp] theorem dropOp_mem (n) : (s.dropOp n).mem = s.mem := rfl
@[simp] theorem dropOp_slices (n) : (s.dropOp n).slices = s.slices := rfl
@[simp] theorem dropOp_hbms (n) : (s.dropOp n).hbms = s.hbms := rfl
@[simp] theorem dropOp_walks (n) : (s.dropOp n).walks = s.walks := rfl
@[simp] theorem dropOp_walkCache (n) : (s.dropOp n).walkCache = s.walkCache := rfl
@[simp] theorem dropOp_pageReqs (n) : (s.dropOp n).pageReqs = s.pageReqs := rfl
@[simp] theorem dropOp_objs (n) : (s.dropOp n).objs = s.objs := rfl
@[simp] theorem dropOp_ordAccs (n) : (s.dropOp n).ordAccs = s.ordAccs := rfl
@[simp] theorem dropOp_contribs (n) : (s.dropOp n).contribs = s.contribs := rfl
@[simp] theorem dropOp_results (n) : (s.dropOp n).results = s.results := rfl
@[simp] theorem dropOp_joins (n) : (s.dropOp n).joins = s.joins := rfl
@[simp] theorem dropOp_waiters (n) : (s.dropOp n).waiters = s.waiters := rfl
@[simp] theorem dropOp_episodes (n) : (s.dropOp n).episodes = s.episodes := rfl
@[simp] theorem dropOp_words (n) : (s.dropOp n).words = s.words := rfl
@[simp] theorem dropOp_frozenChans (n) : (s.dropOp n).frozenChans = s.frozenChans := rfl
@[simp] theorem dropOp_flits (n) : (s.dropOp n).flits = s.flits := rfl
@[simp] theorem dropOp_parts (n) : (s.dropOp n).parts = s.parts := rfl
@[simp] theorem dropOp_batons (n) : (s.dropOp n).batons = s.batons := rfl
@[simp] theorem dropOp_grids (n) : (s.dropOp n).grids = s.grids := rfl
@[simp] theorem dropOp_nodes (n) : (s.dropOp n).nodes = s.nodes := rfl
@[simp] theorem dropOp_pacer (n) : (s.dropOp n).pacer = s.pacer := rfl
@[simp] theorem dropOp_qcbs (n) : (s.dropOp n).qcbs = s.qcbs := rfl
@[simp] theorem dropOp_qcbsOut (n) : (s.dropOp n).qcbsOut = s.qcbsOut := rfl
@[simp] theorem dropOp_harts (n) : (s.dropOp n).harts = s.harts := rfl
@[simp] theorem dropOp_packets (n) : (s.dropOp n).packets = s.packets := rfl
@[simp] theorem dropOp_hubWaits (n) : (s.dropOp n).hubWaits = s.hubWaits := rfl
@[simp] theorem dropOp_funcs (n) : (s.dropOp n).funcs = s.funcs := rfl
@[simp] theorem dropOp_relParts (n) : (s.dropOp n).relParts = s.relParts := rfl
@[simp] theorem dropOp_rhctl (n) : (s.dropOp n).rhctl = s.rhctl := rfl
@[simp] theorem dropOp_frzlog (n) : (s.dropOp n).frzlog = s.frzlog := rfl
@[simp] theorem dropOp_frzWho (n) : (s.dropOp n).frzWho = s.frzWho := rfl
@[simp] theorem dropOp_ports (n) : (s.dropOp n).ports = s.ports := rfl
@[simp] theorem dropOp_switchesDown (n) : (s.dropOp n).switchesDown = s.switchesDown := rfl
@[simp] theorem dropOp_groupsDown (n) : (s.dropOp n).groupsDown = s.groupsDown := rfl
@[simp] theorem dropOp_namedFailures (n) : (s.dropOp n).namedFailures = s.namedFailures := rfl
@[simp] theorem dropOp_heardFrom (n) : (s.dropOp n).heardFrom = s.heardFrom := rfl
@[simp] theorem dropOp_badWords (n) : (s.dropOp n).badWords = s.badWords := rfl
@[simp] theorem dropOp_leftOut (n) : (s.dropOp n).leftOut = s.leftOut := rfl
@[simp] theorem dropOp_telemetry (n) : (s.dropOp n).telemetry = s.telemetry := rfl
@[simp] theorem dropOp_caps (n) : (s.dropOp n).caps = s.caps := rfl
@[simp] theorem dropOp_boot (n) : (s.dropOp n).boot = s.boot := rfl
@[simp] theorem dropOp_clk (n) : (s.dropOp n).clk = s.clk := rfl
@[simp] theorem dropOp_agenda (n) : (s.dropOp n).agenda = s.agenda := rfl
@[simp] theorem dropOp_cur (n) : (s.dropOp n).cur = s.cur := rfl
@[simp] theorem dropOp_runs (n) : (s.dropOp n).runs = s.runs := rfl
@[simp] theorem dropOp_issuedAt (n) : (s.dropOp n).issuedAt = s.issuedAt := rfl
@[simp] theorem dropOp_free (n) : (s.dropOp n).free = s.free := rfl
@[simp] theorem dropOp_ids (n) : (s.dropOp n).ids = s.ids := rfl
@[simp] theorem dropOp_sent (n) : (s.dropOp n).sent = s.sent := rfl

@[simp] theorem modPart_wgs (p f) : (s.modPart p f).wgs = s.wgs := rfl
@[simp] theorem modPart_cores (p f) : (s.modPart p f).cores = s.cores := rfl
@[simp] theorem modPart_quads (p f) : (s.modPart p f).quads = s.quads := rfl
@[simp] theorem modPart_mem (p f) : (s.modPart p f).mem = s.mem := rfl
@[simp] theorem modPart_slices (p f) : (s.modPart p f).slices = s.slices := rfl
@[simp] theorem modPart_hbms (p f) : (s.modPart p f).hbms = s.hbms := rfl
@[simp] theorem modPart_ops (p f) : (s.modPart p f).ops = s.ops := rfl
@[simp] theorem modPart_walks (p f) : (s.modPart p f).walks = s.walks := rfl
@[simp] theorem modPart_walkCache (p f) : (s.modPart p f).walkCache = s.walkCache := rfl
@[simp] theorem modPart_pageReqs (p f) : (s.modPart p f).pageReqs = s.pageReqs := rfl
@[simp] theorem modPart_objs (p f) : (s.modPart p f).objs = s.objs := rfl
@[simp] theorem modPart_ordAccs (p f) : (s.modPart p f).ordAccs = s.ordAccs := rfl
@[simp] theorem modPart_contribs (p f) : (s.modPart p f).contribs = s.contribs := rfl
@[simp] theorem modPart_results (p f) : (s.modPart p f).results = s.results := rfl
@[simp] theorem modPart_joins (p f) : (s.modPart p f).joins = s.joins := rfl
@[simp] theorem modPart_waiters (p f) : (s.modPart p f).waiters = s.waiters := rfl
@[simp] theorem modPart_episodes (p f) : (s.modPart p f).episodes = s.episodes := rfl
@[simp] theorem modPart_words (p f) : (s.modPart p f).words = s.words := rfl
@[simp] theorem modPart_frozenChans (p f) : (s.modPart p f).frozenChans = s.frozenChans := rfl
@[simp] theorem modPart_flits (p f) : (s.modPart p f).flits = s.flits := rfl
@[simp] theorem modPart_batons (p f) : (s.modPart p f).batons = s.batons := rfl
@[simp] theorem modPart_grids (p f) : (s.modPart p f).grids = s.grids := rfl
@[simp] theorem modPart_nodes (p f) : (s.modPart p f).nodes = s.nodes := rfl
@[simp] theorem modPart_pacer (p f) : (s.modPart p f).pacer = s.pacer := rfl
@[simp] theorem modPart_qcbs (p f) : (s.modPart p f).qcbs = s.qcbs := rfl
@[simp] theorem modPart_qcbsOut (p f) : (s.modPart p f).qcbsOut = s.qcbsOut := rfl
@[simp] theorem modPart_harts (p f) : (s.modPart p f).harts = s.harts := rfl
@[simp] theorem modPart_packets (p f) : (s.modPart p f).packets = s.packets := rfl
@[simp] theorem modPart_hubWaits (p f) : (s.modPart p f).hubWaits = s.hubWaits := rfl
@[simp] theorem modPart_funcs (p f) : (s.modPart p f).funcs = s.funcs := rfl
@[simp] theorem modPart_relParts (p f) : (s.modPart p f).relParts = s.relParts := rfl
@[simp] theorem modPart_rhctl (p f) : (s.modPart p f).rhctl = s.rhctl := rfl
@[simp] theorem modPart_frzlog (p f) : (s.modPart p f).frzlog = s.frzlog := rfl
@[simp] theorem modPart_frzWho (p f) : (s.modPart p f).frzWho = s.frzWho := rfl
@[simp] theorem modPart_ports (p f) : (s.modPart p f).ports = s.ports := rfl
@[simp] theorem modPart_switchesDown (p f) : (s.modPart p f).switchesDown = s.switchesDown := rfl
@[simp] theorem modPart_groupsDown (p f) : (s.modPart p f).groupsDown = s.groupsDown := rfl
@[simp] theorem modPart_namedFailures (p f) : (s.modPart p f).namedFailures = s.namedFailures := rfl
@[simp] theorem modPart_heardFrom (p f) : (s.modPart p f).heardFrom = s.heardFrom := rfl
@[simp] theorem modPart_badWords (p f) : (s.modPart p f).badWords = s.badWords := rfl
@[simp] theorem modPart_leftOut (p f) : (s.modPart p f).leftOut = s.leftOut := rfl
@[simp] theorem modPart_telemetry (p f) : (s.modPart p f).telemetry = s.telemetry := rfl
@[simp] theorem modPart_caps (p f) : (s.modPart p f).caps = s.caps := rfl
@[simp] theorem modPart_boot (p f) : (s.modPart p f).boot = s.boot := rfl
@[simp] theorem modPart_clk (p f) : (s.modPart p f).clk = s.clk := rfl
@[simp] theorem modPart_agenda (p f) : (s.modPart p f).agenda = s.agenda := rfl
@[simp] theorem modPart_cur (p f) : (s.modPart p f).cur = s.cur := rfl
@[simp] theorem modPart_runs (p f) : (s.modPart p f).runs = s.runs := rfl
@[simp] theorem modPart_issuedAt (p f) : (s.modPart p f).issuedAt = s.issuedAt := rfl
@[simp] theorem modPart_free (p f) : (s.modPart p f).free = s.free := rfl
@[simp] theorem modPart_ids (p f) : (s.modPart p f).ids = s.ids := rfl
@[simp] theorem modPart_sent (p f) : (s.modPart p f).sent = s.sent := rfl

@[simp] theorem modGrid_wgs (n f) : (s.modGrid n f).wgs = s.wgs := rfl
@[simp] theorem modGrid_cores (n f) : (s.modGrid n f).cores = s.cores := rfl
@[simp] theorem modGrid_quads (n f) : (s.modGrid n f).quads = s.quads := rfl
@[simp] theorem modGrid_mem (n f) : (s.modGrid n f).mem = s.mem := rfl
@[simp] theorem modGrid_slices (n f) : (s.modGrid n f).slices = s.slices := rfl
@[simp] theorem modGrid_hbms (n f) : (s.modGrid n f).hbms = s.hbms := rfl
@[simp] theorem modGrid_ops (n f) : (s.modGrid n f).ops = s.ops := rfl
@[simp] theorem modGrid_walks (n f) : (s.modGrid n f).walks = s.walks := rfl
@[simp] theorem modGrid_walkCache (n f) : (s.modGrid n f).walkCache = s.walkCache := rfl
@[simp] theorem modGrid_pageReqs (n f) : (s.modGrid n f).pageReqs = s.pageReqs := rfl
@[simp] theorem modGrid_objs (n f) : (s.modGrid n f).objs = s.objs := rfl
@[simp] theorem modGrid_ordAccs (n f) : (s.modGrid n f).ordAccs = s.ordAccs := rfl
@[simp] theorem modGrid_contribs (n f) : (s.modGrid n f).contribs = s.contribs := rfl
@[simp] theorem modGrid_results (n f) : (s.modGrid n f).results = s.results := rfl
@[simp] theorem modGrid_joins (n f) : (s.modGrid n f).joins = s.joins := rfl
@[simp] theorem modGrid_waiters (n f) : (s.modGrid n f).waiters = s.waiters := rfl
@[simp] theorem modGrid_episodes (n f) : (s.modGrid n f).episodes = s.episodes := rfl
@[simp] theorem modGrid_words (n f) : (s.modGrid n f).words = s.words := rfl
@[simp] theorem modGrid_frozenChans (n f) : (s.modGrid n f).frozenChans = s.frozenChans := rfl
@[simp] theorem modGrid_flits (n f) : (s.modGrid n f).flits = s.flits := rfl
@[simp] theorem modGrid_parts (n f) : (s.modGrid n f).parts = s.parts := rfl
@[simp] theorem modGrid_batons (n f) : (s.modGrid n f).batons = s.batons := rfl
@[simp] theorem modGrid_nodes (n f) : (s.modGrid n f).nodes = s.nodes := rfl
@[simp] theorem modGrid_pacer (n f) : (s.modGrid n f).pacer = s.pacer := rfl
@[simp] theorem modGrid_qcbs (n f) : (s.modGrid n f).qcbs = s.qcbs := rfl
@[simp] theorem modGrid_qcbsOut (n f) : (s.modGrid n f).qcbsOut = s.qcbsOut := rfl
@[simp] theorem modGrid_harts (n f) : (s.modGrid n f).harts = s.harts := rfl
@[simp] theorem modGrid_packets (n f) : (s.modGrid n f).packets = s.packets := rfl
@[simp] theorem modGrid_hubWaits (n f) : (s.modGrid n f).hubWaits = s.hubWaits := rfl
@[simp] theorem modGrid_funcs (n f) : (s.modGrid n f).funcs = s.funcs := rfl
@[simp] theorem modGrid_relParts (n f) : (s.modGrid n f).relParts = s.relParts := rfl
@[simp] theorem modGrid_rhctl (n f) : (s.modGrid n f).rhctl = s.rhctl := rfl
@[simp] theorem modGrid_frzlog (n f) : (s.modGrid n f).frzlog = s.frzlog := rfl
@[simp] theorem modGrid_frzWho (n f) : (s.modGrid n f).frzWho = s.frzWho := rfl
@[simp] theorem modGrid_ports (n f) : (s.modGrid n f).ports = s.ports := rfl
@[simp] theorem modGrid_switchesDown (n f) : (s.modGrid n f).switchesDown = s.switchesDown := rfl
@[simp] theorem modGrid_groupsDown (n f) : (s.modGrid n f).groupsDown = s.groupsDown := rfl
@[simp] theorem modGrid_namedFailures (n f) : (s.modGrid n f).namedFailures = s.namedFailures := rfl
@[simp] theorem modGrid_heardFrom (n f) : (s.modGrid n f).heardFrom = s.heardFrom := rfl
@[simp] theorem modGrid_badWords (n f) : (s.modGrid n f).badWords = s.badWords := rfl
@[simp] theorem modGrid_leftOut (n f) : (s.modGrid n f).leftOut = s.leftOut := rfl
@[simp] theorem modGrid_telemetry (n f) : (s.modGrid n f).telemetry = s.telemetry := rfl
@[simp] theorem modGrid_caps (n f) : (s.modGrid n f).caps = s.caps := rfl
@[simp] theorem modGrid_boot (n f) : (s.modGrid n f).boot = s.boot := rfl
@[simp] theorem modGrid_clk (n f) : (s.modGrid n f).clk = s.clk := rfl
@[simp] theorem modGrid_agenda (n f) : (s.modGrid n f).agenda = s.agenda := rfl
@[simp] theorem modGrid_cur (n f) : (s.modGrid n f).cur = s.cur := rfl
@[simp] theorem modGrid_runs (n f) : (s.modGrid n f).runs = s.runs := rfl
@[simp] theorem modGrid_issuedAt (n f) : (s.modGrid n f).issuedAt = s.issuedAt := rfl
@[simp] theorem modGrid_free (n f) : (s.modGrid n f).free = s.free := rfl
@[simp] theorem modGrid_ids (n f) : (s.modGrid n f).ids = s.ids := rfl
@[simp] theorem modGrid_sent (n f) : (s.modGrid n f).sent = s.sent := rfl

@[simp] theorem modBaton_wgs (n f) : (s.modBaton n f).wgs = s.wgs := rfl
@[simp] theorem modBaton_cores (n f) : (s.modBaton n f).cores = s.cores := rfl
@[simp] theorem modBaton_quads (n f) : (s.modBaton n f).quads = s.quads := rfl
@[simp] theorem modBaton_mem (n f) : (s.modBaton n f).mem = s.mem := rfl
@[simp] theorem modBaton_slices (n f) : (s.modBaton n f).slices = s.slices := rfl
@[simp] theorem modBaton_hbms (n f) : (s.modBaton n f).hbms = s.hbms := rfl
@[simp] theorem modBaton_ops (n f) : (s.modBaton n f).ops = s.ops := rfl
@[simp] theorem modBaton_walks (n f) : (s.modBaton n f).walks = s.walks := rfl
@[simp] theorem modBaton_walkCache (n f) : (s.modBaton n f).walkCache = s.walkCache := rfl
@[simp] theorem modBaton_pageReqs (n f) : (s.modBaton n f).pageReqs = s.pageReqs := rfl
@[simp] theorem modBaton_objs (n f) : (s.modBaton n f).objs = s.objs := rfl
@[simp] theorem modBaton_ordAccs (n f) : (s.modBaton n f).ordAccs = s.ordAccs := rfl
@[simp] theorem modBaton_contribs (n f) : (s.modBaton n f).contribs = s.contribs := rfl
@[simp] theorem modBaton_results (n f) : (s.modBaton n f).results = s.results := rfl
@[simp] theorem modBaton_joins (n f) : (s.modBaton n f).joins = s.joins := rfl
@[simp] theorem modBaton_waiters (n f) : (s.modBaton n f).waiters = s.waiters := rfl
@[simp] theorem modBaton_episodes (n f) : (s.modBaton n f).episodes = s.episodes := rfl
@[simp] theorem modBaton_words (n f) : (s.modBaton n f).words = s.words := rfl
@[simp] theorem modBaton_frozenChans (n f) : (s.modBaton n f).frozenChans = s.frozenChans := rfl
@[simp] theorem modBaton_flits (n f) : (s.modBaton n f).flits = s.flits := rfl
@[simp] theorem modBaton_parts (n f) : (s.modBaton n f).parts = s.parts := rfl
@[simp] theorem modBaton_grids (n f) : (s.modBaton n f).grids = s.grids := rfl
@[simp] theorem modBaton_nodes (n f) : (s.modBaton n f).nodes = s.nodes := rfl
@[simp] theorem modBaton_pacer (n f) : (s.modBaton n f).pacer = s.pacer := rfl
@[simp] theorem modBaton_qcbs (n f) : (s.modBaton n f).qcbs = s.qcbs := rfl
@[simp] theorem modBaton_qcbsOut (n f) : (s.modBaton n f).qcbsOut = s.qcbsOut := rfl
@[simp] theorem modBaton_harts (n f) : (s.modBaton n f).harts = s.harts := rfl
@[simp] theorem modBaton_packets (n f) : (s.modBaton n f).packets = s.packets := rfl
@[simp] theorem modBaton_hubWaits (n f) : (s.modBaton n f).hubWaits = s.hubWaits := rfl
@[simp] theorem modBaton_funcs (n f) : (s.modBaton n f).funcs = s.funcs := rfl
@[simp] theorem modBaton_relParts (n f) : (s.modBaton n f).relParts = s.relParts := rfl
@[simp] theorem modBaton_rhctl (n f) : (s.modBaton n f).rhctl = s.rhctl := rfl
@[simp] theorem modBaton_frzlog (n f) : (s.modBaton n f).frzlog = s.frzlog := rfl
@[simp] theorem modBaton_frzWho (n f) : (s.modBaton n f).frzWho = s.frzWho := rfl
@[simp] theorem modBaton_ports (n f) : (s.modBaton n f).ports = s.ports := rfl
@[simp] theorem modBaton_switchesDown (n f) : (s.modBaton n f).switchesDown = s.switchesDown := rfl
@[simp] theorem modBaton_groupsDown (n f) : (s.modBaton n f).groupsDown = s.groupsDown := rfl
@[simp] theorem modBaton_namedFailures (n f) : (s.modBaton n f).namedFailures = s.namedFailures := rfl
@[simp] theorem modBaton_heardFrom (n f) : (s.modBaton n f).heardFrom = s.heardFrom := rfl
@[simp] theorem modBaton_badWords (n f) : (s.modBaton n f).badWords = s.badWords := rfl
@[simp] theorem modBaton_leftOut (n f) : (s.modBaton n f).leftOut = s.leftOut := rfl
@[simp] theorem modBaton_telemetry (n f) : (s.modBaton n f).telemetry = s.telemetry := rfl
@[simp] theorem modBaton_caps (n f) : (s.modBaton n f).caps = s.caps := rfl
@[simp] theorem modBaton_boot (n f) : (s.modBaton n f).boot = s.boot := rfl
@[simp] theorem modBaton_clk (n f) : (s.modBaton n f).clk = s.clk := rfl
@[simp] theorem modBaton_agenda (n f) : (s.modBaton n f).agenda = s.agenda := rfl
@[simp] theorem modBaton_cur (n f) : (s.modBaton n f).cur = s.cur := rfl
@[simp] theorem modBaton_runs (n f) : (s.modBaton n f).runs = s.runs := rfl
@[simp] theorem modBaton_issuedAt (n f) : (s.modBaton n f).issuedAt = s.issuedAt := rfl
@[simp] theorem modBaton_free (n f) : (s.modBaton n f).free = s.free := rfl
@[simp] theorem modBaton_ids (n f) : (s.modBaton n f).ids = s.ids := rfl
@[simp] theorem modBaton_sent (n f) : (s.modBaton n f).sent = s.sent := rfl

@[simp] theorem modNode_wgs (p n f) : (s.modNode p n f).wgs = s.wgs := rfl
@[simp] theorem modNode_cores (p n f) : (s.modNode p n f).cores = s.cores := rfl
@[simp] theorem modNode_quads (p n f) : (s.modNode p n f).quads = s.quads := rfl
@[simp] theorem modNode_mem (p n f) : (s.modNode p n f).mem = s.mem := rfl
@[simp] theorem modNode_slices (p n f) : (s.modNode p n f).slices = s.slices := rfl
@[simp] theorem modNode_hbms (p n f) : (s.modNode p n f).hbms = s.hbms := rfl
@[simp] theorem modNode_ops (p n f) : (s.modNode p n f).ops = s.ops := rfl
@[simp] theorem modNode_walks (p n f) : (s.modNode p n f).walks = s.walks := rfl
@[simp] theorem modNode_walkCache (p n f) : (s.modNode p n f).walkCache = s.walkCache := rfl
@[simp] theorem modNode_pageReqs (p n f) : (s.modNode p n f).pageReqs = s.pageReqs := rfl
@[simp] theorem modNode_objs (p n f) : (s.modNode p n f).objs = s.objs := rfl
@[simp] theorem modNode_ordAccs (p n f) : (s.modNode p n f).ordAccs = s.ordAccs := rfl
@[simp] theorem modNode_contribs (p n f) : (s.modNode p n f).contribs = s.contribs := rfl
@[simp] theorem modNode_results (p n f) : (s.modNode p n f).results = s.results := rfl
@[simp] theorem modNode_joins (p n f) : (s.modNode p n f).joins = s.joins := rfl
@[simp] theorem modNode_waiters (p n f) : (s.modNode p n f).waiters = s.waiters := rfl
@[simp] theorem modNode_episodes (p n f) : (s.modNode p n f).episodes = s.episodes := rfl
@[simp] theorem modNode_words (p n f) : (s.modNode p n f).words = s.words := rfl
@[simp] theorem modNode_frozenChans (p n f) : (s.modNode p n f).frozenChans = s.frozenChans := rfl
@[simp] theorem modNode_flits (p n f) : (s.modNode p n f).flits = s.flits := rfl
@[simp] theorem modNode_parts (p n f) : (s.modNode p n f).parts = s.parts := rfl
@[simp] theorem modNode_batons (p n f) : (s.modNode p n f).batons = s.batons := rfl
@[simp] theorem modNode_grids (p n f) : (s.modNode p n f).grids = s.grids := rfl
@[simp] theorem modNode_pacer (p n f) : (s.modNode p n f).pacer = s.pacer := rfl
@[simp] theorem modNode_qcbs (p n f) : (s.modNode p n f).qcbs = s.qcbs := rfl
@[simp] theorem modNode_qcbsOut (p n f) : (s.modNode p n f).qcbsOut = s.qcbsOut := rfl
@[simp] theorem modNode_harts (p n f) : (s.modNode p n f).harts = s.harts := rfl
@[simp] theorem modNode_packets (p n f) : (s.modNode p n f).packets = s.packets := rfl
@[simp] theorem modNode_hubWaits (p n f) : (s.modNode p n f).hubWaits = s.hubWaits := rfl
@[simp] theorem modNode_funcs (p n f) : (s.modNode p n f).funcs = s.funcs := rfl
@[simp] theorem modNode_relParts (p n f) : (s.modNode p n f).relParts = s.relParts := rfl
@[simp] theorem modNode_rhctl (p n f) : (s.modNode p n f).rhctl = s.rhctl := rfl
@[simp] theorem modNode_frzlog (p n f) : (s.modNode p n f).frzlog = s.frzlog := rfl
@[simp] theorem modNode_frzWho (p n f) : (s.modNode p n f).frzWho = s.frzWho := rfl
@[simp] theorem modNode_ports (p n f) : (s.modNode p n f).ports = s.ports := rfl
@[simp] theorem modNode_switchesDown (p n f) : (s.modNode p n f).switchesDown = s.switchesDown := rfl
@[simp] theorem modNode_groupsDown (p n f) : (s.modNode p n f).groupsDown = s.groupsDown := rfl
@[simp] theorem modNode_namedFailures (p n f) : (s.modNode p n f).namedFailures = s.namedFailures := rfl
@[simp] theorem modNode_heardFrom (p n f) : (s.modNode p n f).heardFrom = s.heardFrom := rfl
@[simp] theorem modNode_badWords (p n f) : (s.modNode p n f).badWords = s.badWords := rfl
@[simp] theorem modNode_leftOut (p n f) : (s.modNode p n f).leftOut = s.leftOut := rfl
@[simp] theorem modNode_telemetry (p n f) : (s.modNode p n f).telemetry = s.telemetry := rfl
@[simp] theorem modNode_caps (p n f) : (s.modNode p n f).caps = s.caps := rfl
@[simp] theorem modNode_boot (p n f) : (s.modNode p n f).boot = s.boot := rfl
@[simp] theorem modNode_clk (p n f) : (s.modNode p n f).clk = s.clk := rfl
@[simp] theorem modNode_agenda (p n f) : (s.modNode p n f).agenda = s.agenda := rfl
@[simp] theorem modNode_cur (p n f) : (s.modNode p n f).cur = s.cur := rfl
@[simp] theorem modNode_runs (p n f) : (s.modNode p n f).runs = s.runs := rfl
@[simp] theorem modNode_issuedAt (p n f) : (s.modNode p n f).issuedAt = s.issuedAt := rfl
@[simp] theorem modNode_free (p n f) : (s.modNode p n f).free = s.free := rfl
@[simp] theorem modNode_ids (p n f) : (s.modNode p n f).ids = s.ids := rfl
@[simp] theorem modNode_sent (p n f) : (s.modNode p n f).sent = s.sent := rfl

@[simp] theorem modWord_wgs (n f) : (s.modWord n f).wgs = s.wgs := rfl
@[simp] theorem modWord_cores (n f) : (s.modWord n f).cores = s.cores := rfl
@[simp] theorem modWord_quads (n f) : (s.modWord n f).quads = s.quads := rfl
@[simp] theorem modWord_mem (n f) : (s.modWord n f).mem = s.mem := rfl
@[simp] theorem modWord_slices (n f) : (s.modWord n f).slices = s.slices := rfl
@[simp] theorem modWord_hbms (n f) : (s.modWord n f).hbms = s.hbms := rfl
@[simp] theorem modWord_ops (n f) : (s.modWord n f).ops = s.ops := rfl
@[simp] theorem modWord_walks (n f) : (s.modWord n f).walks = s.walks := rfl
@[simp] theorem modWord_walkCache (n f) : (s.modWord n f).walkCache = s.walkCache := rfl
@[simp] theorem modWord_pageReqs (n f) : (s.modWord n f).pageReqs = s.pageReqs := rfl
@[simp] theorem modWord_objs (n f) : (s.modWord n f).objs = s.objs := rfl
@[simp] theorem modWord_ordAccs (n f) : (s.modWord n f).ordAccs = s.ordAccs := rfl
@[simp] theorem modWord_contribs (n f) : (s.modWord n f).contribs = s.contribs := rfl
@[simp] theorem modWord_results (n f) : (s.modWord n f).results = s.results := rfl
@[simp] theorem modWord_joins (n f) : (s.modWord n f).joins = s.joins := rfl
@[simp] theorem modWord_waiters (n f) : (s.modWord n f).waiters = s.waiters := rfl
@[simp] theorem modWord_episodes (n f) : (s.modWord n f).episodes = s.episodes := rfl
@[simp] theorem modWord_frozenChans (n f) : (s.modWord n f).frozenChans = s.frozenChans := rfl
@[simp] theorem modWord_flits (n f) : (s.modWord n f).flits = s.flits := rfl
@[simp] theorem modWord_parts (n f) : (s.modWord n f).parts = s.parts := rfl
@[simp] theorem modWord_batons (n f) : (s.modWord n f).batons = s.batons := rfl
@[simp] theorem modWord_grids (n f) : (s.modWord n f).grids = s.grids := rfl
@[simp] theorem modWord_nodes (n f) : (s.modWord n f).nodes = s.nodes := rfl
@[simp] theorem modWord_pacer (n f) : (s.modWord n f).pacer = s.pacer := rfl
@[simp] theorem modWord_qcbs (n f) : (s.modWord n f).qcbs = s.qcbs := rfl
@[simp] theorem modWord_qcbsOut (n f) : (s.modWord n f).qcbsOut = s.qcbsOut := rfl
@[simp] theorem modWord_harts (n f) : (s.modWord n f).harts = s.harts := rfl
@[simp] theorem modWord_packets (n f) : (s.modWord n f).packets = s.packets := rfl
@[simp] theorem modWord_hubWaits (n f) : (s.modWord n f).hubWaits = s.hubWaits := rfl
@[simp] theorem modWord_funcs (n f) : (s.modWord n f).funcs = s.funcs := rfl
@[simp] theorem modWord_relParts (n f) : (s.modWord n f).relParts = s.relParts := rfl
@[simp] theorem modWord_rhctl (n f) : (s.modWord n f).rhctl = s.rhctl := rfl
@[simp] theorem modWord_frzlog (n f) : (s.modWord n f).frzlog = s.frzlog := rfl
@[simp] theorem modWord_frzWho (n f) : (s.modWord n f).frzWho = s.frzWho := rfl
@[simp] theorem modWord_ports (n f) : (s.modWord n f).ports = s.ports := rfl
@[simp] theorem modWord_switchesDown (n f) : (s.modWord n f).switchesDown = s.switchesDown := rfl
@[simp] theorem modWord_groupsDown (n f) : (s.modWord n f).groupsDown = s.groupsDown := rfl
@[simp] theorem modWord_namedFailures (n f) : (s.modWord n f).namedFailures = s.namedFailures := rfl
@[simp] theorem modWord_heardFrom (n f) : (s.modWord n f).heardFrom = s.heardFrom := rfl
@[simp] theorem modWord_badWords (n f) : (s.modWord n f).badWords = s.badWords := rfl
@[simp] theorem modWord_leftOut (n f) : (s.modWord n f).leftOut = s.leftOut := rfl
@[simp] theorem modWord_telemetry (n f) : (s.modWord n f).telemetry = s.telemetry := rfl
@[simp] theorem modWord_caps (n f) : (s.modWord n f).caps = s.caps := rfl
@[simp] theorem modWord_boot (n f) : (s.modWord n f).boot = s.boot := rfl
@[simp] theorem modWord_clk (n f) : (s.modWord n f).clk = s.clk := rfl
@[simp] theorem modWord_agenda (n f) : (s.modWord n f).agenda = s.agenda := rfl
@[simp] theorem modWord_cur (n f) : (s.modWord n f).cur = s.cur := rfl
@[simp] theorem modWord_runs (n f) : (s.modWord n f).runs = s.runs := rfl
@[simp] theorem modWord_issuedAt (n f) : (s.modWord n f).issuedAt = s.issuedAt := rfl
@[simp] theorem modWord_free (n f) : (s.modWord n f).free = s.free := rfl
@[simp] theorem modWord_ids (n f) : (s.modWord n f).ids = s.ids := rfl
@[simp] theorem modWord_sent (n f) : (s.modWord n f).sent = s.sent := rfl

@[simp] theorem modObj_wgs (pa f) : (s.modObj pa f).wgs = s.wgs := rfl
@[simp] theorem modObj_cores (pa f) : (s.modObj pa f).cores = s.cores := rfl
@[simp] theorem modObj_quads (pa f) : (s.modObj pa f).quads = s.quads := rfl
@[simp] theorem modObj_mem (pa f) : (s.modObj pa f).mem = s.mem := rfl
@[simp] theorem modObj_slices (pa f) : (s.modObj pa f).slices = s.slices := rfl
@[simp] theorem modObj_hbms (pa f) : (s.modObj pa f).hbms = s.hbms := rfl
@[simp] theorem modObj_ops (pa f) : (s.modObj pa f).ops = s.ops := rfl
@[simp] theorem modObj_walks (pa f) : (s.modObj pa f).walks = s.walks := rfl
@[simp] theorem modObj_walkCache (pa f) : (s.modObj pa f).walkCache = s.walkCache := rfl
@[simp] theorem modObj_pageReqs (pa f) : (s.modObj pa f).pageReqs = s.pageReqs := rfl
@[simp] theorem modObj_ordAccs (pa f) : (s.modObj pa f).ordAccs = s.ordAccs := rfl
@[simp] theorem modObj_contribs (pa f) : (s.modObj pa f).contribs = s.contribs := rfl
@[simp] theorem modObj_results (pa f) : (s.modObj pa f).results = s.results := rfl
@[simp] theorem modObj_joins (pa f) : (s.modObj pa f).joins = s.joins := rfl
@[simp] theorem modObj_waiters (pa f) : (s.modObj pa f).waiters = s.waiters := rfl
@[simp] theorem modObj_episodes (pa f) : (s.modObj pa f).episodes = s.episodes := rfl
@[simp] theorem modObj_words (pa f) : (s.modObj pa f).words = s.words := rfl
@[simp] theorem modObj_frozenChans (pa f) : (s.modObj pa f).frozenChans = s.frozenChans := rfl
@[simp] theorem modObj_flits (pa f) : (s.modObj pa f).flits = s.flits := rfl
@[simp] theorem modObj_parts (pa f) : (s.modObj pa f).parts = s.parts := rfl
@[simp] theorem modObj_batons (pa f) : (s.modObj pa f).batons = s.batons := rfl
@[simp] theorem modObj_grids (pa f) : (s.modObj pa f).grids = s.grids := rfl
@[simp] theorem modObj_nodes (pa f) : (s.modObj pa f).nodes = s.nodes := rfl
@[simp] theorem modObj_pacer (pa f) : (s.modObj pa f).pacer = s.pacer := rfl
@[simp] theorem modObj_qcbs (pa f) : (s.modObj pa f).qcbs = s.qcbs := rfl
@[simp] theorem modObj_qcbsOut (pa f) : (s.modObj pa f).qcbsOut = s.qcbsOut := rfl
@[simp] theorem modObj_harts (pa f) : (s.modObj pa f).harts = s.harts := rfl
@[simp] theorem modObj_packets (pa f) : (s.modObj pa f).packets = s.packets := rfl
@[simp] theorem modObj_hubWaits (pa f) : (s.modObj pa f).hubWaits = s.hubWaits := rfl
@[simp] theorem modObj_funcs (pa f) : (s.modObj pa f).funcs = s.funcs := rfl
@[simp] theorem modObj_relParts (pa f) : (s.modObj pa f).relParts = s.relParts := rfl
@[simp] theorem modObj_rhctl (pa f) : (s.modObj pa f).rhctl = s.rhctl := rfl
@[simp] theorem modObj_frzlog (pa f) : (s.modObj pa f).frzlog = s.frzlog := rfl
@[simp] theorem modObj_frzWho (pa f) : (s.modObj pa f).frzWho = s.frzWho := rfl
@[simp] theorem modObj_ports (pa f) : (s.modObj pa f).ports = s.ports := rfl
@[simp] theorem modObj_switchesDown (pa f) : (s.modObj pa f).switchesDown = s.switchesDown := rfl
@[simp] theorem modObj_groupsDown (pa f) : (s.modObj pa f).groupsDown = s.groupsDown := rfl
@[simp] theorem modObj_namedFailures (pa f) : (s.modObj pa f).namedFailures = s.namedFailures := rfl
@[simp] theorem modObj_heardFrom (pa f) : (s.modObj pa f).heardFrom = s.heardFrom := rfl
@[simp] theorem modObj_badWords (pa f) : (s.modObj pa f).badWords = s.badWords := rfl
@[simp] theorem modObj_leftOut (pa f) : (s.modObj pa f).leftOut = s.leftOut := rfl
@[simp] theorem modObj_telemetry (pa f) : (s.modObj pa f).telemetry = s.telemetry := rfl
@[simp] theorem modObj_caps (pa f) : (s.modObj pa f).caps = s.caps := rfl
@[simp] theorem modObj_boot (pa f) : (s.modObj pa f).boot = s.boot := rfl
@[simp] theorem modObj_clk (pa f) : (s.modObj pa f).clk = s.clk := rfl
@[simp] theorem modObj_agenda (pa f) : (s.modObj pa f).agenda = s.agenda := rfl
@[simp] theorem modObj_cur (pa f) : (s.modObj pa f).cur = s.cur := rfl
@[simp] theorem modObj_runs (pa f) : (s.modObj pa f).runs = s.runs := rfl
@[simp] theorem modObj_issuedAt (pa f) : (s.modObj pa f).issuedAt = s.issuedAt := rfl
@[simp] theorem modObj_free (pa f) : (s.modObj pa f).free = s.free := rfl
@[simp] theorem modObj_ids (pa f) : (s.modObj pa f).ids = s.ids := rfl
@[simp] theorem modObj_sent (pa f) : (s.modObj pa f).sent = s.sent := rfl

@[simp] theorem modQcb_wgs (pa f) : (s.modQcb pa f).wgs = s.wgs := rfl
@[simp] theorem modQcb_cores (pa f) : (s.modQcb pa f).cores = s.cores := rfl
@[simp] theorem modQcb_quads (pa f) : (s.modQcb pa f).quads = s.quads := rfl
@[simp] theorem modQcb_mem (pa f) : (s.modQcb pa f).mem = s.mem := rfl
@[simp] theorem modQcb_slices (pa f) : (s.modQcb pa f).slices = s.slices := rfl
@[simp] theorem modQcb_hbms (pa f) : (s.modQcb pa f).hbms = s.hbms := rfl
@[simp] theorem modQcb_ops (pa f) : (s.modQcb pa f).ops = s.ops := rfl
@[simp] theorem modQcb_walks (pa f) : (s.modQcb pa f).walks = s.walks := rfl
@[simp] theorem modQcb_walkCache (pa f) : (s.modQcb pa f).walkCache = s.walkCache := rfl
@[simp] theorem modQcb_pageReqs (pa f) : (s.modQcb pa f).pageReqs = s.pageReqs := rfl
@[simp] theorem modQcb_objs (pa f) : (s.modQcb pa f).objs = s.objs := rfl
@[simp] theorem modQcb_ordAccs (pa f) : (s.modQcb pa f).ordAccs = s.ordAccs := rfl
@[simp] theorem modQcb_contribs (pa f) : (s.modQcb pa f).contribs = s.contribs := rfl
@[simp] theorem modQcb_results (pa f) : (s.modQcb pa f).results = s.results := rfl
@[simp] theorem modQcb_joins (pa f) : (s.modQcb pa f).joins = s.joins := rfl
@[simp] theorem modQcb_waiters (pa f) : (s.modQcb pa f).waiters = s.waiters := rfl
@[simp] theorem modQcb_episodes (pa f) : (s.modQcb pa f).episodes = s.episodes := rfl
@[simp] theorem modQcb_words (pa f) : (s.modQcb pa f).words = s.words := rfl
@[simp] theorem modQcb_frozenChans (pa f) : (s.modQcb pa f).frozenChans = s.frozenChans := rfl
@[simp] theorem modQcb_flits (pa f) : (s.modQcb pa f).flits = s.flits := rfl
@[simp] theorem modQcb_parts (pa f) : (s.modQcb pa f).parts = s.parts := rfl
@[simp] theorem modQcb_batons (pa f) : (s.modQcb pa f).batons = s.batons := rfl
@[simp] theorem modQcb_grids (pa f) : (s.modQcb pa f).grids = s.grids := rfl
@[simp] theorem modQcb_nodes (pa f) : (s.modQcb pa f).nodes = s.nodes := rfl
@[simp] theorem modQcb_pacer (pa f) : (s.modQcb pa f).pacer = s.pacer := rfl
@[simp] theorem modQcb_qcbsOut (pa f) : (s.modQcb pa f).qcbsOut = s.qcbsOut := rfl
@[simp] theorem modQcb_harts (pa f) : (s.modQcb pa f).harts = s.harts := rfl
@[simp] theorem modQcb_packets (pa f) : (s.modQcb pa f).packets = s.packets := rfl
@[simp] theorem modQcb_hubWaits (pa f) : (s.modQcb pa f).hubWaits = s.hubWaits := rfl
@[simp] theorem modQcb_funcs (pa f) : (s.modQcb pa f).funcs = s.funcs := rfl
@[simp] theorem modQcb_relParts (pa f) : (s.modQcb pa f).relParts = s.relParts := rfl
@[simp] theorem modQcb_rhctl (pa f) : (s.modQcb pa f).rhctl = s.rhctl := rfl
@[simp] theorem modQcb_frzlog (pa f) : (s.modQcb pa f).frzlog = s.frzlog := rfl
@[simp] theorem modQcb_frzWho (pa f) : (s.modQcb pa f).frzWho = s.frzWho := rfl
@[simp] theorem modQcb_ports (pa f) : (s.modQcb pa f).ports = s.ports := rfl
@[simp] theorem modQcb_switchesDown (pa f) : (s.modQcb pa f).switchesDown = s.switchesDown := rfl
@[simp] theorem modQcb_groupsDown (pa f) : (s.modQcb pa f).groupsDown = s.groupsDown := rfl
@[simp] theorem modQcb_namedFailures (pa f) : (s.modQcb pa f).namedFailures = s.namedFailures := rfl
@[simp] theorem modQcb_heardFrom (pa f) : (s.modQcb pa f).heardFrom = s.heardFrom := rfl
@[simp] theorem modQcb_badWords (pa f) : (s.modQcb pa f).badWords = s.badWords := rfl
@[simp] theorem modQcb_leftOut (pa f) : (s.modQcb pa f).leftOut = s.leftOut := rfl
@[simp] theorem modQcb_telemetry (pa f) : (s.modQcb pa f).telemetry = s.telemetry := rfl
@[simp] theorem modQcb_caps (pa f) : (s.modQcb pa f).caps = s.caps := rfl
@[simp] theorem modQcb_boot (pa f) : (s.modQcb pa f).boot = s.boot := rfl
@[simp] theorem modQcb_clk (pa f) : (s.modQcb pa f).clk = s.clk := rfl
@[simp] theorem modQcb_agenda (pa f) : (s.modQcb pa f).agenda = s.agenda := rfl
@[simp] theorem modQcb_cur (pa f) : (s.modQcb pa f).cur = s.cur := rfl
@[simp] theorem modQcb_runs (pa f) : (s.modQcb pa f).runs = s.runs := rfl
@[simp] theorem modQcb_issuedAt (pa f) : (s.modQcb pa f).issuedAt = s.issuedAt := rfl
@[simp] theorem modQcb_free (pa f) : (s.modQcb pa f).free = s.free := rfl
@[simp] theorem modQcb_ids (pa f) : (s.modQcb pa f).ids = s.ids := rfl
@[simp] theorem modQcb_sent (pa f) : (s.modQcb pa f).sent = s.sent := rfl

@[simp] theorem modPacer_wgs (f) : (s.modPacer f).wgs = s.wgs := rfl
@[simp] theorem modPacer_cores (f) : (s.modPacer f).cores = s.cores := rfl
@[simp] theorem modPacer_quads (f) : (s.modPacer f).quads = s.quads := rfl
@[simp] theorem modPacer_mem (f) : (s.modPacer f).mem = s.mem := rfl
@[simp] theorem modPacer_slices (f) : (s.modPacer f).slices = s.slices := rfl
@[simp] theorem modPacer_hbms (f) : (s.modPacer f).hbms = s.hbms := rfl
@[simp] theorem modPacer_ops (f) : (s.modPacer f).ops = s.ops := rfl
@[simp] theorem modPacer_walks (f) : (s.modPacer f).walks = s.walks := rfl
@[simp] theorem modPacer_walkCache (f) : (s.modPacer f).walkCache = s.walkCache := rfl
@[simp] theorem modPacer_pageReqs (f) : (s.modPacer f).pageReqs = s.pageReqs := rfl
@[simp] theorem modPacer_objs (f) : (s.modPacer f).objs = s.objs := rfl
@[simp] theorem modPacer_ordAccs (f) : (s.modPacer f).ordAccs = s.ordAccs := rfl
@[simp] theorem modPacer_contribs (f) : (s.modPacer f).contribs = s.contribs := rfl
@[simp] theorem modPacer_results (f) : (s.modPacer f).results = s.results := rfl
@[simp] theorem modPacer_joins (f) : (s.modPacer f).joins = s.joins := rfl
@[simp] theorem modPacer_waiters (f) : (s.modPacer f).waiters = s.waiters := rfl
@[simp] theorem modPacer_episodes (f) : (s.modPacer f).episodes = s.episodes := rfl
@[simp] theorem modPacer_words (f) : (s.modPacer f).words = s.words := rfl
@[simp] theorem modPacer_frozenChans (f) : (s.modPacer f).frozenChans = s.frozenChans := rfl
@[simp] theorem modPacer_flits (f) : (s.modPacer f).flits = s.flits := rfl
@[simp] theorem modPacer_parts (f) : (s.modPacer f).parts = s.parts := rfl
@[simp] theorem modPacer_batons (f) : (s.modPacer f).batons = s.batons := rfl
@[simp] theorem modPacer_grids (f) : (s.modPacer f).grids = s.grids := rfl
@[simp] theorem modPacer_nodes (f) : (s.modPacer f).nodes = s.nodes := rfl
@[simp] theorem modPacer_pacer (f) : (s.modPacer f).pacer = f s.pacer := rfl
@[simp] theorem modPacer_qcbs (f) : (s.modPacer f).qcbs = s.qcbs := rfl
@[simp] theorem modPacer_qcbsOut (f) : (s.modPacer f).qcbsOut = s.qcbsOut := rfl
@[simp] theorem modPacer_harts (f) : (s.modPacer f).harts = s.harts := rfl
@[simp] theorem modPacer_packets (f) : (s.modPacer f).packets = s.packets := rfl
@[simp] theorem modPacer_hubWaits (f) : (s.modPacer f).hubWaits = s.hubWaits := rfl
@[simp] theorem modPacer_funcs (f) : (s.modPacer f).funcs = s.funcs := rfl
@[simp] theorem modPacer_relParts (f) : (s.modPacer f).relParts = s.relParts := rfl
@[simp] theorem modPacer_rhctl (f) : (s.modPacer f).rhctl = s.rhctl := rfl
@[simp] theorem modPacer_frzlog (f) : (s.modPacer f).frzlog = s.frzlog := rfl
@[simp] theorem modPacer_frzWho (f) : (s.modPacer f).frzWho = s.frzWho := rfl
@[simp] theorem modPacer_ports (f) : (s.modPacer f).ports = s.ports := rfl
@[simp] theorem modPacer_switchesDown (f) : (s.modPacer f).switchesDown = s.switchesDown := rfl
@[simp] theorem modPacer_groupsDown (f) : (s.modPacer f).groupsDown = s.groupsDown := rfl
@[simp] theorem modPacer_namedFailures (f) : (s.modPacer f).namedFailures = s.namedFailures := rfl
@[simp] theorem modPacer_heardFrom (f) : (s.modPacer f).heardFrom = s.heardFrom := rfl
@[simp] theorem modPacer_badWords (f) : (s.modPacer f).badWords = s.badWords := rfl
@[simp] theorem modPacer_leftOut (f) : (s.modPacer f).leftOut = s.leftOut := rfl
@[simp] theorem modPacer_telemetry (f) : (s.modPacer f).telemetry = s.telemetry := rfl
@[simp] theorem modPacer_caps (f) : (s.modPacer f).caps = s.caps := rfl
@[simp] theorem modPacer_boot (f) : (s.modPacer f).boot = s.boot := rfl
@[simp] theorem modPacer_clk (f) : (s.modPacer f).clk = s.clk := rfl
@[simp] theorem modPacer_agenda (f) : (s.modPacer f).agenda = s.agenda := rfl
@[simp] theorem modPacer_cur (f) : (s.modPacer f).cur = s.cur := rfl
@[simp] theorem modPacer_runs (f) : (s.modPacer f).runs = s.runs := rfl
@[simp] theorem modPacer_issuedAt (f) : (s.modPacer f).issuedAt = s.issuedAt := rfl
@[simp] theorem modPacer_free (f) : (s.modPacer f).free = s.free := rfl
@[simp] theorem modPacer_ids (f) : (s.modPacer f).ids = s.ids := rfl
@[simp] theorem modPacer_sent (f) : (s.modPacer f).sent = s.sent := rfl

@[simp] theorem dropHart_wgs (pa) : (s.dropHart pa).wgs = s.wgs := rfl
@[simp] theorem dropHart_cores (pa) : (s.dropHart pa).cores = s.cores := rfl
@[simp] theorem dropHart_quads (pa) : (s.dropHart pa).quads = s.quads := rfl
@[simp] theorem dropHart_mem (pa) : (s.dropHart pa).mem = s.mem := rfl
@[simp] theorem dropHart_slices (pa) : (s.dropHart pa).slices = s.slices := rfl
@[simp] theorem dropHart_hbms (pa) : (s.dropHart pa).hbms = s.hbms := rfl
@[simp] theorem dropHart_ops (pa) : (s.dropHart pa).ops = s.ops := rfl
@[simp] theorem dropHart_walks (pa) : (s.dropHart pa).walks = s.walks := rfl
@[simp] theorem dropHart_walkCache (pa) : (s.dropHart pa).walkCache = s.walkCache := rfl
@[simp] theorem dropHart_pageReqs (pa) : (s.dropHart pa).pageReqs = s.pageReqs := rfl
@[simp] theorem dropHart_objs (pa) : (s.dropHart pa).objs = s.objs := rfl
@[simp] theorem dropHart_ordAccs (pa) : (s.dropHart pa).ordAccs = s.ordAccs := rfl
@[simp] theorem dropHart_contribs (pa) : (s.dropHart pa).contribs = s.contribs := rfl
@[simp] theorem dropHart_results (pa) : (s.dropHart pa).results = s.results := rfl
@[simp] theorem dropHart_joins (pa) : (s.dropHart pa).joins = s.joins := rfl
@[simp] theorem dropHart_waiters (pa) : (s.dropHart pa).waiters = s.waiters := rfl
@[simp] theorem dropHart_episodes (pa) : (s.dropHart pa).episodes = s.episodes := rfl
@[simp] theorem dropHart_words (pa) : (s.dropHart pa).words = s.words := rfl
@[simp] theorem dropHart_frozenChans (pa) : (s.dropHart pa).frozenChans = s.frozenChans := rfl
@[simp] theorem dropHart_flits (pa) : (s.dropHart pa).flits = s.flits := rfl
@[simp] theorem dropHart_parts (pa) : (s.dropHart pa).parts = s.parts := rfl
@[simp] theorem dropHart_batons (pa) : (s.dropHart pa).batons = s.batons := rfl
@[simp] theorem dropHart_grids (pa) : (s.dropHart pa).grids = s.grids := rfl
@[simp] theorem dropHart_nodes (pa) : (s.dropHart pa).nodes = s.nodes := rfl
@[simp] theorem dropHart_pacer (pa) : (s.dropHart pa).pacer = s.pacer := rfl
@[simp] theorem dropHart_qcbs (pa) : (s.dropHart pa).qcbs = s.qcbs := rfl
@[simp] theorem dropHart_qcbsOut (pa) : (s.dropHart pa).qcbsOut = s.qcbsOut := rfl
@[simp] theorem dropHart_packets (pa) : (s.dropHart pa).packets = s.packets := rfl
@[simp] theorem dropHart_hubWaits (pa) : (s.dropHart pa).hubWaits = s.hubWaits := rfl
@[simp] theorem dropHart_funcs (pa) : (s.dropHart pa).funcs = s.funcs := rfl
@[simp] theorem dropHart_relParts (pa) : (s.dropHart pa).relParts = s.relParts := rfl
@[simp] theorem dropHart_rhctl (pa) : (s.dropHart pa).rhctl = s.rhctl := rfl
@[simp] theorem dropHart_frzlog (pa) : (s.dropHart pa).frzlog = s.frzlog := rfl
@[simp] theorem dropHart_frzWho (pa) : (s.dropHart pa).frzWho = s.frzWho := rfl
@[simp] theorem dropHart_ports (pa) : (s.dropHart pa).ports = s.ports := rfl
@[simp] theorem dropHart_switchesDown (pa) : (s.dropHart pa).switchesDown = s.switchesDown := rfl
@[simp] theorem dropHart_groupsDown (pa) : (s.dropHart pa).groupsDown = s.groupsDown := rfl
@[simp] theorem dropHart_namedFailures (pa) : (s.dropHart pa).namedFailures = s.namedFailures := rfl
@[simp] theorem dropHart_heardFrom (pa) : (s.dropHart pa).heardFrom = s.heardFrom := rfl
@[simp] theorem dropHart_badWords (pa) : (s.dropHart pa).badWords = s.badWords := rfl
@[simp] theorem dropHart_leftOut (pa) : (s.dropHart pa).leftOut = s.leftOut := rfl
@[simp] theorem dropHart_telemetry (pa) : (s.dropHart pa).telemetry = s.telemetry := rfl
@[simp] theorem dropHart_caps (pa) : (s.dropHart pa).caps = s.caps := rfl
@[simp] theorem dropHart_boot (pa) : (s.dropHart pa).boot = s.boot := rfl
@[simp] theorem dropHart_clk (pa) : (s.dropHart pa).clk = s.clk := rfl
@[simp] theorem dropHart_agenda (pa) : (s.dropHart pa).agenda = s.agenda := rfl
@[simp] theorem dropHart_cur (pa) : (s.dropHart pa).cur = s.cur := rfl
@[simp] theorem dropHart_runs (pa) : (s.dropHart pa).runs = s.runs := rfl
@[simp] theorem dropHart_issuedAt (pa) : (s.dropHart pa).issuedAt = s.issuedAt := rfl
@[simp] theorem dropHart_free (pa) : (s.dropHart pa).free = s.free := rfl
@[simp] theorem dropHart_ids (pa) : (s.dropHart pa).ids = s.ids := rfl
@[simp] theorem dropHart_sent (pa) : (s.dropHart pa).sent = s.sent := rfl

@[simp] theorem ended_wgs (e) : (s.ended e).wgs = s.wgs := rfl
@[simp] theorem ended_cores (e) : (s.ended e).cores = s.cores := rfl
@[simp] theorem ended_quads (e) : (s.ended e).quads = s.quads := rfl
@[simp] theorem ended_mem (e) : (s.ended e).mem = s.mem := rfl
@[simp] theorem ended_slices (e) : (s.ended e).slices = s.slices := rfl
@[simp] theorem ended_hbms (e) : (s.ended e).hbms = s.hbms := rfl
@[simp] theorem ended_ops (e) : (s.ended e).ops = s.ops := rfl
@[simp] theorem ended_walks (e) : (s.ended e).walks = s.walks := rfl
@[simp] theorem ended_walkCache (e) : (s.ended e).walkCache = s.walkCache := rfl
@[simp] theorem ended_pageReqs (e) : (s.ended e).pageReqs = s.pageReqs := rfl
@[simp] theorem ended_objs (e) : (s.ended e).objs = s.objs := rfl
@[simp] theorem ended_ordAccs (e) : (s.ended e).ordAccs = s.ordAccs := rfl
@[simp] theorem ended_contribs (e) : (s.ended e).contribs = s.contribs := rfl
@[simp] theorem ended_results (e) : (s.ended e).results = s.results := rfl
@[simp] theorem ended_joins (e) : (s.ended e).joins = s.joins := rfl
@[simp] theorem ended_waiters (e) : (s.ended e).waiters = s.waiters := rfl
@[simp] theorem ended_episodes (e) : (s.ended e).episodes = s.episodes := rfl
@[simp] theorem ended_words (e) : (s.ended e).words = s.words := rfl
@[simp] theorem ended_frozenChans (e) : (s.ended e).frozenChans = s.frozenChans := rfl
@[simp] theorem ended_flits (e) : (s.ended e).flits = s.flits := rfl
@[simp] theorem ended_parts (e) : (s.ended e).parts = s.parts := rfl
@[simp] theorem ended_batons (e) : (s.ended e).batons = s.batons := rfl
@[simp] theorem ended_grids (e) : (s.ended e).grids = s.grids := rfl
@[simp] theorem ended_nodes (e) : (s.ended e).nodes = s.nodes := rfl
@[simp] theorem ended_pacer (e) : (s.ended e).pacer = s.pacer := rfl
@[simp] theorem ended_qcbs (e) : (s.ended e).qcbs = s.qcbs := rfl
@[simp] theorem ended_qcbsOut (e) : (s.ended e).qcbsOut = s.qcbsOut := rfl
@[simp] theorem ended_harts (e) : (s.ended e).harts = s.harts := rfl
@[simp] theorem ended_packets (e) : (s.ended e).packets = s.packets := rfl
@[simp] theorem ended_hubWaits (e) : (s.ended e).hubWaits = s.hubWaits := rfl
@[simp] theorem ended_funcs (e) : (s.ended e).funcs = s.funcs := rfl
@[simp] theorem ended_relParts (e) : (s.ended e).relParts = s.relParts := rfl
@[simp] theorem ended_rhctl (e) : (s.ended e).rhctl = s.rhctl := rfl
@[simp] theorem ended_frzlog (e) : (s.ended e).frzlog = s.frzlog := rfl
@[simp] theorem ended_frzWho (e) : (s.ended e).frzWho = s.frzWho := rfl
@[simp] theorem ended_ports (e) : (s.ended e).ports = s.ports := rfl
@[simp] theorem ended_switchesDown (e) : (s.ended e).switchesDown = s.switchesDown := rfl
@[simp] theorem ended_groupsDown (e) : (s.ended e).groupsDown = s.groupsDown := rfl
@[simp] theorem ended_namedFailures (e) : (s.ended e).namedFailures = s.namedFailures := rfl
@[simp] theorem ended_heardFrom (e) : (s.ended e).heardFrom = s.heardFrom := rfl
@[simp] theorem ended_badWords (e) : (s.ended e).badWords = s.badWords := rfl
@[simp] theorem ended_leftOut (e) : (s.ended e).leftOut = s.leftOut := rfl
@[simp] theorem ended_telemetry (e) : (s.ended e).telemetry = s.telemetry := rfl
@[simp] theorem ended_caps (e) : (s.ended e).caps = s.caps := rfl
@[simp] theorem ended_boot (e) : (s.ended e).boot = s.boot := rfl
@[simp] theorem ended_clk (e) : (s.ended e).clk = s.clk := rfl
@[simp] theorem ended_agenda (e) : (s.ended e).agenda = s.agenda := rfl
@[simp] theorem ended_runs (e) : (s.ended e).runs = s.runs := rfl
@[simp] theorem ended_issuedAt (e) : (s.ended e).issuedAt = s.issuedAt := rfl
@[simp] theorem ended_free (e) : (s.ended e).free = s.free := rfl
@[simp] theorem ended_ids (e) : (s.ended e).ids = s.ids := rfl
@[simp] theorem ended_sent (e) : (s.ended e).sent = s.sent := rfl

end Sys2Proof.Machine.State
end

