-- ==== Sys2Proof/Tests/Slice0.lean ====
section
/-! SUPPORT. Tests. The words are written from the encoding tables of spec/, field by field; the expected results come from the rules
cited. -/

open Sys2Proof Sys2Proof.Machine

section

set_option Elab.async false

namespace Sys2Proof.Tests

/-! ### Decoding (R25 to R49) -/

/-- Each word decodes to its instruction, which is well formed, and the encoder gives the word back. -/
def decodes (l : List (Word32 × Instr)) : Bool :=
  l.all fun x => (match decodeWord x.1 with | .ok i => i == x.2 | .error _ => false) && x.2.fieldsOk && encode x.2 == some x.1

/-- Each word is refused for the reason given. -/
def refuses (l : List (Word32 × Reject)) : Bool :=
  l.all fun x => match decodeWord x.1 with | .ok _ => false | .error r => r == x.2

/-- None of the terms is well formed. -/
def illFormed (l : List Instr) : Bool := l.all fun i => !((encode i).isSome && i.fieldsOk)

theorem test_decode_scalar : decodes (
  [(0b0_0000001_101_0_0_10110_1010010_1001011, .sadd false 5 false 22 82 75),
   (0b1_0000010_011_0_0_10110_1010010_1001011, .ssub true 3 false 22 82 75),
   (0b0_0000011_110_1_0_10110_1010010_1001011, .smul false 6 true 22 82 75),
   (0b1_0000100_101_1_0_10110_1010010_1001011, .smulh true 5 true 22 82 75),
   (0b0_0000101_011_0_0_10110_1010010_1001011, .sdiv false 3 false 22 82 75),
   (0b1_0000110_110_0_0_10110_1010010_1001011, .sand true 6 false 22 82 75),
   (0b0_0000111_101_1_0_10110_1010010_1001011, .sor false 5 true 22 82 75),
   (0b1_0001000_011_1_0_10110_1010010_1001011, .sxor true 3 true 22 82 75),
   (0b0_0001001_110_0_0_10110_1010010_1001011, .sshl false 6 false 22 82 75),
   (0b1_0001010_101_0_0_10110_1010010_1001011, .sshr true 5 false 22 82 75),
   (0b0_0001011_011_1_0_10110_1010010_1001011, .ssra false 3 true 22 82 75),
   (0b1_0001100_110_1_0_10110_1010010_1001011, .smin true 6 true 22 82 75)] ++
  [(0b0_0001101_101_0_0_10110_1010010_1001011, .smax false 5 false 22 82 75),
   (0b1_0001110_011_0_0_10110_1010010_1001011, .ssel true 3 false 22 82 75),
   (0b0_0001111_110_1_011_101_1010010_1001011, .scmp false 6 true 3 5 82 75),
   (0b1_0010000_101_1_0_10110_1010010_0000000, .smov true 5 true 22 82),
   (0b0_0010000_011_0_0_10110_1010010_0000001, .sclz false 3 false 22 82),
   (0b1_0010000_110_0_0_10110_1010010_0000010, .spop true 6 false 22 82),
   (0b0_0010001_101_1_0_10110_10110011100011, .sli false 5 true 22 11491),
   (0b1_0010010_011_1_0_10110_1010010_0000000, .slitLo true 3 true 22 82),
   (0b0_0010010_110_0_0_10110_1010010_0000001, .slitHi false 6 false 22 82),
   (0b1_0010011_101_0_0_10110_1010010_1001011, .saddr true 5 false 22 82 75),
   (0b0_0010100_011_1_0_10110_1010010_1001101, .saddImm false 3 true 22 82 77),
   (0b1_0010101_110_1_011_101_1010010_1001101, .scmpImm true 6 true 3 5 82 77)]) = true := by decide +kernel

theorem test_decode_vector_integer : decodes (
  [(0b0_0011000_101_0_101101_0101101_0011010, .vaddI32 false 5 false 45 45 26),
   (0b1_0011001_011_0_101101_0101101_0011010, .vaddF32 true 3 false 45 45 26),
   (0b0_0011010_110_1_101101_0101101_0011010, .vsubI32 false 6 true 45 45 26),
   (0b1_0011011_101_1_101101_0101101_0011010, .vsubF32 true 5 true 45 45 26),
   (0b0_0011100_011_0_101101_0101101_0011010, .vmulI32 false 3 false 45 45 26),
   (0b1_0011101_110_0_101101_0101101_0011010, .vmulF32 true 6 false 45 45 26),
   (0b0_0011110_101_1_101101_0101101_0011010, .vmulhI32 false 5 true 45 45 26),
   (0b1_0011111_011_1_101101_0101101_0011010, .vmulhN32 true 3 true 45 45 26),
   (0b0_0100000_110_0_101101_0101101_0011010, .vminI32 false 6 false 45 45 26),
   (0b1_0100001_101_0_101101_0101101_0011010, .vminN32 true 5 false 45 45 26),
   (0b0_0100010_011_1_101101_0101101_0011010, .vminF32 false 3 true 45 45 26),
   (0b1_0100011_110_1_101101_0101101_0011010, .vmaxI32 true 6 true 45 45 26)] ++
  [(0b0_0100100_101_0_101101_0101101_0011010, .vmaxN32 false 5 false 45 45 26),
   (0b1_0100101_011_0_101101_0101101_0011010, .vmaxF32 true 3 false 45 45 26),
   (0b0_0100110_110_1_101101_0101101_0011010, .vfmaF32 false 6 true 45 45 26),
   (0b1_0100111_101_1_101101_0101101_0011010, .vmadI32 true 5 true 45 45 26),
   (0b0_0101000_011_0_101101_0101101_0011010, .vand false 3 false 45 45 26),
   (0b1_0101001_110_0_101101_0101101_0011010, .vor true 6 false 45 45 26),
   (0b0_0101010_101_1_101101_0101101_0011010, .vxor false 5 true 45 45 26),
   (0b1_0101011_011_1_101101_0101101_0011010, .vshl true 3 true 45 45 26),
   (0b0_0101100_110_0_101101_0101101_0011010, .vshr false 6 false 45 45 26),
   (0b1_0101101_101_0_101101_0101101_0011010, .vsra true 5 false 45 45 26),
   (0b0_0101110_011_1_101101_0101101_0011010, .vsel false 3 true 45 45 26)]) = true := by decide +kernel

theorem test_decode_vector_unary_special : decodes (
  [(0b1_0101111_110_1_101101_0101101_0000000, .vmov true 6 true 45 45),
   (0b0_0101111_101_0_101101_0101101_0000001, .vabsI32 false 5 false 45 45),
   (0b1_0101111_011_0_101101_0101101_0000010, .vabsF32 true 3 false 45 45),
   (0b0_0101111_110_1_101101_0101101_0000011, .vnegI32 false 6 true 45 45),
   (0b1_0101111_101_1_101101_0101101_0000100, .vnegF32 true 5 true 45 45),
   (0b0_0101111_011_0_101101_0101101_0000101, .vclz false 3 false 45 45),
   (0b1_0101111_110_0_101101_0101101_0000110, .vpop true 6 false 45 45),
   (0b0_0101111_101_1_101101_0101101_0001000, .frcp false 5 true 45 45),
   (0b1_0101111_011_1_101101_0101101_0001001, .frsq true 3 true 45 45),
   (0b0_0101111_110_0_101101_0101101_0001010, .fsqrt false 6 false 45 45),
   (0b1_0101111_101_0_101101_0101101_0001011, .fexp2 true 5 false 45 45),
   (0b0_0101111_011_1_101101_0101101_0001100, .flog2 false 3 true 45 45)] ++
  [(0b1_0101111_110_1_101101_0101101_0001101, .fsin true 6 true 45 45),
   (0b0_0101111_101_0_101101_0101101_0001110, .fcos false 5 false 45 45),
   (0b1_0101111_011_0_101101_0101101_0001111, .ftanh true 3 false 45 45)]) = true := by decide +kernel

theorem test_decode_compare_rep : decodes (
  [(0b0_0110000_110_1_011_101_0101101_0011010, .vcmpI32 false 6 true 3 5 45 26),
   (0b1_0110001_101_1_110_011_0101101_0011010, .vcmpN32 true 5 true 6 3 45 26),
   (0b0_0110010_011_0_101_110_0101101_0011010, .vcmpF32 false 3 false 5 6 45 26),
   (0b1_0110011_110_0_101101_0101101_0011010, .vclampI32 true 6 false 45 45 26),
   (0b0_0110100_101_1_101101_0101101_0011010, .vclampF32 false 5 true 45 45 26),
   (0b001101011110000000000_10_1_1_1_101101, .rep 2 true true true 45)]) = true := by decide +kernel

theorem test_decode_cross_lane : decodes (
  [(0b0_0111000_110_0_101101_0101101_1001011, .xshuf false 6 false 45 45 75),
   (0b1_0111001_101_0_101101_0101101_1001011, .xrot true 5 false 45 45 75),
   (0b0_0111010_011_1_101101_0101101_1001011, .xbcast false 3 true 45 45 75),
   (0b1_0111011_110_1_0_10110_0101101_1001011, .xfirst true 6 true 22 45 75),
   (0b0_0111100_101_0_0_10110_1010010_00000_10, .xvote false 5 false 22 82 2),
   (0b1_0111101_011_0_101101_1010010_0_10_0001, .xreduce true 3 false 45 82 2 1),
   (0b0_0111110_110_1_101101_1010010_1_10_0001, .xscan false 6 true 45 82 true 2 1),
   (0b1_0111111_101_1_101101_0101101_1001011, .xcount true 5 true 45 45 75)]) = true := by decide +kernel

theorem test_decode_convert : decodes (
  [(0b0_1000000_011_0_101101_0101101_01_1_0110, .cvtEnc false 3 false 45 45 1 6),
   (0b1_1000000_110_0_101101_0101101_10_0_1001, .cvtDec true 6 false 45 45 2 9),
   (0b0_1000001_101_1_101101_0101101_0_01_1_011, .cvtsEnc false 5 true 45 45 1 3),
   (0b1_1000001_011_1_101101_0101101_0_10_0_101, .cvtsDec true 3 true 45 45 2 5),
   (0b0_1000010_110_0_101101_0101101_0000_011, .plpack false 6 false 45 45 3),
   (0b1_1000011_101_0_101101_0101101_0_011_101, .plunpack true 5 false 45 45 3 5),
   (0b0_1000100_011_1_101101_1010010_00_10_110, .plane false 3 true 45 82 2 6),
   (0b1_1000101_110_1_101101_110010000_10_101, .fmtq true 6 true 45 2 5)]) = true := by decide +kernel

theorem test_decode_matrix : decodes (
  [(0b0_1001000_101_0_000_011_1010010_000_1011, .mclaim false 5 false 3 82 11),
   (0b1_1001001_011_0000000_1010010_000_1011, .mrelease true 3 82 11),
   (0b0_1001010_110_0_101101_1010010_0000_101, .mload false 6 45 82 5),
   (0b1_1001011_101_000000011001000_1_0_1011, .mzero true 5 true false 11),
   (0b0_1001100_011_0_110_011_1010010_1_0_1_1011, .mma false 3 6 3 82 true false true 11),
   (0b1_1001101_110_0_110_011_1010010_0_0_1_1011, .mdrain true 6 6 3 82 false true 11),
   (0b0_1001110_101_1_000_011_110010000_1_1011, .mchk false 5 true 3 true 11),
   (0b1_1001111_011_0000000_1010010_001_1011, .mheat true 3 82 11),
   (0b0_1001111_110_00000001100100000_1011, .mheatOff false 6 11),
   (0b1_1010000_101_000000011001000_10_1011, .mwait true 5 2 11)]) = true := by decide +kernel

theorem test_decode_memory : decodes (
  [(0b0_1010010_011_1_101101_1010010_1001011, .ld false 3 true 45 82 75),
   (0b1_1010011_110_0_101101_1010010_1001011, .st true 6 45 82 75),
   (0b0_1010100_101_0_101101_0101101_1001011, .lds false 5 false 45 45 75),
   (0b1_1010101_011_0_101101_0101101_1001011, .sts true 3 45 45 75),
   (0b0_1010110_110_1_101101_0101101_1001011, .ldx false 6 true 45 45 75),
   (0b1_1010111_101_0_101101_0101101_1001011, .stx true 5 45 45 75),
   (0b0_1011000_011_0_101101_0101101_1001011, .ldw false 3 false 45 45 75),
   (0b1_1011001_110_0_101101_0101101_1001011, .stw true 6 45 45 75),
   (0b0_1011010_101_000000_1_1010010_0000000, .pres false 5 true 82)]) = true := by decide +kernel

theorem test_decode_regions : decodes (
  [(0b1_1011010_011_00_10110_11001000010000, .seal true 3 22),
   (0b0_1011010_110_00_10110_11001000100000, .unseal false 6 22),
   (0b1_1011010_101_00_10110_1010010_011000_1, .pref true 5 22 82 true),
   (0b0_1011011_011_00_10110_1010010_1100100, .bind false 3 22 82),
   (0b1_1011100_110_00_10110_1010010_1100100, .unbind true 6 22 82)]) = true := by decide +kernel

theorem test_decode_release_log : decodes (
  [(0b0_1011101_101_0000000_1010010_0000_101, .acq false 5 82 5),
   (0b1_1011110_011_0000000_1010010_0000_100, .rel true 3 82 4),
   (0b0_1011111_110_00_10110_1010010_0000000, .chkpt false 6 22 82),
   (0b1_1011111_101_1_0_10110_1010010_0000001, .logq true 5 true 22 82),
   (0b0_1100000_011_000000011001000000_100, .fence false 3 4),
   (0b1_1100001_110_0000000110010000_1_0_011, .xfence true 6 true false 3)]) = true := by decide +kernel

theorem test_decode_atomic : decodes (
  [(0b0_1100010_101_1_101101_0101110_0_01_0000, .aadd false 5 true 45 46 1),
   (0b1_1100010_011_1_101101_1010010_0_01_0001, .amin true 3 true 45 82 1),
   (0b0_1100010_110_0_101101_1010010_0_01_0010, .amax false 6 false 45 82 1),
   (0b1_1100010_101_0_101101_0101110_0000011, .aand true 5 false 45 46),
   (0b0_1100010_011_1_101101_1010010_0000100, .aor false 3 true 45 82),
   (0b1_1100010_110_1_101101_1010010_0000101, .axor true 6 true 45 82),
   (0b0_1100010_101_0_101101_1010010_0000110, .aswap false 5 false 45 82),
   (0b1_1100010_011_0_101101_0101110_0000111, .acas true 3 false 45 46),
   (0b0_1100010_110_1_101101_1010010_0001000, .ainc false 6 true 45 82),
   (0b1_1100011_101_0_101101_1010010_0000_1_00, .radd true 5 45 82 true),
   (0b0_1100011_011_0_101101_1010010_0000_1_01, .raddPf false 3 45 82 true),
   (0b1_1100011_110_0000000_1010010_0000010, .raddFlush true 6 82)] ++
  [(0b0_1100100_101_0_101101_1010010_1001011, .oadd false 5 45 82 75),
   (0b1_1100101_011_00_10110_1010010_1001011, .orinit true 3 22 82 75)]) = true := by decide +kernel

theorem test_decode_control : decodes (
  [(0b01101000_110_110100111000101011010, .br 6 1732954),
   (0b01101001_101_110100111000101011010, .brp 5 1732954),
   (0b01101010_011_0000000_1010010_1100100, .jmp 3 82),
   (0b01101011_110_110100111000101011010, .call 6 1732954),
   (0b01101100_101_0000000_1010010_1100100, .calli 5 82),
   (0b01101101_011_000000011001000000000, .ret 3),
   (0b01101101_110_000000011001000000001, .exit 6),
   (0b01101101_101_000000011001000000010, .yield 5)]) = true := by decide +kernel

theorem test_decode_fabric : decodes (
  [(0b0_1101110_011_0000000000_1011_0000000, .fwait false 3 11),
   (0b1_1101110_110_0_000_101_000_1011_0000001, .ftest true 6 false 5 11),
   (0b0_1101110_101_0000000000_1011_0000010, .fcancel false 5 11),
   (0b1_1101110_011_1_00_1011_000_0110_0000011, .fmovHh true 3 true 11 6),
   (0b0_1101110_110_0_1_10110_000_1011_0000011, .fmovSh false 6 false 22 11),
   (0b1_1101110_101_0_00_1011_1010010_0000011, .fmovHs true 5 false 11 82),
   (0b0_1110000_011_1_00_1011_1010010_1001011, .cpy false 3 true 11 82 75),
   (0b1_1110001_110_1_00_1011_1010010_1001011, .cpyw true 6 true 11 82 75),
   (0b0_1110010_101_0_00_1011_1010010_1001011, .ovl false 5 false 11 82 75),
   (0b1_1110011_011_0_00_1011_1010010_0101101, .gth true 3 false 11 82 45),
   (0b0_1110100_110_1_00_1011_1010010_0_1_10_100, .coll false 6 true 11 82 true 2 4),
   (0b1_1110101_101_00000_10_1010010_0000000, .rlink true 5 2 82)] ++
  [(0b0_1110101_011_0000_1_10_11001000000001, .rclose false 3 true 2)]) = true := by decide +kernel

theorem test_decode_spawn : decodes (
  [(0b1_1110110_110_0_0_10110_1010010_1001011, .spawn true 6 false 22 82 75),
   (0b0_1110111_101_1_0_10110_1010010_1100100, .done false 5 true 22 82),
   (0b1_1111000_011_0000000_1010010_0000000, .tbfull true 3 82),
   (0b0_1111000_110_0000000_1010010_0000001, .tbempty false 6 82),
   (0b1_1111000_101_0000000_1010010_0000010, .tbwait true 5 82),
   (0b0_1111001_011_1_0_10110_1010010_1100100, .heatid false 3 true 22 82)]) = true := by decide +kernel

theorem test_decode_barriers : decodes (
  [(0b1_1111010_110_0000000_1010010_0000_101, .bar true 6 82 5),
   (0b0_1111011_101_00_10110_1010010_0000000, .binit false 5 22 82),
   (0b1_1111011_011_0_0_10110_1010010_001_0101, .barrive true 3 false 22 82 5),
   (0b0_1111011_110_1_0_10110_1010010_010_1011, .bwait false 6 true 22 82 11),
   (0b1_1111011_101_1_000_011_1010010_0110000, .btest true 5 true 3 82)]) = true := by decide +kernel

theorem test_decode_system : decodes (
  [(0b0_1111100_011_0_0_10110_10110011100011, .sysrd false 3 false 22 11491),
   (0b1_1111101_110_00_10110_10110011100011, .syswr true 6 22 11491),
   (0b0_1111110_101_1_0_10110_1010010_1100100, .caprd false 5 true 22 82),
   (0b1_1111111_011_000000011001000000000, .tfence true 3),
   (0b01111111_110_0000000_1010010_0000001, .trap 6 82),
   (0b01111111_101_000000011001000000010, .tret 5),
   (0b0_1111111_011_1_0_10110_1010010_0000011, .flagrd false 3 true 22 82),
   (0b1_1111111_110_0000000_1010010_0000100, .flagclr true 6 82),
   (0b0_1111111_101_0000000_1010010_0000101, .ctxsave false 5 82),
   (0b1_1111111_011_0000000_1010010_0000110, .ctxload true 3 82)]) = true := by decide +kernel

/-- R44 leaves majors 0x00, 0x16 and 0x6F unused; sadd's bit 19 is fixed at 0; pres has no bit 20; sub-operations that R46 does not list. -/
theorem test_decode_refuses : refuses
  [(0, .unusedMajor), (0b0_0010110_0000000000000000_00000000, .unusedMajor), (0b1_1101111_1111111111111111_11111111, .unusedMajor),
   (0b0_0000001_101_0_1_10110_1010010_1001011, .noRow), (0b0_1011010_000_1_00000_0_1010010_0000000, .noRow),
   (0b0_0010000_000_0_0_00000_1010010_1111111, .noRow), (0b0_1111111_000_0_0_00000_1010010_1111111, .noRow)] = true := by decide +kernel

/-- R25, R40: bytes come lowest first, and the word behind the first is left to the reader. -/
theorem test_decode_bytes : decode [0xCB, 0x92, 0x05, 0x01, 0x2A] = .ok (.sadd false 0 false 22 37 75, [0x2A]) := by rfl

/-- R27, R30: a lane selector where only a uniform one or an s register may stand, an s register in a v range, both sources the
literal, an immediate form with the literal, p7 as a destination and as the predicate of vsel. -/
theorem test_ill_formed_selectors : illFormed
  [.sadd false 7 false 0 3 64, .sadd false 7 false 0 64 97, .smov false 7 false 0 102, .sadd false 7 false 0 127 127,
   .vand false 7 false 0 127 127, .saddImm false 7 false 0 127 5, .scmp false 7 false 0 7 64 65, .vcmpI32 false 7 false 0 7 0 1,
   .ftest false 7 false 7 0, .vsel false 7 false 0 1 2, .ld false 7 false 0 3 0, .st false 7 0 96 0, .jmp 7 100, .aand false 7 false 0 3,
   .acas false 7 false 63 64, .cpy false 7 false 0 95 64, .gth false 7 false 0 94 0, .spawn false 7 false 0 93 64,
   .gth false 7 false 0 64 64, .xshuf false 7 false 0 64 0, .xrot false 7 false 0 0 0] = true := by decide +kernel

/-- Reserved values of the other fields: scopes (R234, R315), types, operations and codes (R112, R135, R136, R241, R278), masks without
an array (R150), modes (R139, R160), region 31 (R207), signals of no kind (R319) and ranges beyond v63 (R137, R138). -/
theorem test_ill_formed_fields : illFormed
  [.fence false 7 0, .fence false 7 6, .acq false 7 64 7, .aadd false 7 false 0 64 3, .xreduce false 7 false 0 0 3 1,
   .xreduce false 7 false 0 0 1 0, .xreduce false 7 false 0 0 1 3, .xscan false 7 false 0 0 false 0 6, .cvtEnc false 7 false 0 0 0 8,
   .cvtDec false 7 false 0 0 2 11, .plane false 7 false 0 0 3 1, .plane false 7 false 0 0 0 0, .plpack false 7 false 0 57 0,
   .plunpack false 7 false 0 60 4 0, .plunpack false 7 false 0 0 0 0, .mma false 7 0 0 64 false false false 0, .mwait false 7 3 1,
   .seal false 7 31, .bind false 7 31 64, .coll false 7 false 0 64 false 0 5, .coll false 7 false 0 64 false 3 0,
   .coll false 7 false 0 64 true 0 2, .bar false 7 64 1, .bar false 7 100 5, .barrive false 7 false 0 64 0] = true := by decide +kernel

/-- A step of the device has no word. -/
theorem test_ill_formed_events : illFormed [.parkEnd 0 0, .repeatIssue 0 0, .repctlWrite 0] = true := by decide +kernel

/-- The same words with a value that is allowed. -/
theorem test_well_formed : [Instr.sadd false 7 false 0 127 64, .smov false 7 false 0 127, .vsel false 6 false 0 1 2, .aand false 7 false 0 62,
   .cpy false 7 false 0 94 64, .gth false 7 false 0 93 63, .spawn false 7 false 0 92 64, .fence false 7 5, .xreduce false 7 false 0 0 0 5,
   .cvtDec false 7 false 0 0 1 11, .plpack false 7 false 0 56 7, .plunpack false 7 false 0 60 3 0, .mwait false 7 2 8, .seal false 7 30,
   .bar false 7 100 1, .bar false 7 64 5].all (fun i => (encode i).isSome && i.fieldsOk) = true := by decide +kernel

end Sys2Proof.Tests

namespace Sys2Proof.Machine

/-! ### Small machines -/

/-- Register s_n of the crew, register v_n of thread t, and predicate n of thread t of workgroup 1 set. -/
def State.setS (s : State) (n : Nat) (v : Dbl) : State := s.modWg 1 fun w => w.modCrew 0 fun c => c.setS n v
def State.setV (s : State) (t n : Nat) (v : Word32) : State := s.modWg 1 fun w => w.modThread t fun x => x.setReg n v
def State.setAllV (s : State) (n : Nat) (v : Word32) : State := s.modWg 1 fun w => w.modThreads (List.range 16) fun x => x.setReg n v
def State.setP (s : State) (t n : Nat) : State := s.modWg 1 fun w => w.modThread t fun x => { x with p := setBit x.p n true }
def State.setK (s : State) (f : Crew → Crew) : State := s.modWg 1 fun w => w.modCrew 0 f
def State.setStarter (s : State) (n : Nat) (v : Dbl) : State := s.modStarter 0 fun k => { k with s := k.s.set n v }

/-- One 64 KiB page at 0x10000 in the core's TLB, onto itself. -/
def State.paged (s : State) : State := s.modCore 0 fun k => { k with tlb := tlbFill k.tlb { func := 0, s1 := 0, s2 := 0 } 0x10000 ⟨0x10000, 0x10000, true, true, true⟩ }

/-- Tables of both stages that map the first GiB onto itself (R197): stage 2 from 0x1000, stage 1 from 0x3000. -/
def State.tables (s : State) : State :=
  { s with mem := (((s.mem.setDbl 0x1000 0x2003).setDbl 0x2000 0x1D).setDbl 0x3000 0x4003).setDbl 0x4000 0x1D }

end Sys2Proof.Machine

namespace Sys2Proof.Tests

/-- Workgroup 1, one crew of 16 threads at word 0 of frame 0 of core 0, beside a starter of quad 0 that idles. -/
def base : State := State.reset.loadCode [filler, filler, filler]

/-- The same with quad 0's starter at word 0 of its code. -/
def starterBase : State := State.reset.loadStarter [filler, filler, filler]

/-- All 16 threads of workgroup 1 issue a one-word group at word 0, with this literal. -/
def isG (lit : Word32) : Issue := issueAt (.group 1) (List.range 16) { frame := false, word := 0 } (.vmov false 7 false 0 0) lit 100 none none

/-- Quad 0's starter issues the word at word 0. -/
def isS (lit : Word32) : Issue := issueAt (.starter 0) [] { frame := false, word := 0 } (.vmov false 7 false 0 0) lit 100 none none

def group (s : State) (lit : Word32) : State := { s with cur := some (isG lit) }

def starting (s : State) (lit : Word32) : State := { s with cur := some (isS lit) }

/-- Workgroup 1 is issuing in s, and the condition holds of it. -/
def meets (s : State) (c : State → Issue → Wg → Bool) : Bool :=
  match (group s 0).wg? 1 with
  | some w => decide (w.id = 1) && c (group s 0) (isG 0) w
  | none => false

/-- Quad 0's starter is issuing in s, and the condition holds of it. -/
def meetsS (s : State) (c : State → Issue → Nat → Starter → Bool) : Bool := c (starting s 0) (isS 0) 0 ((starting s 0).starter 0)

/-- What meets shows: hypotheses of the form of the statements that hold together. -/
theorem meets_issues (s : State) (c : State → Issue → Wg → Bool) (h : meets s c = true) :
    ∃ (u : State) (is : Issue) (w : Wg), Issues u is w ∧ c u is w = true := by
  unfold meets at h
  split at h
  · rename_i w hw
    simp only [Bool.and_eq_true, decide_eq_true_eq] at h
    exact ⟨group s 0, isG 0, w, ⟨rfl, by rw [h.1]; rfl, by rw [show (group s 0).reading = (group s 0).wg? 1 from rfl]; exact hw⟩, h.2⟩
  · cases h

theorem meetsS_issues (s : State) (c : State → Issue → Nat → Starter → Bool) (h : meetsS s c = true) :
    ∃ (u : State) (is : Issue) (q : Nat) (k : Starter), StarterIssues u is q k ∧ c u is q k = true :=
  ⟨starting s 0, isS 0, 0, (starting s 0).starter 0, ⟨rfl, rfl, rfl⟩, h⟩

/-- The workgroup after a word, with its pending results written. -/
def afterG (s : State) (i : Instr) (lit : Word32) : Option Wg :=
  match exec i (group s lit) with
  | .next t => (t.wg? 1).map fun w => w.pend.foldl (fun (w : Wg) p => w.write p.v p.s p.p p.flags) w
  | _ => none

/-- After a word of the group: register s_n, register v_n and predicate n of thread t, and the flag word. -/
def gotS (s : State) (i : Instr) (lit : Word32) (n : Nat) : Option Dbl := (afterG s i lit).bind fun w => (w.crew? 0).map fun c => c.sreg n
def gotV (s : State) (i : Instr) (lit : Word32) (t n : Nat) : Option Word32 := (afterG s i lit).bind fun w => (w.thread? t).map fun x => x.reg n
def gotP (s : State) (i : Instr) (lit : Word32) (t n : Nat) : Option Bool := (afterG s i lit).bind fun w => (w.thread? t).map fun x => x.p.getLsbD n
def gotF (s : State) (i : Instr) (lit : Word32) : Option (BitVec 8) := (afterG s i lit).bind fun w => (w.crew? 0).map fun c => c.flags
def gotPc (s : State) (i : Instr) (t : Nat) : Option Nat := (afterG s i 0).bind fun w => (w.thread? t).map fun x => x.pc.word.toNat

/-! ### Results, from the words of the rules -/

/-- R72: a sum wraps at 64 bits; smulh takes the upper half of a signed product; sshl by 64 gives 0 and ssra by 64 all sign bits. -/
theorem test_scalar_add_wraps : gotS ((base.setS 1 0xFFFFFFFFFFFFFFFF).setS 2 2) (.sadd false 7 false 5 65 66) 0 5 = some 1 := by decide +kernel
theorem test_scalar_mulh_signed :
    gotS ((base.setS 1 0xFFFFFFFFFFFFFFFF).setS 2 2) (.smulh false 7 false 5 65 66) 0 5 = some 0xFFFFFFFFFFFFFFFF := by decide +kernel
theorem test_scalar_shl_64 : gotS ((base.setS 1 3).setS 2 64) (.sshl false 7 false 5 65 66) 0 5 = some 0 := by decide +kernel
theorem test_scalar_sra_64 :
    gotS ((base.setS 1 0x8000000000000000).setS 2 64) (.ssra false 7 false 5 65 66) 0 5 = some 0xFFFFFFFFFFFFFFFF := by decide +kernel

/-- R73: −7 / 2 truncates to −3; x / 0 gives 0 and DIVZ (bit 5); −2^63 / −1 gives −2^63. -/
theorem test_sdiv_truncates :
    gotS ((base.setS 1 0xFFFFFFFFFFFFFFF9).setS 2 2) (.sdiv false 7 false 5 65 66) 0 5 = some 0xFFFFFFFFFFFFFFFD := by decide +kernel
theorem test_sdiv_corners :
    gotS (base.setS 1 9) (.sdiv false 7 false 5 65 66) 0 5 = some 0 ∧ gotF (base.setS 1 9) (.sdiv false 7 false 5 65 66) 0 = some 0x20 ∧
    gotS ((base.setS 1 0x8000000000000000).setS 2 0xFFFFFFFFFFFFFFFF) (.sdiv false 7 false 5 65 66) 0 5 = some 0x8000000000000000 := by
  decide +kernel

/-- R74 to R78: a literal is sign-extended; slit.hi keeps the lower half; IMM14 and IMM7 are signed; saddr adds four times b. -/
theorem test_smov_literal : gotS base (.smov false 7 false 5 127) 0x80000000 5 = some 0xFFFFFFFF80000000 := by decide +kernel
theorem test_slit_hi : gotS ((base.setS 5 0x11111111_22222222).setS 1 0xAAAAAAAA_BBBBBBBB) (.slitHi false 7 false 5 65) 0 5 =
    some 0xBBBBBBBB_22222222 := by decide +kernel
theorem test_sli_negative : gotS base (.sli false 7 false 5 0x3FFF) 0 5 = some 0xFFFFFFFFFFFFFFFF := by decide +kernel
theorem test_sadd_imm : gotS (base.setS 1 10) (.saddImm false 7 false 5 65 0x7F) 0 5 = some 9 := by decide +kernel
theorem test_saddr : gotS ((base.setS 1 100).setS 2 0xFFFFFFFF) (.saddr false 7 false 5 65 66) 0 5 = some 96 := by decide +kernel
theorem test_sclz_spop : gotS base (.sclz false 7 false 5 65) 0 5 = some 64 ∧
    gotS (base.setS 1 0x10) (.sclz false 7 false 5 65) 0 5 = some 59 ∧ gotS (base.setS 1 0xF0F) (.spop false 7 false 5 65) 0 5 = some 8 := by
  decide +kernel

/-- R75: ssel looks at the old destination; W = 1 keeps it. -/
theorem test_ssel : gotS (((base.setS 1 10).setS 2 20).setS 5 1) (.ssel false 7 false 5 65 66) 0 5 = some 10 ∧
    gotS ((base.setS 1 10).setS 2 20) (.ssel false 7 false 5 65 66) 0 5 = some 20 ∧
    gotS ((base.setS 1 10).setS 2 20) (.ssel false 7 true 5 65 66) 0 5 = some 0 := by decide +kernel

/-- R80, R81: 2 is signed less than, 4 unsigned. -/
theorem test_scmp : gotP (base.setS 1 0xFFFFFFFFFFFFFFFF) (.scmp false 7 false 2 3 65 66) 0 9 3 = some true ∧
    gotP (base.setS 1 0xFFFFFFFFFFFFFFFF) (.scmp false 7 false 4 3 65 66) 0 9 3 = some false := by decide +kernel

/-- R31: a thread whose guard predicate is 0 writes nothing. -/
theorem test_guard : gotV ((base.setP 3 2).setAllV 1 7) (.vmov false 2 false 5 1) 0 3 5 = some 7 ∧
    gotV ((base.setP 3 2).setAllV 1 7) (.vmov false 2 false 5 1) 0 4 5 = some 0 := by decide +kernel

/-- R28, R29: k.lane is the thread's place in its crew, an s register gives its lower half, 114 is 1.0 and 122 is π. -/
theorem test_lane_sources : gotV base (.vaddI32 false 7 false 5 102 101) 0 9 5 = some 10 ∧
    gotV (base.setS 1 0x5_00000006) (.vmov false 7 false 5 65) 0 0 5 = some 6 ∧ gotV base (.vmov false 7 false 5 114) 0 0 5 = some 0x3F800000 ∧
    gotV base (.vmov false 7 false 5 122) 0 0 5 = some 0x40490FDB := by decide +kernel

/-- R88: mulh is signed for i32 and unsigned for n32; mad adds the old destination; a shift by 32 gives 0. -/
theorem test_vector_mulh : gotV (base.setV 0 1 0xFFFFFFFF) (.vmulhI32 false 7 false 5 1 106) 0 0 5 = some 0xFFFFFFFF ∧
    gotV (base.setV 0 1 0xFFFFFFFF) (.vmulhN32 false 7 false 5 1 106) 0 0 5 = some 1 := by decide +kernel
theorem test_vector_mad : gotV ((base.setV 0 1 5).setV 0 5 100) (.vmadI32 false 7 false 5 1 106) 0 0 5 = some 110 := by decide +kernel
theorem test_vector_shift : gotV ((base.setV 0 1 5).setV 0 2 32) (.vshl false 7 false 5 1 2) 0 0 5 = some 0 := by decide +kernel
theorem test_vector_clamp : gotV (((base.setV 0 1 0xFFFFFFFE).setV 0 2 4).setV 0 5 9) (.vclampI32 false 7 false 5 1 2) 0 0 5 = some 4 := by
  decide +kernel

/-- R89: −(−2^31) and |−2^31| give 2^31 − 1 and SAT (bit 4). R90: vsel takes b where the predicate is 0. -/
theorem test_vneg_saturates : gotV (base.setV 0 1 0x80000000) (.vnegI32 false 7 false 5 1) 0 0 5 = some 0x7FFFFFFF ∧
    gotF (base.setV 0 1 0x80000000) (.vnegI32 false 7 false 5 1) 0 = some 0x10 := by decide +kernel
theorem test_vsel : gotV (base.setP 3 2) (.vsel false 2 false 5 106 101) 0 3 5 = some 2 ∧
    gotV (base.setP 3 2) (.vsel false 2 false 5 106 101) 0 4 5 = some 1 := by decide +kernel

/-- R93, R95: 1 + 2^−24 is a tie and rounds to the even 1, with NX (bit 3); 2^127 × 2 overflows to ∞ with OF and NX. -/
theorem test_float_add_ties : gotV (base.setV 0 1 0x33800000) (.vaddF32 false 7 false 5 114 1) 0 0 5 = some 0x3F800000 ∧
    gotF (base.setV 0 1 0x33800000) (.vaddF32 false 7 false 5 114 1) 0 = some 0x08 := by decide +kernel
theorem test_float_mul_overflow : gotV (base.setV 0 1 0x7F000000) (.vmulF32 false 7 false 5 1 117) 0 0 5 = some 0x7F800000 ∧
    gotF (base.setV 0 1 0x7F000000) (.vmulF32 false 7 false 5 1 117) 0 = some 0x0A := by decide +kernel
theorem test_float_sub_inf : gotV base (.vsubF32 false 7 false 5 118 118) 0 0 5 = some 0x7FC00000 ∧
    gotF base (.vsubF32 false 7 false 5 118 118) 0 = some 0x01 := by decide +kernel
/-- The product is not rounded: (1 + 2^−12)^2 − (1 + 2^−11) is 2^−24. -/
theorem test_float_fma_exact : gotV ((base.setV 0 1 0x3F800800).setV 0 5 0xBF801000) (.vfmaF32 false 7 false 5 1 1) 0 0 5 =
    some 0x33800000 := by decide +kernel

/-- R91: −0 equals +0; an ordered compare of a quiet NaN is false with NV; ne is true without. -/
theorem test_vcmp_float : gotP (base.setV 0 1 0x80000000) (.vcmpF32 false 7 false 0 3 1 100) 0 0 3 = some true ∧
    gotP base (.vcmpF32 false 7 false 2 3 121 100) 0 0 3 = some false ∧ gotF base (.vcmpF32 false 7 false 2 3 121 100) 0 = some 1 ∧
    gotP base (.vcmpF32 false 7 false 1 3 121 100) 0 0 3 = some true ∧ gotF base (.vcmpF32 false 7 false 1 3 121 100) 0 = some 0 := by
  decide +kernel

/-- R109 to R113: lane 15 rotates to lane 0; the ballot of lanes above 7; 16 lanes of 1 add up to 16; the exclusive scan of lane 3 is 3. -/
theorem test_cross_lane : gotV ((base.setV 0 1 5).setV 15 1 6) (.xrot false 7 false 5 1 101) 0 14 5 = some 6 ∧
    gotV ((base.setV 0 1 5).setV 15 1 6) (.xrot false 7 false 5 1 101) 0 15 5 = some 5 ∧
    gotS (base.setV 9 1 1) (.xvote false 7 false 5 1 0) 0 5 = some 0x200 ∧
    gotV (base.setAllV 1 1) (.xreduce false 7 false 5 1 0 0) 0 7 5 = some 16 ∧
    gotV (base.setAllV 1 1) (.xscan false 7 false 5 1 true 0 0) 0 3 5 = some 3 := by decide +kernel

/-- R137: bit i of plane 0 is the top bit of byte i AND 3 of v(8 + i / 4). -/
theorem test_plpack : gotV (base.setV 0 8 0x80000080) (.plpack false 7 false 5 8 0) 0 0 5 = some 0x9 := by decide +kernel

/-- R197: a two-stage walk of 1 GiB leaves; without tables page 16 needs service at stage 2, on the page of the first table. -/
theorem test_walk : (base.tables.walkFor 0 { func := 0, s1 := 0x3000, s2 := 0x1000 } 0x12345678 1).1 = .ok ⟨0, 2 ^ 30, true, true, true⟩ ∧
    (base.walkFor 0 { func := 0, s1 := 0x3000, s2 := 0x1000 } 0x10000 0).1 = .service 2 3 := by decide +kernel

/-! ### Hypotheses that are met

For each statement with hypotheses, states and operands that meet them together, clause by clause (meets_issues, meetsS_issues). -/

theorem wit_ScalarBinaryResults :
    meets base (fun _ is w => active is w 7 != []) = true ∧ meets base (fun _ is w => active is w 0 == []) = true ∧
    meetsS starterBase (fun _ _ _ k => guardOn k.p 7) = true ∧ meetsS starterBase (fun _ _ _ k => !guardOn k.p 0) = true ∧
    meets ((base.setS 1 0x8000000000000000).setS 2 0xFFFFFFFFFFFFFFFF) (fun s is w =>
      decide (uniSrc s is w 65 = 0x8000000000000000 ∧ uniSrc s is w 66 = 0xFFFFFFFFFFFFFFFF)) = true := by decide +kernel

theorem wit_ScalarUnaryAndImmediates : meets (base.setS 5 1) (fun _ is w => active is w 7 != [] && uniS is w 5 != 0) = true ∧
    meetsS (starterBase.setStarter 5 1) (fun _ _ _ k => guardOn k.p 7 && k.s.getD 5 0 != 0) = true := by decide +kernel

theorem wit_ScalarUnaryAndImmediates_imm : meets (base.setS 1 5) (fun s is w => active is w 7 != [] && uniSrc s is w 65 == 5) = true ∧
    meetsS starterBase (fun _ _ _ k => guardOn k.p 7) = true := by decide +kernel

theorem wit_ScalarCompare : meets base (fun _ is w => active is w 7 == List.range 16) = true ∧
    meetsS starterBase (fun _ _ _ k => guardOn k.p 7) = true ∧ meetsS starterBase (fun _ _ _ k => !guardOn k.p 3) = true := by decide +kernel

theorem wit_VectorIntegerResults : meets (base.setP 3 2) (fun _ is w => active is w 2 == [3]) = true := by decide +kernel

theorem wit_VectorUnaryAndSelect : meets (base.setP 3 2) (fun _ is w => match w.thread? 3 with
    | some k => k.p.getLsbD 2 && is.threads == List.range 16 | none => false) = true := by decide +kernel

theorem wit_VectorFloatResults : meets (base.setV 0 1 0x3F800000) (fun s is w => (laneSrc s is w 0 1).1 == 0x3F800000) = true := by decide +kernel

/-- A signalling and a quiet NaN, 0 × ∞, and infinities of both signs. -/
theorem wit_FloatSpecialCases : (f32Val (laneMode (loadWg 1 0) 0) 0x7F800001).isSnan = true ∧
    ((f32Val (laneMode (loadWg 1 0) 0) 0x7FC00000).isSnan = false ∧ (f32Val (laneMode (loadWg 1 0) 0) 0x7FC00000).isNan = true) ∧
    (∃ e, f32Val (laneMode (loadWg 1 0) 0) 0 = .fin false 0 e) ∧ f32Val (laneMode (loadWg 1 0) 0) 0x7F800000 = .inf false ∧
    f32Val (laneMode (loadWg 1 0) 0) 0xFF800000 = .inf (!false) := by
  refine ⟨?_, ?_, ⟨_, rfl⟩, ?_, ?_⟩ <;> decide +kernel

theorem wit_VectorCompare : meets base (fun _ is w => active is w 7 != []) = true := by decide +kernel

theorem wit_VectorFloatResults_special : meets (base.setV 0 1 0x40800000) (fun s is w => (laneSrc s is w 0 1).1 == 0x40800000) = true := by
  decide +kernel

/-- All members are here, with all lanes active or one. -/
theorem wit_CrossLaneResults : meets base (fun _ is w => xHere is w && active is w 7 == List.range 16) = true ∧
    meets (base.setP 15 6) (fun _ is w => xHere is w && active is w 6 == [15]) = true := by decide +kernel

/-- A finite sum of values of opposite signs, a product below the normal range and one above it; an exact zero sum. -/
theorem wit_FloatRounding : (∃ e, f32Val (fpMode 0) 0x3F800000 = .fin false (2 ^ 23) e) ∧ (∃ e, f32Val (fpMode 2) 0xBF800000 = .fin true (2 ^ 23) e) ∧
    (fpMode 4).ftz = true ∧ (fpMode 3).rm < 4 ∧ (fpMode 3).ftz = false ∧
    (f32Add (fpMode 2) 0x3F800000 0xBF800000).1 = 0x80000000 ∧ (f32Mul (fpMode 4) 0x00800000 0x3F000000) = (0, 0xC) ∧
    (f32Mul (fpMode 1) 0x7F000000 0x40800000) = (0x7F7FFFFF, 0xA) := by
  refine ⟨⟨_, rfl⟩, ⟨_, rfl⟩, ?_, ?_, ?_, ?_, ?_, ?_⟩ <;> decide +kernel

/-- Every kind of special input; the reciprocal of 2 and of 2^−127; 1/√4; 2^−126 and 2^127; the logarithm of 8. -/
theorem wit_SpecialInputs : f32Val plainMode 0x7F800001 = .nan true ∧ f32Val plainMode 0xFF800000 = .inf true ∧
    (∃ e, f32Val plainMode 0xC0000000 = .fin true (2 ^ 23) e) ∧ (∃ e, f32Val plainMode 0x80000000 = .fin true 0 e) ∧
    (∃ e, f32Val plainMode 0 = .fin false 0 e) ∧ f32Val plainMode 0x7F800000 = .inf false ∧
    (specialValue 8 plainMode 0xC0000000).1 = 0xBF000000 ∧ (specialValue 8 plainMode 0x00400000).1 = 0x7F000000 ∧
    (specialValue 9 plainMode 0x40800000).1 = 0x3F000000 ∧ (specialValue 11 plainMode 0xC2FC0000).1 = 0x00800000 ∧
    (specialValue 11 plainMode 0x42FE0000).1 = 0x7F000000 ∧ (specialValue 12 plainMode 0x41000000).1 = 0x40400000 ∧
    (specialValue 11 plainMode 0x43000000).1 = 0x7F800000 ∧ (specialValue 11 plainMode 0xC3160001).1 = 0 := by
  refine ⟨?_, ?_, ⟨_, rfl⟩, ⟨_, rfl⟩, ⟨_, rfl⟩, ?_, ?_, ?_, ?_, ?_, ?_, ?_, ?_, ?_⟩ <;> decide +kernel

/-- A positive value that is no square and a negative one, under every rounding mode. -/
theorem wit_SpecialBounds : (∃ e, f32Val (fpMode 1) 0x40000000 = .fin false (2 ^ 23) e) ∧ (∃ e, f32Val (fpMode 3) 0xC0400000 = .fin true (3 * 2 ^ 22) e) ∧
    (fpMode 1).ftz = false ∧ (fpMode 3).rm < 4 ∧ specialValue 10 (fpMode 0) 0x40000000 = (0x3FB504F3, 8) ∧
    specialValue 10 (fpMode 3) 0x40000000 = (0x3FB504F4, 8) := by
  refine ⟨⟨_, rfl⟩, ⟨_, rfl⟩, ?_, ?_, ?_, ?_⟩ <;> decide +kernel

/-- One member stands at another word, and the others issue. -/
theorem wit_CrossLaneResults_parks : (let s := base.modWg 1 fun w => w.modThread 15 fun t => { t with pc := { frame := false, word := 1 } }
    let is := { isG 0 with threads := List.range 15 }
    let u : State := { s with cur := some is }
    match u.wg? 1 with | some w => decide (is.who = .group w.id) && !xHere is w | none => false) = true := by decide +kernel

theorem wit_ConversionsAndPlanes : meets base (fun s _ w => !cvtsSlotOk (wgSlot s w 0)) = true ∧
    meets ({ base with grids := base.grids.map fun g => { g with fslots := List.replicate 8 [0x9, 0, 0, 0] } } : State)
      (fun s _ w => cvtsSlotOk (wgSlot s w 7) && partOk (slotCode (wgSlot s w 7)) 3) = true := by decide +kernel

/-- A free REPCTL; one with repeats to come, and one at its last. -/
theorem wit_RepeatControl : meets base (fun _ _ w => match w.crew? 0 with | some k => !k.repctl.getLsbD 31 | none => false) = true ∧
    (let s := base.setK fun k => { k with repctl := 0x80000040, repThreads := [0, 1] }
     match s.wg? 1 with
     | some w => (match w.crew? 0 with
       | some k => decide (k.repThreads.Nodup ∧ (k.repctl.extractLsb' 0 6).toNat < (k.repctl.extractLsb' 6 6).toNat) | none => false)
     | none => false) = true ∧
    (let s := base.setK fun k => { k with repctl := 0x80000041, repThreads := [0, 1] }
     match s.wg? 1 with
     | some w => (match w.crew? 0 with
       | some k => decide (k.repThreads.Nodup ∧ (k.repctl.extractLsb' 0 6).toNat ≥ (k.repctl.extractLsb' 6 6).toNat) | none => false)
     | none => false) = true := by decide +kernel

/-- mclaim of one free slot with one line, with a claimed slot in the way, with no slot named and with bit 15 set; queues with room and full;
a check that comes back; a heat with columns. -/
theorem wit_OperandSlotAndQueueWords :
    meetsS (starterBase.setStarter 1 1) (fun s is q k => guardOn k.p 7 && (starterSrc s is q k 65).toNat % 256 == 1 &&
      decide (((s.core 0).slot 0).state = .free)) = true ∧
    meetsS ((starterBase.setStarter 1 1).modCore 0 fun k => k.modSlot 0 fun x => { x with state := .claimed }) (fun s is q k =>
      (starterSrc s is q k 65).toNat % 256 == 1 && decide (((s.core 0).slot 0).state ≠ .free)) = true ∧
    meetsS starterBase (fun s is q k => (starterSrc s is q k 65).toNat % 256 == 0) = true ∧
    meetsS (starterBase.setStarter 1 0x8001) (fun s is q k => decide ((starterSrc s is q k 65).toNat ≥ 2 ^ 15)) = true ∧
    meetsS starterBase (fun s _ _ _ => [0, 1, 2, 3].all fun i => decide ((s.core (quadCore 0 i)).queue.length < 4)) = true ∧
    meetsS (starterBase.modCore 0 fun k => { k with queue := List.replicate 4 ⟨9, .check false, 1, 0, 0, true, [], none, false, false, 0⟩ })
      (fun s _ _ _ => decide ((s.core 0).queue.length = 4)) = true ∧
    meetsS (starterBase.modStarter 0 fun k => { k with mark := some 6 }) (fun _ _ _ k => k.mark == some 6) = true ∧
    meetsS ({ starterBase with grids := starterBase.grids.map fun g => { g with hcols := 2, hrows := 2 } } : State)
      (fun s _ _ k => match s.starterGrid k with | some g => g.hcols == 2 | none => false) = true ∧
    meetsS starterBase (fun s _ _ k => match s.starterGrid k with | some g => g.hcols == 0 | none => false) = true ∧
    (let k := (starterBase.core 0).modSlot 3 fun x => { x with state := .full, readers := 1 }
     (k.slot 3).state = .full ∧ (k.slot 3).readers ≠ 0) := by decide +kernel

/-- The starter's machine with format slots 1 to 3 of code 4, operand slots 0 and 1 of core 0 full, and 64 KiB of scratchpad. -/
def matrixBase : State :=
  ({ starterBase with
     grids := starterBase.grids.map fun g => { g with fslots := [[0, 0, 0, 0], [4, 0, 0x3F800000, 0], [4, 0, 0x3F800000, 0], [4, 0, 0x3F800000, 0]] },
     wgs := starterBase.wgs.map fun w => { w with scratchBytes := 65536 } } : State).modCore 0 fun k =>
    (k.modSlot 0 fun x => { x with state := .full, lines := 128 }).modSlot 1 fun x => { x with state := .full, lines := 128 }

/-- A macro-operation that has entered core 0's queue. -/
def macroItem (k : MacroKind) : MacroOp := ⟨9, k, 1, 0, 0, true, [], none, false, false, 0⟩

/-- An mma of one chunk from slots 0 and 1 is accepted and one from slots 0 and 0 is not; with room and without; a drain that fits at the top
of the allocation, one line more, and one with a reserved bit. -/
theorem wit_MacroOperationWords :
    meetsS (matrixBase.setStarter 1 0x08) (fun s is q k =>
      s.mmaOk (s.starterGrid k) [0] 1 2 true false (starterSrc s is q k 65) && guardOn k.p 7 &&
      (match s.starterGrid k with | some g => g.pin == 0 | none => false) && decide ((s.core 0).queue.length < 4)) = true ∧
    meetsS matrixBase (fun s is q k => !s.mmaOk (s.starterGrid k) [0] 1 2 true false (starterSrc s is q k 65)) = true ∧
    meetsS ((matrixBase.setStarter 1 0x08).modCore 0 fun k => { k with queue := List.replicate 4 (macroItem (.check false)) }) (fun s is q k =>
      s.mmaOk (s.starterGrid k) [0] 1 2 true false (starterSrc s is q k 65) && decide ((s.core 0).queue.length = 4)) = true ∧
    (let n := 448
     meetsS (matrixBase.setStarter 1 448) (fun s is q k => (starterSrc s is q k 65).toNat == n && slotCode (gridSlot (s.starterGrid k) 1) != 0 &&
       slotSmode (gridSlot (s.starterGrid k) 1) == 0 && tileBytes (slotCode (gridSlot (s.starterGrid k) 1)) == 8192 &&
       (s.drainBad q 1 n 0 8192 none 1).isNone) = true) ∧
    meetsS (matrixBase.setStarter 1 449) (fun s _ q _ => (s.drainBad q 1 449 0 8192 none 1).isSome) = true ∧
    meetsS (matrixBase.setStarter 1 0x10000000000) (fun s is q k => decide (2 ^ 40 ≤ (starterSrc s is q k 65).toNat)) = true := by decide +kernel

/-- One operation of each kind alone in core 0's queue, an mma with and without its token; a slot that scrubs; canonical memory. -/
theorem wit_SequencerSteps :
    (let s (o : MacroOp) := matrixBase.modCore 0 fun k => { k with queue := [o] }
     let ok (s : State) (o : MacroOp) := (s.core 0).queue == [o] && o.entered && o.started.isNone && !o.stepsDone
     ok (s (macroItem (.zero true false))) (macroItem (.zero true false)) && ok (s (macroItem (.check true))) (macroItem (.check true)) &&
     ok (s (macroItem (.heat true 3 2))) (macroItem (.heat true 3 2)) &&
     ok (s (macroItem (.drain false false 1 0 0 0 0 false false false 0 0))) (macroItem (.drain false false 1 0 0 0 0 false false false 0 0)) &&
     (let o := macroItem (.mma false 1 2 0 1 1 true false)
      ok (s o) o && !((s o).core 0).asked && decide ((((s o).modCore 0 fun k => { k with token := k.token.takeBack }).core 0).token = .none) &&
      (let u := (s o).modCore 0 fun k => { k with token := .work }
       decide ((u.core 0).token ≠ .none) && u.mmaReady 0 o (u.core 0).nextc))) = true ∧
    (((matrixBase.modCore 0 fun k => k.modSlot 7 fun x => { x with state := .scrub }).core 0).slot 7).state = .scrub ∧
    ((Memory.setWord [] 126 5).wf = true) := by decide +kernel

/-- An integer bank whose rows and columns from n on are excluded from the check. -/
def narrowBank (n : Nat) (acc : List (Nat × Word32)) : Bank :=
  { Bank.reset with int := true, acc := acc, exRows := (List.range (128 - n)).map (· + n), exCols := (List.range (64 - n)).map (· + n) }

/-- The row step of an mma at its first row, its last, the last of a chunk before others (streamed and not), and after the last chunk; a
streamed row that is absent; an mma that is done; a bank that passes its check, one that a correction mends (first and second time), and one
that does not; a drain line to write, and one behind the last. -/
theorem wit_MmaRowsAndChecks :
    (let o (kc : Nat) (st : Bool) : MacroOp := { macroItem (.mma false 1 2 0 1 kc true st) with started := some 0 }
     let s (nc nr kc : Nat) (st : Bool) := matrixBase.modCore 0 fun k => { k with queue := [o kc st], nextc := nc, nextrow := nr }
     let at' (nc nr kc : Nat) (st : Bool) := decide (stepping ((s nc nr kc st).core 0).queue = some (o kc st)) &&
       decide (((s nc nr kc st).core 0).nextc = nc) && decide (((s nc nr kc st).core 0).nextrow = nr)
     let absent := (rowLinesA (chunkOf ((s 0 0 1 true).grid? 1) 1 2 0 1 0) 0).all ((s 0 0 1 true).core 0).lineFull
     let u := (s 0 127 2 true).modCore 0 fun k => { k with valid := (List.range 256).map fun l => (l, 0xFFFFFFFF) }
     let there := (rowLinesA (chunkOf (u.grid? 1) 1 2 0 1 0) 127).all (u.core 0).lineFull
     at' 0 0 1 false && at' 0 126 1 false && at' 0 127 1 false && at' 0 127 2 false && at' 0 127 2 true && at' 1 0 1 false && !absent && there) = true ∧
    ({ macroItem (.mma false 1 2 0 1 1 true false) with stepsDone := true } : MacroOp).kind.isMma = true ∧
    checkBank (narrowBank 1 []) true = .pass ∧
    (match checkBank (narrowBank 1 [(0, 5)]) true with | .corrected _ => true | _ => false) = true ∧
    checkBank (narrowBank 2 [(0, 5), (64, 7)]) true = .bad ∧
    (let s := matrixBase.modCore 0 fun k => { k with queue := [macroItem (.drain false false 1 0 0 0 0 false false true 0 0)] }
     s.ops == [] && (s.core 0).absent == [] && checkBank ((s.core 0).bank 0) false == .pass &&
     decide (128 * 63 < tileBytes (slotCode (gridSlot (s.grid? 1) 1))) && decide (128 * 64 ≥ tileBytes (slotCode (gridSlot (s.grid? 1) 1)))) =
      true := by decide +kernel

/-- A misaligned lane beside one beyond the end; a lane at the end, one just below it; one that is not canonical. -/
theorem wit_AddressCauses :
    (∃ l ∈ [laneAcc 3 6 0 0, laneAcc 4 4096 0 0], l.ea % 4 ≠ 0) ∧
    ((∀ l ∈ [laneAcc 3 4092 0 0, laneAcc 4 4096 0 0], l.ea % 4 = 0) ∧ ∃ l ∈ [laneAcc 3 4092 0 0, laneAcc 4 4096 0 0], l.ea ≥ 4096) ∧
    (∀ l ∈ [laneAcc 3 4092 0 0], l.ea % 4 = 0 ∧ l.ea < 4096) ∧ canonical (2 ^ 47) = false ∧ canonical (2 ^ 47 - 4) = true := by decide +kernel

/-- A workgroup in a heat of 2 by 1, the other member on core 1. -/
def heatBase : State :=
  { base with
    wgs := (base.wgs.map fun w => { w with heat := some 7, hcore := 0 }) ++ [{ loadWg 2 0 with grid := 1, core := 1, heat := some 7, hcore := 1, index := 1 }],
    grids := base.grids.map fun g => { g with hcols := 2, hrows := 1, count := 2 } }

/-- A line request, and an operation of workgroup 1. -/
def aLine (line pa : Nat) (st : LineSt) : LineReq :=
  { line := line, addr := pa, pa := some pa, st := st, merged := none, entry := true, threads := [0], bRouter := 0, bSlice := 0, bHbm := 0,
    veteran := false, promoted := 0, keys := [], arrived := 0, extra := 0, flags := [], data := [], fill := true }

def anOp (k : OpKind) (lanes : List LaneAcc) (lines : List LineReq) : MemOp :=
  { id := 9, kind := k, core := 0, wg := 1, node := 0, part := 0, ctx := ⟨0, 0, 0⟩, addr := ⟨false, 0⟩, first := ⟨false, 0⟩, next := ⟨false, 1⟩,
    threads := [0], lanes := lanes, latch := [], vdst := some 5, sdst := none, wb := true, lines := lines, a := 0, b := 0, c := 0, n := 0, m := 0,
    ranges := [], rep := none, phase := 0, fail := none, since := 0 }

/-- A request for line 5 of core 1's scratchpad. -/
def heatOp (k : OpKind) (st : LineSt) : State :=
  { heatBase with ops := [anOp k [⟨0, 640, some (2053 * 128), 3, 0, 0⟩] [aLine 2053 (2053 * 128) st]], clk := 20 }

/-- Offsets 4,092 and 4,096 of a 4 KiB allocation; a line that is absent; operand words of slots that are free and claimed; mload at the
last word of a claimed slot, behind it, misaligned, and into a free slot. -/
theorem wit_LocalLoadsAndStores :
    (let lanes (s : State) (is : Issue) (w : Wg) := offsetLanes s is w (active is w 7) 1 100 0
     meets (base.setAllV 1 4092) (fun s is w => active is w 7 != [] && offsetCause (lanes s is w) w.scratchBytes 3 == none &&
       s.absentLines w.core w.scratchBase ((lanes s is w).map fun l => l.ea) == []) &&
     meets ((base.setAllV 1 4092).modCore 0 fun k => { k with absent := [31] }) (fun s is w =>
       offsetCause (lanes s is w) w.scratchBytes 3 == none && s.absentLines w.core w.scratchBase ((lanes s is w).map fun l => l.ea) != []) &&
     meets (base.setAllV 1 4096) (fun s is w => (offsetCause (lanes s is w) w.scratchBytes 3).isSome) &&
     meets base (fun s is w => (s.operandCause w (lanes s is w) false).isSome && (s.operandCause w (lanes s is w) true).isSome) &&
     meets (base.modCore 0 fun k => k.modSlot 0 fun x => { x with state := .claimed, lines := 1 }) (fun s is w =>
       s.operandCause w (lanes s is w) true == none && s.operandCause w (lanes s is w) false == none) &&
     meets (base.setAllV 1 131072) (fun s is w => (s.operandCause w (lanes s is w) false).isSome)) = true ∧
    (let old (w : Wg) (t : Nat) := match w.thread? t with | some x => (x.reg 1).toNat | none => 0
     meets ((base.setAllV 1 16380).modCore 0 fun k => k.modSlot 2 fun x => { x with state := .claimed }) (fun s is w =>
       (active is w 7).all (fun t => decide (old w t % 4 = 0 ∧ old w t < 16384)) && decide (((s.core w.core).slot 2).state = .claimed)) &&
     meets (base.setAllV 1 16380) (fun s is w => (active is w 7).all (fun t => decide (old w t % 4 = 0 ∧ old w t < 16384)) &&
       decide (((s.core w.core).slot 2).state ≠ .claimed)) &&
     meets (base.setV 3 1 16384) (fun _ is w => (active is w 7).all (fun t => decide (old w t % 4 = 0)) && (active is w 7).any fun t =>
       decide (old w t ≥ 16384)) &&
     meets (base.setV 3 1 2) (fun _ is w => (active is w 7).any fun t => decide (old w t % 4 ≠ 0))) = true := by decide +kernel

/-- Offset 4,095 and 4,096 of the allocation, a line set in this clk; a window access of the own share, present and absent, of another's,
and outside; requests at the owner whose line is there and absent, new and answered; the word that an
absence notice means. -/
theorem wit_PresenceAndHeatWindow :
    (let off (s : State) (is : Issue) (w : Wg) (t : Nat) := (laneSrc s is w t 1).1.toNat
     meets (base.setAllV 1 4095) (fun s is w => (active is w 7).all fun t => decide (off s is w t < w.scratchBytes)) &&
     meets (base.setV 2 1 4096) (fun s is w => (active is w 7).any fun t => decide (off s is w t ≥ w.scratchBytes))) = true ∧
    (let lanes (s : State) (is : Issue) (w : Wg) := offsetLanes s is w (active is w 7) 1 100 0
     let own (s : State) (is : Issue) (w : Wg) := (lanes s is w).filterMap fun l => match s.windowPlace w l.ea with
       | some (x, byte) => if x = w.core then some byte else none
       | none => none
     let o (s : State) (is : Issue) (w : Wg) := s.windowOp is w .ldx (lanes s is w) (some 0) true
     meets heatBase (fun s is w => s.windowCause w (lanes s is w) == none && s.absentLines w.core 0 (own s is w) == [] && (o s is w).lines == []) &&
     meets (heatBase.modCore 0 fun k => { k with absent := [0] }) (fun s is w => s.windowCause w (lanes s is w) == none &&
       s.absentLines w.core 0 (own s is w) != []) &&
     meets (heatBase.setV 2 1 4096) (fun s is w => s.windowCause w (lanes s is w) == none && s.absentLines w.core 0 (own s is w) == [] &&
       (o s is w).lines != []) &&
     meets (heatBase.setV 2 1 2) (fun s is w => (s.windowCause w (lanes s is w)).isSome)) = true ∧
    (((heatOp .ldx .travelling).line? 9 2053).isSome && ((heatOp .stx .travelling).line? 9 2053).isSome &&
     decide (5 ∉ ((heatOp .ldx .travelling).core 1).absent) &&
     decide (5 ∈ (((heatOp .ldx .travelling).modCore 1 fun k => { k with absent := [5] }).core 1).absent) &&
     (match (heatOp .stx .travelling).line? 9 2053 with | some (o, l) => o.kind == .stx && decide (l.arrived = 0) | none => false) &&
     (match ((heatOp .stx .travelling).modLine 9 2053 fun l => { l with arrived := 3 }).line? 9 2053 with
      | some (o, l) => o.kind == .stx && decide (l.arrived ≠ 0) | none => false) &&
     ((heatOp .ldx .absent).ops.find? (fun o => o.core = 0 && o.kind == .ldx && o.lines.any fun l =>
       l.line = 1 * 2048 + 5 && l.st == .absent && decide (l.arrived + 20 ≤ (heatOp .ldx .absent).clk))).isSome) = true := by decide +kernel
/-- Workgroup 1 with s1 = 0x10000, a page of its own translated, beside an operation of it with one line at 0x10000. -/
def memBase : State := (base.setS 1 0x10000).paged

def lineOp (k : OpKind) (st : LineSt) : State :=
  { memBase with ops := [anOp k [⟨0, 0x10004, some 0x10004, 3, 0, 0⟩]
      [{ aLine 512 0x10000 st with bRouter := 3, bSlice := 3, bHbm := 3, keys := [⟨5, 0, none⟩], data := [7, 8] }]] }

/-- Addresses with their page in the TLB, with none, misaligned, and not canonical; a load whose one line is complete. -/
theorem wit_GenericLoads :
    (let lanes (s : State) (is : Issue) (w : Wg) := (active is w 7).map fun t =>
       laneAcc t ((uniSrc s is w 65 + (laneSrc s is w t 102).1.signExtend 64 * 4).toNat) 0 0
     meets memBase (fun s is w => active is w 7 != [] && addrCause (lanes s is w) == none &&
       (newOp s is w .load (lanes s is w) (some 5) none true).lines.all fun l => l.pa != none) &&
     meets (base.setS 1 0x10000) (fun s is w => addrCause (lanes s is w) == none &&
       (newOp s is w .load (lanes s is w) (some 5) none true).lines.any fun l => l.pa == none) &&
     meets (base.setS 1 0x10002) (fun s is w => (addrCause (lanes s is w)).isSome) &&
     meets (base.setS 1 0x800000000000) (fun s is w => (addrCause (lanes s is w)).isSome)) = true ∧
    (let s := lineOp .load .done
     match s.op? 9 with
     | some o => o.kind == .load && o.lines.all (fun l => l.st == .done) && o.lanes.all (fun a => o.lines.any fun l => l.line == a.ea / 128) &&
         decide ((o.lines.map fun l => l.line).Nodup)
     | none => false) = true ∧ ((lineOp (.prefetch true) .serving).line? 9 512).isSome = true := by decide +kernel

/-- A store to plain memory with a translation; to a sealed word; to an address of a page unknown; a log with room and one with none. -/
theorem wit_GenericStores :
    (let lanes (s : State) (is : Issue) (w : Wg) := (active is w 7).map fun t => laneAcc t ((uniSrc s is w 65).toNat) 0 0
     let o (s : State) (is : Issue) (w : Wg) := newOp s is w .store (lanes s is w) none none false
     meets memBase (fun s is w => active is w 7 != [] && addrCause (lanes s is w) == none && (o s is w).lines.all (fun l => l.pa != none) &&
       s.writeCause (o s is w).lanes == none && s.logRoom 0 9 (storeRecords (o s is w).lanes) 0) &&
     meets (memBase.modPart 0 fun p => { p with seals := [⟨0x10000, 128, { func := 0, s1 := 0, s2 := 0 }, [(0x10000, 128)]⟩] }) (fun s is w =>
       (o s is w).lines.all (fun l => l.pa != none) && (s.writeCause (o s is w).lanes).isSome) &&
     meets (base.setS 1 0x10000) (fun s is w => addrCause (lanes s is w) == none && (o s is w).lines.any fun l => l.pa == none) &&
     meets (memBase.modCore 0 fun k => { k with log := { k.log with tail := 104858 } }) (fun s is w =>
       !s.logRoom 0 9 (storeRecords (o s is w).lanes) 0)) = true ∧
    (let s : State := { lineOp .store .done with ops := (lineOp .store .done).ops.map (fun o => { o with phase := 1 }), clk := 256 }
     match s.op? 9 with | some o => o.kind == .store && o.phase == 1 && decide (o.since + 256 ≤ s.clk) | none => false) = true ∧
    (let r : Record := ⟨0, 1, 0xFF, 2048, [1, 2, 3, 4, 5, 6, 7, 8], 0, 0, false, false, false, 0⟩
     let s := memBase.modCore 0 fun k => { k with log := { k.log with recs := [r], tail := 1 } }
     s.ownRecs 0 = [] ++ r :: [] ∧ r.live = true ∧ r.wordAt 0x10004 = some 2) := by decide +kernel

/-- A request on its way, one that is queued past both bounds, one that has bounced, one held; a slice that has started four in the clk; one
whose eight reserved entries are in use and a veteran; two arrivals of one function from cores 0 and 1. -/
theorem wit_LineRequestSteps :
    ((lineOp .load .travelling).line? 9 512).isSome = true ∧ ((lineOp .load .bounced).line? 9 512).isSome = true ∧
    ((lineOp .load .held).line? 9 512).isSome = true ∧
    (let s : State := { lineOp .load .queued with clk := 512 }
     match s.line? 9 512 with
     | some (o, l) => l.st == .queued && decide (l.arrived + 256 ≤ s.clk) && decide (l.arrived + 512 ≤ s.clk) && !o.kind.isPref
     | none => false) = true ∧
    (let s := (lineOp .load .travelling).modSlice (paSlice 0x10000) fun x => { x with startedAt := 0, startedN := 4 }
     (s.slice (paSlice 0x10000)).startedAt = s.clk ∧ 4 ≤ (s.slice (paSlice 0x10000)).startedN) ∧
    ¬ ((((lineOp .load .travelling).slice (paSlice 0x10000)).startedAt = 0 ∧ 4 ≤ ((lineOp .load .travelling).slice (paSlice 0x10000)).startedN)) ∧
    (let s := (lineOp .load .travelling).modSlice (paSlice 0x10000) fun x => { x with arb := { x.arb with reserved := List.replicate 8 9 } }
     s.noReserved (s.slice (paSlice 0x10000)).arb) = true ∧
    (let s := (lineOp .load .travelling).modLine 9 512 fun l => { l with bSlice := 4 }
     match s.line? 9 512 with | some (_, l) => decide (4 ≤ l.bSlice) | none => false) = true ∧
    (let s := lineOp .load .travelling
     let s : State := { s with ops := s.ops ++ s.ops.map fun o => { o with id := 10, core := 1 } }
     match s.line? 9 512, s.line? 10 512 with
     | some (o, l), some (p, m) => decide (paSlice (m.pa.getD 0) = paSlice (l.pa.getD 0) ∧ l.bSlice < 4 ∧ m.bSlice < 4 ∧ l.bHbm < 4 ∧
         l.st = .travelling ∧ m.st = .travelling ∧ s.opFunc p = s.opFunc o ∧ o.core < p.core ∧
         s.rank (.sliceRequestArrival 9 512) < s.rank (.sliceRequestArrival 10 512))
     | _, _ => false) = true := by
  decide +kernel

/-- A walk that lacks its first descriptor, one that has all of a page that is not there and one of a page that is; a walk that the host is
asked for; a page request of it; a leaf and an asker. -/
theorem wit_TranslationWalks :
    (let w : Walk := ⟨4, 0, { func := 0, s1 := 0x3000, s2 := 0x1000 }, 0x10000, 0, [.line 9 512], .running, []⟩
     let s : State := { (lineOp .load .walking).tables with walks := [w] }
     s.walks.find? (fun x => x.id = 4) = some w ∧ ((s.consult 32 w).lacks).isSome = true ∧ s.askerFrozen (.line 9 512) = false ∧
     s.askerKill (.line 9 512) w none = none ∧ (s.line? 9 512).isSome = true ∧
     (let l : Leaf := ⟨2 ^ 39, 4096, true, true, false⟩
      let h : State := { s with walks := [{ w with st := .hosted l }] }
      h.walks.findSome? (fun w => match w.st with
        | .hosted l => if decide (w.core = 0 ∧ w.va / 4096 = 0x10000 / 4096) then some (w, l) else none
        | _ => none) = some ({ w with st := .hosted l }, l)) ∧
     (let r : PageReq := ⟨3, 0, 1, 0, 16, 0, 0, true, false, [w]⟩
      ({ s with pageReqs := [r] } : State).pageReqs.find? (fun x => x.id = 3) = some r)) ∧
    (∃ l, ((base.tables).walkFor 0 { func := 0, s1 := 0x3000, s2 := 0x1000 } 0x10000 0).1 = .ok l ∧ isHost l.base = false) ∧
    (⟨0x10000, 0x10000, true, false, false⟩ : Leaf).allows 0 = true ∧ (⟨0x10000, 0x10000, true, false, false⟩ : Leaf).size ≠ 0 := by
  refine ⟨?_, ⟨⟨0, 2 ^ 30, true, true, true⟩, ?_⟩, ?_⟩ <;> decide +kernel

/-- Each query at its value, the last legal one and the first illegal one. -/
theorem wit_LogQueries : (List.range 9).all (fun n => meets (base.setS 1 (BitVec.ofNat 64 n)) fun s is w =>
    active is w 7 != [] && (uniSrc s is w 65).toNat == n && (s.node? w.part w.node).isSome) = true := by decide +kernel

/-- An object that is there, one with 64 publications, and none; a node without taints and with four. -/
def objBase : State :=
  { memBase with
    objs := [⟨0x10000, 0, false, false, none, [], [], 0, 0, 0⟩],
    ops := [{ anOp (.rel false) [⟨0, 0x10000, some 0x10000, 0, 0, 0⟩] [aLine 512 0x10000 .travelling] with n := 1 }] }

theorem wit_ReleaseAndAcquire :
    meets (base.setS 1 0x10000) (fun s is w => active is w 7 != [] && decide ((uniSrc s is w 65).toNat % 32 = 0 ∧ canonical (uniSrc s is w 65).toNat = true)) =
      true ∧
    meets (base.setS 1 0x10010) (fun s is w => decide ((uniSrc s is w 65).toNat % 32 ≠ 0)) = true ∧
    (match objBase.op? 9 with
     | some o => (match objBase.obj? o.objPa with
       | some b => (publish b o.core (objBase.core o.core).log.head o.n).isSome && o.kind == .rel false && decide (o.phase ≠ 2)
       | none => false)
     | none => false) = true ∧
    (match ({ objBase with objs := [] } : State).op? 9 with
     | some o => (({ objBase with objs := [] } : State).obj? o.objPa).isNone | none => false) = true ∧
    (publish ⟨0, 0, false, false, none, [], (List.range 64).map fun k => ⟨1, 10 * k, 10 * k + 1, k, []⟩, 0, 0, 0⟩ 0 0 1).isNone = true ∧
    (let s : State := { objBase with ops := objBase.ops.map fun o => { o with kind := .acq false } }
     match s.op? 9, s.wg? 1 with
     | some o, some w => (match s.obj? o.objPa, s.node? w.part w.node with
       | some b, some n => decide ((dedup (n.taints ++ s.producers b w.node)).length ≤ 4) &&
           decide (((s.core o.core).acq.filter fun a => a.obj ≠ o.objPa).length < 64)
       | _, _ => false)
     | _, _ => false) = true ∧
    (let s : State := { objBase with nodes := objBase.nodes.map fun n => { n with taints := [1, 2, 3, 4, 5] } }
     match s.node? 0 0 with | some n => decide (n.taints.length > 4) | none => false) = true := by decide +kernel

/-- bind of an object's region that is clear, of one with a page unknown, of one whose object's page is unknown, of no length, with records
in it; bind at its second issue; unbind of the object's only region and of none; seal of 64 KiB, of one byte less, and one that meets a
seal; unseal of a seal that is there and of none. -/
theorem wit_RegionWords :
    (let reg : Region := ⟨0x10080, 128, { func := 0, s1 := 0, s2 := 0 }, [(0x10080, 128)]⟩
     let s0 := (({ objBase with ops := [] } : State).setS 3 0x10080)
     let pages (s : State) (w : Wg) (base len : Nat) := rangeSteps (s.core w.core).tlb w.ctx (len / 4096 + 2) base len []
     let fault (r : RegionStep) := match r with | .fault _ _ _ _ => true | _ => false
     let walk (r : RegionStep) := match r with | .walk _ _ => true | _ => false
     let marked (ph : Nat) : State := { (s0.modWg 1 fun w => w.modThreads (List.range 16) fun t => { t with mark := some 9 }) with
       ops := [{ anOp .bind [] [] with phase := ph, ranges := [(0x10080, 128)] }] }
     meets (s0.setS 4 128) (fun s is w => active is w 7 != [] && s.markedOp is w == none && s.bindStep w 0x10080 128 0x10000 == .pages 0x10000 0x10080 128 &&
       (uniS is w 3).toNat == 0x10080 && (uniS is w 4).toNat == 128 && (pages s w 0x10080 128).2 == none && mergeRanges (pages s w 0x10080 128).1 == [(0x10080, 128)] &&
       s.bindBad w 0x10000 0x10080 0x10000 [(0x10080, 128)] == none && (s.obj? 0x10000).isSome && !s.recordIn w.part [(0x10080, 128)] (fun _ => true)) &&
     meets ((s0.setS 4 128).modCore 0 fun k => { k with log := { k.log with recs := [⟨0, 1, 0xFF, 2052, [1, 2, 3, 4, 5, 6, 7, 8], 0, 0, false, false, false, 0⟩], tail := 1 } })
       (fun s _ w => s.recordIn w.part [(0x10080, 128)] (fun _ => true)) &&
     meets s0 (fun s is w => fault (s.bindStep w 0x10080 0 0x10000) && s.markedOp is w == none) &&
     meets s0 (fun s _ w => (pages s w 0x900000 128).2.isSome && walk (s.bindStep w 0x10080 128 0x900000)) &&
     meets (s0.setS 3 0x10000) (fun s _ w => sealStep 0x10000 65536 == .pages 0 0x10000 65536 && fault (sealStep 0x10000 65535) && (pages s w 0x10000 65536).2 == none &&
       s.sealBad w (mergeRanges (pages s w 0x10000 65536).1) == none) &&
     meets (s0.modPart 0 fun p => { p with seals := [reg] }) (fun s _ w => (s.sealBad w [(0x10000, 65536)]).isSome &&
       (match s.part? w.part with | some p => p.seals == [reg] && decide (reg.base = 0x10080 ∧ reg.ctx = w.ctx) | none => false)) &&
     meets (marked 3) (fun s is w => match s.markedOp is w with | some o => o.fail == none && o.phase == 3 | none => false) &&
     meets (marked 1) (fun s is w => match s.markedOp is w with | some o => o.fail == none && o.phase == 1 && !s.recordIn w.part o.ranges (fun _ => true) | none => false) &&
     meets { s0 with objs := s0.objs.map fun o => { o with regions := [reg] } } (fun s is w => s.translate w.core w.ctx 0x10000 0 == .inl 0x10000 && s.markedOp is w == none &&
       (match s.obj? 0x10000 with | some b => b.regions == [reg] && b.pubs == [] && decide (reg.ctx = w.ctx) | none => false)) &&
     meets s0 (fun s _ w => s.translate w.core w.ctx 0x10000 0 == .inl 0x10000 && (match s.obj? 0x10000 with | some b => b.regions == [] | none => false) &&
       (s.part? w.part).isSome)) = true := by decide +kernel

/-- A node with a baton, one with none; a committed record that applies, one that is not committed. -/
theorem wit_CommitAndRollback :
    (match base.node? 0 0 with | some n => decide (n.live ≠ 0) | none => false) = true ∧
    (match ({ base with nodes := base.nodes.map fun n => { n with live := 0 } } : State).node? 0 0 with
     | some n => decide (n.live = 0 ∧ n.taints = []) | none => false) = true ∧
    (let r : Record := ⟨0, 1, 0x03, 2048, [1, 2, 3, 4, 5, 6, 7, 8], 0, 0, true, false, false, 0⟩
     let s := memBase.modCore 0 fun k => { k with log := { k.log with recs := [r], tail := 1, drained := 1 } }
     (s.core 0).log.recs.find? (fun x => x.num = 0) = some r ∧ s.mem.wf = true ∧ r.done = false ∧ r.void = false ∧ r.committed = true ∧
     s.mustWait 0 r = false ∧ s.ops = [] ∧ (s.slice (paSlice (r.gran * 32))).compact ≤ s.clk ∧
     (∀ x ∈ s.allRecords, x.2.gran = r.gran → x.1 = 0 ∨ x.2.live = false ∨ x.2.committed = false)) ∧
    (match base.wg? 1 with | some w => w.heat == none | none => false) = true := by decide +kernel

theorem wit_AtomicWords :
    (let lanes (s : State) (is : Issue) (w : Wg) := (active is w 7).map fun t => laneAcc t (uniSrc s is w 65).toNat 1 0
     let o (s : State) (is : Issue) (w : Wg) : MemOp := { newOp s is w (.atomic 0 0) (lanes s is w) (some 5) none true with n := w.width }
     meets memBase (fun s is w => active is w 7 != [] && addrCause (lanes s is w) == none && (o s is w).lines.all (fun l => l.pa != none) &&
       s.writeCause (o s is w).lanes == none) &&
     meets (base.setS 1 0x10000) (fun s is w => addrCause (lanes s is w) == none && (o s is w).lines.any fun l => l.pa == none) &&
     meets (memBase.setS 1 0x10002) (fun s is w => (addrCause (lanes s is w)).isSome) &&
     meets { memBase with objs := [⟨0x10000, 0, false, false, none, [], [], 0, 0, 0⟩] } (fun s is w =>
       (o s is w).lines.all (fun l => l.pa != none) && (s.writeCause (o s is w).lanes).isSome)) = true := by decide +kernel

/-- An atomic's request that is new, one whose key is known, one with the table full, one held up behind an earlier update of its line; an
orinit that is new, one that has acted and one that meets an object; a reply whose line is the only one, and one with another under way; an
accumulator with a place left and one at its last, a key it holds; orinit's control at 8,191 and 8,192. -/
theorem wit_OnceAndReductions :
    (let s := lineOp (.atomic 0 0) .serving
     let h := paSlice 0x10000
     let r : Result := ⟨h, (5, 0), [], [], 0, 0, []⟩
     let full : State := { s with results := List.replicate 4096 { r with req := (6, 0) } }
     let late : State := s.modSlice h fun x => { x with updating := [(512, 400)] }
     (match s.line? 9 512 with
      | some (o, l) => decide (paSlice (l.pa.getD 0) = h ∧ l.keys = [⟨5, 0, none⟩] ∧ o.lines = [l] ∧ s.updateHeld l = false ∧ o.lineLanes 512 ≠ [] ∧
          o.kind ≠ .orinit ∧ s.lanesDue h o l ≠ [] ∧ s.sliceLacks h o l (s.lanesDue h o l) = false ∧ full.lanesDue h o l ≠ [] ∧
          s.result? h ⟨5, 0, none⟩ = none ∧ ({ s with results := [r] } : State).result? h ⟨5, 0, none⟩ = some r)
      | none => false) = true ∧
     (full.results.filter fun r => r.slice = h).length = 4096 ∧
     (match late.line? 9 512 with | some (o, l) => decide (late.updateHeld l = true ∧ late.lanesDue h o l ≠ []) | none => false) = true) ∧
    (let s := lineOp .orinit .serving
     (match s.line? 9 512 with
      | some (o, _) => decide (o.kind = .orinit ∧ o.b ≠ 1) && !(s.inObj o.objPa || s.inAcc o.objPa) &&
          ({ s with objs := [⟨o.objPa, 0, false, false, none, [], [], 0, 0, 0⟩] } : State).inObj o.objPa
      | none => false) = true ∧
     (match (s.modOp 9 fun o => { o with b := 1 }).line? 9 512 with | some (o, _) => decide (o.b = 1) | none => false) = true) ∧
    (let s := lineOp (.atomic 0 0) .returning
     (match s.line? 9 512 with | some (o, l) => decide (o.lines = [l]) && l.keys.all fun k => decide (k.c < 1024) | none => false) = true ∧
     (match (s.modOp 9 fun o => { o with lines := o.lines ++ [aLine 513 0x10080 .serving] }).line? 9 512 with
      | some (o, _) => o.lines.any fun m => decide (m.line ≠ 512 ∧ m.st ≠ .done) | none => false) = true) ∧
    (let a : OrdAcc := ⟨0x10000, 0, false, 2, 0x10100, 0x10100, false, false, false, false, []⟩
     let four : Held := ⟨4, 0, 9, (1, 2), 0⟩
     let s (held : List Held) : State := { memBase with ordAccs := [{ a with held := held }] }
     let f (s : State) := s.ordAccs.find? fun a => a.pa / 32 = 0x10000 / 32 && !a.done
     f memBase = none ∧ f (s []) = some a ∧ ([] : List Held).length + 1 ≠ a.n ∧
     f (s [four]) = some { a with held := [four] } ∧ [four].length + 1 = a.n ∧ (∃ y ∈ [four], y.key = 4) ∧ (∀ y ∈ [four], y.key ≠ 5) ∧
     meets (s []) (fun s is w => s.inAcc 0x10000 && active is w 7 != [])) ∧
    (let step (s : State) (w : Wg) := s.orinitStep w 0x10000 0x10100
     let ok (r : RegionStep) := match r with | .ok _ [_] => true | _ => false
     let fault (r : RegionStep) := match r with | .fault _ _ _ _ => true | _ => false
     let walk (r : RegionStep) := match r with | .walk _ _ => true | _ => false
     meets (memBase.setS 2 8191) (fun s is w => decide ((uniSrc s is w 66).toNat < 8192) && s.markedOp is w == none && ok (step s w) &&
       fault (s.orinitStep w 0x10010 0x10100) && walk (s.orinitStep w 0x900000 0x10100)) &&
     meets (memBase.setS 2 8192) (fun s is w => decide ((uniSrc s is w 66).toNat ≥ 8192))) = true := by decide +kernel

/-- A branch to the last packet of three and one behind it and one before the first; jmp to 24, 36, 6 and 2^16; call stacks of 15 and 16;
ret with a good entry, with none, and with another overlay; a workgroup due and not. -/
theorem wit_ControlWords :
    (let s0 := State.reset.loadCode (List.replicate 9 filler)
     let valid (s : State) (off : Nat) := decide (off % 12 = 0 ∧ off < 4 * (s.frameCode 0 false).length)
     let e : RetEntry := { frame := false, ovl := s0.frameOvl 0 false, word := 3 }
     let stack (l : List RetEntry) := s0.modWg 1 fun w => w.modThreads (List.range 16) fun t => { t with rstack := l }
     meets s0 (fun s is w => active is w 7 != [] && active is w 0 == [] && valid s 24 && !valid s 36 && is.addr.word == 0) &&
     meets (s0.setS 1 24) (fun s is w => decide ((uniSrc s is w 65).toNat < 2 ^ 16) && valid s (uniSrc s is w 65).toNat) &&
     meets (s0.setS 1 6) (fun s is w => !valid s (uniSrc s is w 65).toNat) &&
     meets (s0.setS 1 0x10000) (fun s is w => decide ((uniSrc s is w 65).toNat ≥ 2 ^ 16)) &&
     meets (stack (List.replicate 15 e)) (fun _ is w => (active is w 7).all fun t => match w.thread? t with
       | some x => decide (x.rstack.length < 16) | none => false) &&
     meets (stack (List.replicate 16 e)) (fun _ is w => (active is w 7).any fun t => match w.thread? t with
       | some x => decide (x.rstack.length ≥ 16) | none => false) &&
     meets (stack [e]) (fun s is w => (active is w 7).all fun t => match w.thread? t with
       | some x => (match x.rstack with
         | e :: _ => (match (s.core w.core).frames[e.frame.toNat]? with
           | some f => (match f.ovl with | some (_, n) => e.ovl == BitVec.ofNat 8 n | none => false) | none => false)
         | [] => false)
       | none => false) &&
     meets (stack [{ e with frame := true, ovl := 7 }]) (fun s is w => (active is w 7).any fun t => match w.thread? t with
       | some x => (match x.rstack with
         | e :: _ => (match (s.core w.core).frames[e.frame.toNat]? with | some f => f.ovl.isNone | none => false)
         | [] => false)
       | none => false) &&
     meets s0 (fun _ _ w => w.due == none) && meets (s0.modWg 1 fun w => { w with due := some 0 }) (fun _ _ w => w.due == some 0)) = true ∧
    meetsS starterBase (fun s is _ k => guardOn k.p 7 && is.addr.word == 0 && decide (4 * (s.starter 0).code.length = 12) &&
      [0, 1, 2, 3].all fun i => (s.core (quadCore 0 i)).queue == []) = true := by decide +kernel

/-- A handle that is pending, one that is empty; a value that names an entry and one that names none. -/
theorem wit_Futures :
    (let h (w : Wg) (n : Nat) := match w.crew? 0 with | some x => x.h.getD n .empty | none => HReg.empty
     meets (base.setK fun k => { k with h := k.h.set 15 (.ref 3 1) }) (fun s _ w => h w 15 == .ref 3 1 && decide ((s.words.map fun x => x.id).Nodup)) &&
     meets base (fun _ is w => active is w 7 != [] && h w 0 == .empty) &&
     meets base (fun s _ w => (s.importHandle w.core 0).isSome) &&
     meets base (fun s _ w => (s.importHandle w.core 0xFFFFFFFFFFFFFFFF).isNone)) = true := by decide +kernel

/-- A barrier object in the allocation's last 16 bytes, with count c, target 3, phase 1. -/
def barBase (c : Nat) (ovr valid : Bool) : State :=
  (base.setS 1 0x01000FF0).modCore 0 fun k =>
    { k with scratch := k.scratch.setWords 0xFF0 [BitVec.ofNat 32 (c + 3 * 4096 + 2 ^ 24 + (if ovr then 2 ^ 28 else 0) + (if valid then 2 ^ 29 else 0)), 0, 0, 0] }

/-- Fences with nothing older, with an older operation, with an older result of a memory word, with an engine word, and with a committed
record below TAIL; bars at group 255 and 256, of a group that lists the workgroup, of one that does not, with an aborted episode; threads that
come back to a bar that has released, to one that is there, and to one that is aborted; a starter with its queues empty. -/
theorem wit_FencesAndBarriers :
    (let ops (s : State) (is : Issue) (w : Wg) := s.ops.filter fun o => decide (o.wg = w.id) && decide (o.id < is.older) && o.kind.fenceWaits 1 &&
       o.threads.any fun t => t ∈ is.threads
     let pends (is : Issue) (w : Wg) := w.pend.filter fun p => decide (p.id < is.older) && p.mem.any fun t => decide (t ∈ is.threads)
     let back (l : List Episode) : State := { (base.modWg 1 fun w => w.modThreads (List.range 16) fun t => { t with mark := some 5 }) with episodes := l }
     let group (l : List (Nat × Nat × Nat)) := (base.modPart 0 fun p => { p with groups := [(2, l, 0, 0)] })
     meets base (fun s is w => active is w 7 != [] && is.threads != [] && ops s is w == [] && pends is w == [] && s.words == [] && issueMark is w == none) &&
     meets (lineOp (.atomic 0 0) .travelling) (fun s is w => ops s is w != []) &&
     meets (base.modWg 1 fun w => { w with pend := [⟨7, [(0, 5, 9)], [], [], [], [0], [], [], [0]⟩] }) (fun _ is w => pends is w != []) &&
     meets (base.modCore 0 fun k => { k with log := { k.log with recs := [⟨0, 1, 1, 0, [], 0, 0, true, false, false, 0⟩], tail := 1 } }) (fun s _ w =>
       (s.core w.core).log.recs.any fun r => r.live && r.committed && decide (r.num < 1)) &&
     meets (base.setS 1 256) (fun s is w => decide ((uniSrc s is w 65).toNat ≥ 256)) &&
     meets (base.setS 1 255) (fun s is w => decide ((uniSrc s is w 65).toNat < 256) && (s.groupMembers w 255).isNone) &&
     meets (group [(0, 0, 0)]) (fun s _ w => s.groupMembers w 2 == some [.group 0 0] && Member.group w.part w.index == .group 0 0) &&
     meets (group [(1, 0, 0)]) (fun s _ w => s.groupMembers w 2 == some [.group 0 1]) &&
     meets { group [(0, 0, 0)] with episodes := [⟨5, 4, 0, 2, 0, [.group 0 0], [], [], [.group 0 0], true⟩] } (fun s is w =>
       (s.groupEpisode 4 w is.threads 2 [.group 0 0]).1.aborted) &&
     meets (group [(0, 0, 0)]) (fun s is w => !(s.groupEpisode 4 w is.threads 2 [.group 0 0]).1.aborted) &&
     meets (back []) (fun s is w => issueMark is w == some 5 && s.episodes.all fun e => e.id != 5) &&
     meets (back [⟨5, 1, 0, 0, 2, [], [], [], [], false⟩]) (fun s is w => issueMark is w == some 5 &&
       (match s.episodes.find? fun e => e.id = 5 with | some e => !e.aborted | none => false)) &&
     meets (back [⟨5, 1, 0, 0, 2, [], [], [], [], true⟩]) (fun s is w => issueMark is w == some 5 &&
       (match s.episodes.find? fun e => e.id = 5 with | some e => e.aborted | none => false))) = true ∧
    (let e : Episode := ⟨5, 1, 0, 0, 2, [], [], [], [], false⟩
     let s : State := { base with episodes := [e] }
     s.episodes.find? (fun e => e.id = 5) = some e) ∧
    meetsS starterBase (fun s _ _ k => guardOn k.p 7 && k.mark == none && k.run == some (1, 1) && (s.grid? 1).isSome &&
      [0, 1, 2, 3].all fun i => (s.core (quadCore 0 i)).queue == []) = true ∧
    (let w0 (s : State) := ((s.core 0).scratch.word 0xFF0).toNat
     let off (s : State) (is : Issue) (w : Wg) := (uniSrc s is w 65).toNat % 2 ^ 18
     meets (base.setS 1 0xFF8) (fun s is w => off s is w % 16 != 0) &&
     meets (base.setS 1 0x1000) (fun s is w => off s is w % 16 == 0 && decide (off s is w + 16 > w.scratchBytes)) &&
     meets (barBase 2 false true) (fun s is w => off s is w % 16 == 0 && decide (off s is w + 16 = w.scratchBytes) && (w0 s).testBit 29 &&
       !(w0 s).testBit 28 && w0 s % 4096 == 2 && w0 s / 2 ^ 24 % 16 == 1 && decide (31 ∉ (s.core w.core).absent) && issueMark is w == none &&
       decide ((uniSrc s is w 65).toNat / 2 ^ 24 % 16 = 1)) &&
     meets (barBase 2 true true) (fun s _ _ => (w0 s).testBit 28) && meets (barBase 2 false false) (fun s _ _ => !(w0 s).testBit 29) &&
     meets ((barBase 2 false true).setS 2 4095) (fun _ is w => (uniS is w 2).toNat == 4095) &&
     meets ((barBase 2 false true).setS 2 4096) (fun _ is w => (uniS is w 2).toNat == 4096 && (uniS is w 3).toNat == 0)) = true := by decide +kernel

/-- The crew, in a starter and in a group; a linked tx with three and with four flits under way; an rx with a flit and empty; the edges of
caprd, flagrd and flagclr. -/
theorem wit_SystemRegistersAndFlags :
    (let tx (n : Nat) := base.setK fun k => { k with tx := k.tx.set 1 { Tx.reset with link := some ⟨1, 0, 0⟩, unacked := n } }
     meets base (fun _ is w => active is w 7 != [] && (match w.crew? 0 with
       | some k => (k.tx.getD 1 Tx.reset).link.isNone && (k.rx.getD 1 Rx.reset).queue.isEmpty | none => false)) &&
     meets (tx 3) (fun _ _ w => match w.crew? 0 with | some k => (k.tx.getD 1 Tx.reset).link != none && decide ((k.tx.getD 1 Tx.reset).unacked < 4) | none => false) &&
     meets (tx 4) (fun _ _ w => match w.crew? 0 with | some k => (k.tx.getD 1 Tx.reset).link != none && decide ((k.tx.getD 1 Tx.reset).unacked ≥ 4) | none => false) &&
     meets (base.setK fun k => { k with rx := k.rx.set 1 { Rx.reset with queue := [7] } }) (fun _ _ w => match w.crew? 0 with
       | some k => (k.rx.getD 1 Rx.reset).queue == [7] | none => false)) = true ∧
    [4, 4096, 4088, 0, 1, 8, 9, 255, 256].all (fun n => meets (base.setS 1 (BitVec.ofNat 64 n)) fun s is w => (uniSrc s is w 65).toNat == n) = true ∧
    meetsS starterBase (fun s is q k => guardOn k.p 7 && (starterSrc s is q k 65).toNat == 0) = true := by decide +kernel

/-- A crew with a handler at the frame's last packet, with one behind it, in a handler already, and with none. -/
theorem wit_TrapEntry :
    (let s0 := State.reset.loadCode (List.replicate 9 filler)
     let takes (s : State) := match s.wg? 1 with
       | some w => (match w.crew? 0 with
         | some c => decide (c.tvec.getLsbD 31 = true ∧ c.tinfo.getLsbD 8 = false ∧ (c.tvec.extractLsb' 0 16).toNat % 12 = 0 ∧
             (c.tvec.extractLsb' 0 16).toNat < 4 * (s.frameCode w.core (c.tvec.getLsbD 16)).length)
         | none => false)
       | none => false
     takes (s0.setK fun k => { k with tvec := 0x80000018 }) && !takes (s0.setK fun k => { k with tvec := 0x80000024 }) &&
     !takes (s0.setK fun k => { k with tvec := 0x80000018, tinfo := 0x100 }) && !takes s0) = true := by decide +kernel

/-- tfence with a result to come, with nothing raised, and with an enabled flag of each kind; tret in and out of a handler; an image at 128
and at 64, at the last canonical address and behind it, with all threads here or not. -/
theorem wit_TrapsAndContextImages :
    (let s0 := State.reset.loadCode (List.replicate 9 filler)
     let pends (is : Issue) (w : Wg) := w.pend.filter fun p => decide (p.id < is.older) && p.crews.any fun c => decide (c ∈ w.crewsOf is.threads)
     let flagOn (w : Wg) : BitVec 8 := match w.crew? 0 with | some k => k.flags &&& k.flagen.truncate 8 | none => 0
     meets s0 (fun s is w => active is w 7 != [] && s.ops == [] && pends is w == [] && issueMark is w == none && flagOn w == 0) &&
     meets (s0.modWg 1 fun w => { w with pend := [⟨7, [], [], [], [(0, 1)], [0], [], [], []⟩] }) (fun _ is w => pends is w != []) &&
     meets (s0.setK fun k => { k with flags := 0x81, flagen := 0x01 }) (fun _ is w => pends is w == [] && flagOn w &&& 0x7F#8 != 0 &&
       flagTraps w (active is w 7) != []) &&
     meets (s0.setK fun k => { k with flags := 0x81, flagen := 0x80 }) (fun _ is w => flagOn w &&& 0x7F#8 == 0 && (flagOn w).getLsbD 7 &&
       (active is w 7).all fun t => w.crewOf t == 0) &&
     meets (s0.setK fun k => { k with tinfo := 0x100, tpc := 3 }) (fun s _ w => match w.crew? 0 with
       | some k => k.inHandler && s.resumable w.core k.tpc | none => false) &&
     meets (s0.setK fun k => { k with tinfo := 0x100, tpc := 9 }) (fun s _ w => match w.crew? 0 with
       | some k => k.inHandler && !s.resumable w.core k.tpc | none => false)) = true ∧
    meetsS starterBase (fun _ _ _ k => guardOn k.p 7 && !k.tinfo.getLsbD 8) = true ∧
    meetsS (starterBase.modStarter 0 fun k => { k with tinfo := 0x100, tpc := 2 }) (fun _ _ _ k => k.tinfo.getLsbD 8 &&
      decide ((k.tpc.extractLsb' 0 14).toNat < k.code.length) && k.tpc.extractLsb' 14 9 == 0) = true ∧
    canonical 0x7FFFFFFFFF80 = true ∧ canonical 0x800000000000 = false ∧ 0x7FFFFFFFFF80 % 128 = 0 ∧
    (let here (is : Issue) (w : Wg) := (w.live 0).all fun t => t ∈ is.threads
     let marked : State := { (memBase.modWg 1 fun w => w.modThreads (List.range 16) fun t => { t with mark := some 9 }) with
       ops := [{ anOp (.image true) [] [] with phase := 3 }] }
     meets (memBase.setS 1 0x10000) (fun s is w => here is w && s.markedOp is w == none && s.fenceOps is w 1 == [] && s.fencePends is w == [] && s.words == [] &&
       (List.range 4).all (fun n => (w.txOf 0 n).unacked == 0) && (match w.crew? 0 with | some k => !k.inHandler | none => false) &&
       (s.imagePages w 0x10000 1).all (fun x => x.2.isSome) && s.freeChannels (newWord s is w .cpy 0 0 0 0) != []) &&
     meets marked (fun s is w => match s.markedOp is w with
       | some o => o.fail == none && o.phase == 3 && (s.readImage ((s.imagePages w 0x10000 0).map fun x => (x.1, x.2.getD 0))).isSome &&
           (s.writeImage (List.replicate 3000 0) 0x10000 0x10200 ((s.imagePages w 0x10000 1).map fun x => (x.1, x.2.getD 0))).2.isNone
       | none => false) &&
     meets (memBase.modWg 1 fun w => { w with threads := w.threads ++ [loadThread 0], width := 17 }) (fun _ is w => !here is w)) = true := by decide +kernel

/-- Copies of 128 bytes that meet, that end at the allocation and behind it, whose control has a reserved bit; a gather of aligned and
misaligned records; a collective of a group of one; an overlay that is there and one beyond the grid's; words in each stage. -/
def wordBase (k : EngKind) (chan : Option Nat) (cancel : Bool) (live : List EngPart) : State :=
  let e : EngWord := { id := 9, kind := k, core := 0, wg := 1, crew := 0, node := 0, entry := 3, dst := 0, src := 0, ctl := 0x1000000000000, aux := 0,
                       idx := [], threads := [0], chan := chan, begun := 0, readAt := 0, got := [], issued := 0, next := 0, reads := 0, total := 1, live := live, doneLines := [],
                       causes := [], cancel := cancel, stop := false, bad := none }
  { base with clk := 4, words := [e] }

theorem wit_EngineWordsAndSteps :
    (let r (is : Issue) (w : Wg) (i : Nat) := (uniS is w i).toNat
     let ctl : Dbl := 0x100000080
     meets (((base.setS 1 3968).setS 2 0x10000).setS 3 ctl) (fun s is w => active is w 7 != [] && natBits ctl.toNat 30 0 == 128 &&
       natBits ctl.toNat 33 32 == 1 && s.rangeCause w 1 (r is w 1) 128 128 == none && s.rangeCause w 0 (r is w 2) 128 128 == none &&
       s.cpywCause w 0 0 128 == none && s.engineRoom 0) &&
     meets ((base.setS 1 4096).setS 2 0x10001) (fun s is w => (s.rangeCause w 1 (r is w 1) 128 128).isSome && (s.rangeCause w 0 (r is w 2) 128 128).isSome) &&
     overlap 0x10000 0x10040 128 && natBit 0x80000080 31 &&
     meets (base.setS 1 0) (fun s is w => s.rangeCause w 1 (r is w 1) (w.width * 4) 4 == none && 6 % 4 != 0) &&
     meets (base.modPart 0 fun p => { p with groups := [(2, [(0, 0, 0)], 0, 0)] }) (fun s _ w => match s.groupOf w 2 with
       | some ms => decide (0 < ms.length) && ms.any (fun m => m.1 == w.index && m.2.1 == s.boot.package && m.2.2 == w.part) | none => false) &&
     meets base (fun s is w => match s.grid? w.grid with
       | some g => decide (0 ≤ g.novl) && decide (1 > g.novl) && !s.frameHas w.core 1 g.kernel 0 &&
           (is.threads.any fun t => match w.thread? t with | some x => decide (x.pc.frame.toNat = 0) | none => false) &&
           !(is.threads.any fun t => match w.thread? t with | some x => decide (x.pc.frame.toNat = 1) | none => false)
       | none => false)) = true ∧
    (let at' (s : State) := match s.word? 9 with | some e => (s.wg? e.wg).isSome | none => false
     at' (wordBase .cpy none true []) && at' (wordBase .cpy (some 5) false [⟨0, none, none, true⟩]) && at' (wordBase .gth (some 1536) false []) &&
     (let s := wordBase .cpy none false []
      match s.word? 9 with
      | some e => decide (e.issued + 4 ≤ s.clk) && (s.waitingWords e).all (fun x => decide (e.id ≤ x.id)) && s.freeChannels e != []
      | none => false) &&
     (let s : State := { wordBase .cpy none false [] with frozenChans := List.range 2000 }
      match s.word? 9 with | some e => s.freeChannels e == [] | none => false)) = true ∧
    (match (wordBase .coll none false []).word? 9 with | some e => natBits e.ctl 55 48 == 1 && e.kind == .coll | none => false) = true := by decide +kernel

/-- rlink of the own crew, of one that is not there, of 2^14 − 1 and 2^14; with a flit under way; a flit to a workgroup and to none. -/
theorem wit_Relays :
    (let far (s : State) (w : Wg) (v : Nat) := match s.heatWg w (v / 512) with | some y => decide (v / 4 % 128 < y.crews.length) | none => false
     meets base (fun s is w => active is w 7 != [] && far s w 0 && !far s w 4 && !far s w 16383 && (w.txOf 0 0).unacked == 0) &&
     meets (base.setS 1 16384) (fun s is w => decide ((uniSrc s is w 65).toNat ≥ 2 ^ 14)) &&
     meets (base.setK fun k => { k with tx := k.tx.set 0 { Tx.reset with unacked := 1 } }) (fun _ _ w => (w.txOf 0 0).unacked == 1)) = true ∧
    (let f : Flit := ⟨9, 1, 0, 0, 0, 0, 7, ⟨1, 0, 0⟩, 20, none, 0, 0⟩
     let s : State := { base with flits := [f, { f with id := 10, link := ⟨5, 0, 0⟩ }] }
     s.flits.find? (fun f => f.id = 9) = some f ∧
     (match s.wg? 1 with | some w => ((w.rxOf 0 0).take f).2 == some false | none => false) = true ∧
     s.flits.find? (fun f => f.id = 10) = some { f with id := 10, link := ⟨5, 0, 0⟩ } ∧ (s.wg? 5) = none ∧
     ((Rx.reset.from_ = []) ∧ f.seq = 0 ∧ Rx.reset.closed = false ∧ Rx.reset.queue.length < 7)) := by decide +kernel

/-- A baton of the loaded grid. -/
def batonOf (st : BatonSt) (cond : Dbl) : Baton :=
  { id := 7, part := 0, grid := 1, code := 0, frame := 0, waitj := 0, cond := cond, node := 0, spnode := none, spawner := none, wg := 0,
    resumable := false, rewritten := false, ring := false, ringAt := 0, st := st, woken := false, level := 0, eligible := some 0, pageWait := none,
    kills := [], filled := [], consumed := [], waits := none, name := [], starts := 0, place := [(1, 0, 0)] }

/-- A spawn of offset 0, of one that is no multiple of 12, of overlay 1 of none, with a condition and no buffers, with a bad counter; heat
places; tile buffers; an entered spawn, refused and not; a counter that holds 0. -/
theorem wit_TaskWordsAndEvents :
    (let form (v : Nat) := decide (v < 2 ^ 24 ∧ v % 2 ^ 16 % 12 = 0)
     form 0 && !form 1 && !form 0x1000000 && form 0x10000 &&
     meets base (fun s is w => active is w 7 != [] && (match s.grid? w.grid with
       | some g => decide (0 ≤ g.novl) && decide (0x10000 / 2 ^ 16 % 256 > g.novl) && decide (0 ≥ g.tbcount) | none => false) &&
       waitjCause 0 == none && (waitjCause 6).isSome && condsOf 0 == [] && issueMark is w == none &&
       decide (0 < 4 * (s.frameCode w.core is.addr.frame).length) && w.heat == none) &&
     meets { memBase with objs := [⟨0x10000, 0, true, true, none, [], [], 0, 0, 0⟩] } (fun s is w => s.markedOp is w == none &&
       (match s.objectStep w 0x10000, s.obj? 0x10000 with | .ok pa [], some x => pa == 0x10000 && x.tile && x.full | _, _ => false))) = true ∧
    meetsS ({ (starterBase.setStarter 1 0x10000).paged with objs := [⟨0x10000, 0, true, false, none, [], [], 0, 0, 0⟩] } : State) (fun s is q k =>
      guardOn k.p 7 && k.mark == none && (match s.starterGrid k with
        | some g => (match s.translate (quadCore 0 0) g.ctx (starterSrc s is q k 65).toNat 0 with
          | .inl pa => (match s.obj? pa with | some x => x.tile && !x.full | none => false) | .inr _ => false)
        | none => false)) = true ∧
    (let o : MemOp := { anOp .spawn [] [] with a := 12, b := 7, m := 3, sdst := some 5 }
     let s (cap : Nat) : State := { base.modPart 0 fun p => { p with bqcap := cap } with ops := [o] }
     let st (cap : Nat) := match (s cap).op? 9, (s cap).wg? 1 with
       | some o, some w => (match (s cap).grid? w.grid with | some g => (s cap).spawnResult w.part w.node o.m g | none => 9)
       | _, _ => 9
     st 0 = 1 ∧ st 1024 = 0) ∧
    (let b : Baton := { batonOf .queued 0 with waitj := 0x10000, eligible := none, place := [] }
     let s : State := { memBase with batons := [b] }
     (s.baton? 7 = some b ∧ s.translate ((s.partCores 0).headD 0) { func := 0, s1 := 0, s2 := 0 } b.waitj.toNat 0 = .inl 0x10000) ∧
       s.homeWord 0x10000 = 0) := by decide +kernel

theorem wit_BatonEvents :
    (let s (b : Baton) : State := { base with batons := [b], clk := 1250000 }
     (s (batonOf .queued 0)).baton? 7 = some (batonOf .queued 0) ∧ (batonOf .queued 0).st ≠ .placed ∧
     (s (batonOf .placed 0)).baton? 7 = some (batonOf .placed 0) ∧ condsOf (batonOf .placed 0).cond = [] ∧
     ((s (batonOf .placed 0)).startTaints 0 0 []).length ≤ 4 ∧
     (match (s (batonOf .placed 0)).grid? 1 with | some g => !(s (batonOf .placed 0)).frameHas 1 0 g.kernel 0 | none => false) = true ∧
     (match (s { batonOf .placed 0 with place := [(0, 0, 0)] }).grid? 1 with
      | some g => (s { batonOf .placed 0 with place := [(0, 0, 0)] }).frameHas 0 0 g.kernel 0 | none => false) = true ∧
     (match (s (batonOf .placed 0x4000)).grid? 1 with | some g => ((s (batonOf .placed 0x4000)).buffers g 0x4000).isNone | none => false) = true ∧
     (batonOf .queued 0).eligible = some 0 ∧ 0 < (s (batonOf .queued 0)).clk ∧ ((s (batonOf .queued 0)).clk - 0) % 1250000 = 0) ∧
    (let s : State := { base with grids := base.grids.map fun g => { g with starter := 0x10000, hcols := 2, hrows := 2, waiting := some 0, die := 1 } }
     (match s.wg? 1, s.grid? 1, s.part? 0 with
      | some _, some g, some p => g.starter != 0 && (s.starter 0).run == none && g.waiting == some 0 && decide (max 0 g.placedAt + g.heatwait * 1250 ≤ s.clk) && p.reserve == none &&
          ((heatRects g).find? fun r => s.rectInside 0 r).isSome
      | _, _, _ => false) = true) ∧
    (let s : State := { base with batons := [{ batonOf .running 0 with id := 1 }], wgs := base.wgs.map fun w =>
       { w with baton := 1, threads := w.threads.map fun t => { t with exited := true } } }
     (match s.baton? 1, s.wg? 1 with
      | some b, some w => decide ((s.wgs.filter fun w => w.baton = 1) = [w]) && s.batonOver w && condsOf b.cond == [] | _, _ => false) = true ∧
     (match base.wg? 1 with | some w => !base.batonOver w | none => false) = true) ∧
    (match memBase.readWords 0 { func := 0, s1 := 0, s2 := 0 } 0x10000 2 with | .inl l => l.length == 2 | .inr _ => false) = true := by
  decide +kernel

theorem wit_ContextEvents :
    (let p : PendWr := ⟨7, [(0, 5, 9)], [], [], [], [0], [], [], []⟩
     let s := base.modWg 1 fun w => { w with pend := [p] }
     (match s.wg? 1 with | some w => decide ((w.pend.find? fun p => p.id = 7) = some p) | none => false) = true ∧ p.valid = []) ∧
    (∀ o ∈ base.ops, o.kind ≠ .chkpt) ∧
    (let s (q : Nat) : State := { base with clk := 10, grids := base.grids.map (fun g => { g with slice := 4, queue := 3, crews := 3000 }),
                                            batons := if q = 0 then [] else [{ batonOf .queued 0 with ring := true, level := 3 }] }
     (match (s 0).wg? 1, (s 0).grid? 1 with
      | some w, some g => w.due == none && !w.evict && g.slice != 0 && decide (w.started + w.remain * 1250 ≤ (s 0).clk) &&
          !(s 0).someoneWaits w.part g.queue && w.heat == none && (s 1).someoneWaits w.part g.queue
      | _, _ => false) = true) ∧
    (match (base.modWg 1 fun w => { w with due := some 0 }).wg? 1 with | some w => decide (w.due ≠ none) | none => false) = true ∧
    (base.modWg 1 fun w => { w with pend := [⟨7, [], [], [], [], [0], [], [], []⟩] }).halted 0 = false ∧ State.reset.halted 0 = true ∧
    (let c : SavedCtx := ⟨7, 0, [], [], [], [], none, [], [], none⟩
     let s := (base.modPart 0 fun p => { p with ctxslots := 2, spill := [0] }).modQuad 0 fun k => { k with shadow := [c] }
     (s.quad 0).shadow.find? (fun c => c.spilled.isNone) = some c ∧ (match s.part? 0 with | some p => p.freeSpill == some 1 | none => false) = true) ∧
    (let s : State := { base with batons := [batonOf .placed 0] }
     s.baton? 7 = some (batonOf .placed 0) ∧ (batonOf .queued 0).st ≠ .placed) ∧
    -- a checkpoint of workgroup 1; a park that is over; a halted partition with one workgroup
    (let s : State := { base with batons := [{ batonOf .running 0 with id := 0 }], ops := [anOp .chkpt [] []] }
     (match s.wg? 1 with
      | some w => decide (s.chkptOps w = [anOp .chkpt [] []]) && (s.baton? w.baton).isSome && decide (w ∈ s.together w) && s.corePart w.core == s.part? w.part
      | none => false) = true) ∧
    (let s := starterBase.modStarter 0 fun k => { k with wait := .parked (.arrays 1 3 []) }
     (s.starter 0).wait = .parked (.arrays 1 3 []) ∧ s.starterParkOver 0 (.arrays 1 3 []) = true) ∧
    (let s := base.modWg 1 fun w => { w with threads := w.threads.map fun t => { t with exited := true } }
     (match s.wg? 1 with
      | some w => s.halted 0 && decide ((s.wgs.filter fun x => x.part = 0) = [w]) && s.shadowRoom (coreQuad w.core) | none => false) = true) ∧
    -- a context of one workgroup whose baton is placed on core 1
    (let w := { loadWg 2 0 with baton := 7 }
     let c : SavedCtx := ⟨7, 0, [w], [], [], [], none, [], [], none⟩
     let s : State := { base.modQuad 0 fun k => { k with shadow := [c] } with batons := [batonOf .placed 0] }
     s.contextsOf 7 = [(0, c)] ∧ s.savedWgs 7 = [w] ∧ (batonOf .placed 0).place = [(1, 0, 0)] ∧ s.framesFit 1 w (s.savedFrames 7 w.core) = true ∧
       s.directoryFits [(w, 1, 0, 0)] = true) := by decide +kernel

theorem wit_PacerSteps :
    (let s := base.modCore 0 fun k => { k with asked := true }
     (s.core 0).asked = true ∧ (s.corePart 0).isSome = true ∧ base.pacer.reqs = []) ∧
    (let q : TokReq := { core := 0, part := 0, arrived := 0 }
     let s : State := { base.modCore 1 fun k => { k with token := .ballast 0 } with pacer := { base.pacer with reqs := [q] } }
     s.pacer.reqs = [q] ∧ s.behindStep q.arrived = false ∧ s.donor 0 q.core = some 1) ∧
    (({ base with clk := 1249 } : State).clk + 1 - base.pacer.slotBase) % 1250 = 0 ∧ (base.grid? 1).isSome = true := by decide +kernel

/-- The loaded machine with queue 1 of function 0, its control block at 0x8000 and cached in a state, and hart 0 that has read a packet of it. -/
def queueOf (st : QState) : Qcb := ⟨0x8000, 0, 1, 0x10000, 4, st, 5, 7, 0, 0, 0, 0, 7, { func := 0, s1 := 0, s2 := 0 }, 0, none⟩

def queueBase (st : QState) (ws : List Dbl) : State :=
  { memBase with
    mem := (memBase.mem.setDbl 8 0x2001).setDbl 16 0x8001,
    qcbs := [queueOf st], harts := [⟨0, some 0x8000, none, some (5, ws), none, false⟩] }

def isBlock (r : QidRes) (pa : Nat) : Bool := match r with | .block x => x == pa | _ => false

theorem wit_QueueCommands :
    ([QState.idle, .pending, .mapped, .draining, .faulted, .frozen, .destroyed].all fun st =>
      !((queueBase st []).func 0).resetting && (queueBase st []).qcb? 0x8000 == some (queueOf st)) = true ∧
    (7 ≤ (queueOf .idle).wrptr ∧ 21 - (queueOf .idle).rdptr ≤ 2 ^ (queueOf .idle).cfg ∧ 22 - (queueOf .idle).rdptr > 2 ^ (queueOf .idle).cfg) ∧
    (queueOf .draining).refuses true false = some 1 ∧ (queueOf .mapped).refuses true false = none ∧ (queueOf .mapped).refuses true true = some 2 ∧
    (queueOf .faulted).refuses true true = none ∧
    (let s : State := { queueBase .idle [] with qcbs := [] }
     s.qcb? 0x8000 = none ∧ s.qcbs.length < 256) ∧
    State.reset.hubWaits = [] ∧ State.reset.pendingQueues = [] ∧ (queueBase .mapped []).commandWaits 0 1 = false ∧
    ({ queueBase .mapped [] with hubWaits := [(0, 1, 1, 0)] } : State).commandWaits 0 1 = true ∧ ((queueBase .faulted []).func 0).frozen = false ∧
    (let s : State := { queueBase .pending [] with clk := 1250000 }
     s.pendingQueues.find? (fun q => q.pa = 0x8000 && decide (s.clk ≥ q.since + 1250000)) = some (queueOf .pending)) := by decide +kernel

/-- Tables of function 0 from a place k on that holds no stage-2 root: stage 2, its QID table with queue 1, and the queue table. -/
def queueTables (k : Nat) : Memory :=
  (((Memory.setDbl [] (k + 8) 0x2001).setDbl (k + 0x2000) (BitVec.ofNat 64 (k + 5))).setDbl (k + 0x3010) 0x8001)
/-- The machine with these tables and the root's word at r. -/
def queueAt (k r : Nat) : State :=
  { State.reset with mem := (queueTables k).setDbl r (BitVec.ofNat 64 (k + 0x2003)),
                     funcs := [(0, { State.reset.func 0 with hqt2 := BitVec.ofNat 64 (k + 0x3000) })], qcbs := [queueOf .mapped] }


/-- Where no object lies, a home slice holds what memory holds. -/
theorem homeDbl_plain (s : State) (ho : s.objs = []) (ha : s.ordAccs = []) (b : Nat) : s.homeDbl b = s.mem.dbl b := by
  simp [State.homeDbl, State.homeWord, ho, ha, Memory.dbl]

/-- A value written reads back. -/
theorem dbl_setDbl {m : Memory} (h : m.wf = true) (r : Nat) (d : Dbl)
    (e : (d.extractLsb' 32 32).extractLsb' 24 8 ++ (d.extractLsb' 32 32).extractLsb' 16 8 ++ (d.extractLsb' 32 32).extractLsb' 8 8 ++
      (d.extractLsb' 32 32).extractLsb' 0 8 ++ ((d.extractLsb' 0 32).extractLsb' 24 8 ++ (d.extractLsb' 0 32).extractLsb' 16 8 ++
      (d.extractLsb' 0 32).extractLsb' 8 8 ++ (d.extractLsb' 0 32).extractLsb' 0 8) = d) : (m.setDbl r d).dbl r = d := by
  have w := setWord_wf h r (d.extractLsb' 0 32)
  have u (j : Nat) (hj : j < 4) : (m.setDbl r d).get (r + 4 + j) = (wordBytes (d.extractLsb' 32 32)).getD j 0 := by
    rw [Memory.setDbl, get_setWord w, if_pos (by omega), show r + 4 + j - (r + 4) = j by omega]
  have l (j : Nat) (hj : j < 4) : (m.setDbl r d).get (r + j) = (wordBytes (d.extractLsb' 0 32)).getD j 0 := by
    rw [Memory.setDbl, get_setWord w, if_neg (by omega), get_setWord h, if_pos (by omega), show r + j - r = j by omega]
  have u0 := u 0 (by omega)
  have l0 := l 0 (by omega)
  rw [Nat.add_zero] at u0 l0
  simp only [Memory.dbl, Memory.word]
  rw [u 3 (by omega), u 2 (by omega), u 1 (by omega), u0, l 3 (by omega), l 2 (by omega), l 1 (by omega), l0]
  exact e

theorem dbl_far {m : Memory} (h : m.wf = true) (r b : Nat) (d : Dbl) (f : b + 8 ≤ r ∨ r + 8 ≤ b) : (m.setDbl r d).dbl b = m.dbl b := by
  simp only [Memory.dbl, Memory.word]
  rw [get_setDbl_far h, get_setDbl_far h, get_setDbl_far h, get_setDbl_far h, get_setDbl_far h, get_setDbl_far h, get_setDbl_far h,
    get_setDbl_far h] <;> omega

/-- The place k leaves the root's word alone. -/
def Clear (k r : Nat) : Prop := (k = 0 ∧ 0x80000000 ≤ r) ∨ (k = 0x80000000 ∧ r < 0x80000000)

theorem queueTables_wf (k r : Nat) (h : Clear k r) : (queueTables k).wf = true := by
  obtain ⟨rfl, _⟩ | ⟨rfl, _⟩ := h <;> decide +kernel

theorem queueAt_mem (k r : Nat) : (queueAt k r).mem = (queueTables k).setDbl r (BitVec.ofNat 64 (k + 0x2003)) := by
  simp only [queueAt]

theorem queueAt_dbl (k r : Nat) (h : Clear k r) (b : Nat) (x : Nat → Dbl)
    (e : (queueTables 0).dbl b = x 0 ∧ (queueTables 0x80000000).dbl (0x80000000 + b) = x 0x80000000) (hb : 8 ≤ b ∧ b < 0x10000) :
    (queueAt k r).homeDbl (k + b) = x k := by
  rw [homeDbl_plain (queueAt k r) rfl rfl, queueAt_mem, dbl_far (queueTables_wf k r h)]
  · obtain ⟨rfl, _⟩ | ⟨rfl, _⟩ := h
    · rw [Nat.zero_add]; exact e.1
    · exact e.2
  · obtain ⟨rfl, _⟩ | ⟨rfl, _⟩ := h <;> omega

theorem queueAt_root (k r : Nat) (h : Clear k r) : (queueAt k r).homeDbl r = BitVec.ofNat 64 (k + 0x2003) := by
  rw [homeDbl_plain (queueAt k r) rfl rfl, queueAt_mem]
  refine dbl_setDbl (queueTables_wf k r h) r _ ?_
  obtain ⟨rfl, _⟩ | ⟨rfl, _⟩ := h <;> decide +kernel

theorem queueAt_addr (k r q : Nat) (h : Clear k r) (hr : Config.funcRoot 0 = r) (hq : q < 3) :
    (queueAt k r).funcAddr 0 (8 * q) = some (k + 8 * q) := by
  have i0 : descIndex (8 * q) 0 = 0 := by simp [descIndex, natBits]; omega
  have i1 : descIndex (8 * q) 1 = 0 := by simp [descIndex, natBits]; omega
  have n : ((queueAt k r).homeDbl (k + 0x2000)).toNat = k + 5 := by
    rw [queueAt_dbl k r h 0x2000 (fun k => BitVec.ofNat 64 (k + 5)) (by decide +kernel) (by omega)]
    obtain ⟨rfl, _⟩ | ⟨rfl, _⟩ := h <;> decide +kernel
  have z : ((queueAt k r).homeDbl r).toNat = k + 0x2003 := by
    rw [queueAt_root k r h]
    obtain ⟨rfl, _⟩ | ⟨rfl, _⟩ := h <;> decide +kernel
  have w : (stage2 (fun _ a => ((queueAt k r).homeDbl a).toNat) r (8 * q) 0).1 = some (leafOf (k + 5) 1) := by
    have v0 : descValid (k + 0x2003) 0 = true := by obtain ⟨rfl, _⟩ | ⟨rfl, _⟩ := h <;> decide +kernel
    have v1 : descValid (k + 5) 1 = true := by obtain ⟨rfl, _⟩ | ⟨rfl, _⟩ := h <;> decide +kernel
    have b0 : natBit (k + 0x2003) 1 = true := by obtain ⟨rfl, _⟩ | ⟨rfl, _⟩ := h <;> decide +kernel
    have b1 : natBit (k + 5) 1 = false := by obtain ⟨rfl, _⟩ | ⟨rfl, _⟩ := h <;> decide +kernel
    have t0 : natBits (k + 0x2003) 47 12 * 4096 = k + 0x2000 := by obtain ⟨rfl, _⟩ | ⟨rfl, _⟩ := h <;> decide +kernel
    simp [stage2, walkFrom, i0, i1, z, n, v0, v1, b0, b1, t0]
  rw [State.funcAddr, hr, w]
  have l : (leafOf (k + 5) 1).r = true ∧ (leafOf (k + 5) 1).base = k ∧ (leafOf (k + 5) 1).size = 2 ^ 30 := by
    obtain ⟨rfl, _⟩ | ⟨rfl, _⟩ := h <;> decide +kernel
  simp only [l.1, l.2.1, l.2.2, if_true]
  congr 1
  omega

/-- With the function's stage-2 root wherever it is (log entry 21), queue 1 names the block at 0x8000 and queue 2 none. -/
theorem wit_QueueCommands_block : ∃ s : State, (s.func 0).resetting = false ∧ s.qidBlock 0 1 = .block 0x8000 ∧ s.qidBlock 0 2 = .violation ∧
    s.qcb? 0x8000 = some (queueOf .mapped) := by
  have h : ∃ k, Clear k (Config.funcRoot 0) := by
    by_cases h : 0x80000000 ≤ Config.funcRoot 0
    · exact ⟨0, .inl ⟨rfl, h⟩⟩
    · exact ⟨0x80000000, .inr ⟨rfl, by omega⟩⟩
  obtain ⟨k, h⟩ := h
  refine ⟨queueAt k (Config.funcRoot 0), rfl, ?_, ?_, rfl⟩
  · have f : ((queueAt k (Config.funcRoot 0)).func 0).fqt1.toNat + 8 * 1 = 8 * 1 := rfl
    have t : ((queueAt k (Config.funcRoot 0)).func 0).hqt2.toNat + 8 * natBits (0x2001#64).toNat 23 12 = k + 0x3010 := by
      obtain ⟨rfl, _⟩ | ⟨rfl, _⟩ := h <;> rfl
    rw [State.qidBlock, f, queueAt_addr k _ 1 h rfl (by omega)]
    simp only [queueAt_dbl k _ h (8 * 1) (fun _ => 0x2001#64) (by decide +kernel) (by omega), t,
      queueAt_dbl k _ h 0x3010 (fun _ => 0x8001#64) (by decide +kernel) (by omega)]
    rfl
  · have f : ((queueAt k (Config.funcRoot 0)).func 0).fqt1.toNat + 8 * 2 = 8 * 2 := rfl
    rw [State.qidBlock, f, queueAt_addr k _ 2 h rfl (by omega)]
    simp only [queueAt_dbl k _ h (8 * 2) (fun _ => 0#64) (by decide +kernel) (by omega)]
    rfl

/-- What the statements on packets ask of the hart, as a test. -/
def hartHas (s : State) (h : Nat) (q : Qcb) (num : Nat) (ws : List Dbl) : Bool :=
  (match s.hart? h with | some x => x.qcb == some q.pa && x.read == some (num, ws) && x.blocked.isNone | none => false) &&
    s.qcb? q.pa == some q && decide (q.st = .mapped)

theorem hartHas_HartHas (s : State) (h : Nat) (q : Qcb) (num : Nat) (ws : List Dbl) (e : hartHas s h q num ws = true) : HartHas s h q num ws := by
  simp only [hartHas, Bool.and_eq_true, beq_iff_eq, decide_eq_true_eq] at e
  obtain ⟨⟨a, b⟩, c⟩ := e
  split at a
  · rename_i x hx
    simp only [Bool.and_eq_true, beq_iff_eq, Option.isNone_iff_eq_none] at a
    exact ⟨⟨x, hx, a.1.1, a.1.2, a.2⟩, b, c⟩
  · cases a

/-- The eight words of a packet with words 3 to 7. -/
def packetOf (h a b c d e : Dbl) : List Dbl := [h, 0, 0, a, b, c, d, e]

theorem wit_PacketsRun :
    (let has (ws : List Dbl) := hartHas (queueBase .mapped ws) 0 (queueOf .mapped) 5 ws
     let page (va : Nat) := match (queueBase .mapped []).translate ((queueBase .mapped []).hubCore 0) (queueOf .mapped).ctx va 0 with
       | .inl pa => pa == va | .inr _ => false
     let head := fun (ws : List Dbl) => has ws && headerOk ws
     -- NOP, with a reserved header bit, and with a word that is not 0
     has (packetOf 0x400 0 0 0 0 0) && !headerOk (packetOf 0x400 0 0 0 0 0) && head (packetOf 0 0 0 0 0 0) && zeroFrom (packetOf 0 0 0 0 0 0) 3 &&
     head (packetOf 0 0 0 0 0 1) && !zeroFrom (packetOf 0 0 0 0 0 1) 3 &&
     -- LAUNCH with a record in the page and behind it
     head (packetOf 0 0x1FF00 0 0 0 0) && Machine.addrOk 0x1FF00 64 && page 0x1FFC0 && !page 0x20000 &&
     -- WAIT for 0, that holds, and for 1, with a bound
     head (packetOf 0 0x10000 0 0xFF 0x100000000 0) && Machine.addrOk 0x10000 8 && waitHolds (packetOf 0 0x10000 0 0xFF 0x100000000 0) 0 &&
     !waitHolds (packetOf 0 0x10000 1 0xFF 0x100000000 0) 0 && head (packetOf 0 0x10000 1 0xFF 0x100000000 0) &&
     pktWord (packetOf 0 0x10000 1 0xFF 0x100000000 0) 6 / 2 ^ 32 == 1 &&
     -- INVAL of a range and scope 1 and 3; GROUP 255 of one participant; PREEMPT of 768 cores at priority 7
     head (packetOf 0 0x10000 0x1000 1 0 0) && head (packetOf 0 0x10000 0 3 0 0) && head (packetOf 0 0x10000 0x1000000FF 0 0 0) &&
     head (packetOf 0 0x700000300 0 0 0 0) &&
     -- PART 1 of sector 1, and its end
     head (packetOf 0 0x100000002 0 0x400 0 0) && partFieldsOk (packetOf 0 0x100000002 0 0x400 0 0) &&
     (let s : State := { queueBase .mapped (packetOf 0 0x100000002 0 0x400 0 0) with boot := { BootSt.reset with grants := [(0, 0xFFFF)] } }
      (kget 0 s.boot.grants 0) &&& 2 == 2 && (s.part? 1).isNone && (sectorsOf 2).all (fun k => (s.sectorPart k).isNone)) &&
     head (packetOf 0 0x100000000 0 0 0 0) &&
     (let s : State := { queueBase .mapped (packetOf 0 0x100000000 0 0 0 0) with parts := [loadPart, { loadPart with num := 1, sectors := [1] }] }
      (match s.part? 1 with | some p => !s.partFrozen p | none => false) && s.nodes.all (fun x => x.part != 1) && s.packets == [])) = true ∧
    (let p (sig : Dbl) : Packet := ⟨0x8000, 5, [0, sig, 0, 0x10000, 1, 0xFF, 0x100000000, 0], none, 0, some 512, []⟩
     let s (sig : Dbl) : State := { queueBase .mapped [] with packets := [p sig], clk := 1250, harts := [⟨0, some 0x8000, none, none, some 5, false⟩] }
     (s 0).packet? 0x8000 5 = some (p 0) ∧ ((s 0).signal (queueOf .mapped) 5 (p 0).words 1).isSome = true ∧
     ((s 0x20000).signal (queueOf .mapped) 5 (p 0x20000).words 1).isNone = true ∧ faultingStatus 1 = true ∧
     (p 0).since + pktWord (p 0).words 6 / 2 ^ 32 * 1250 ≤ (s 0).clk ∧ (s 0).grids.all (fun g => g.qcb ≠ 0x8000 || (s 0).gridOver g) = true) ∧
    (let s (x : Hart) : State := { queueBase .mapped [] with harts := [x] }
     (s ⟨0, some 0x8000, none, none, none, false⟩).hart? 0 = some ⟨0, some 0x8000, none, none, none, false⟩ ∧
     (s ⟨0, some 0x8000, none, none, none, true⟩).hart? 0 = some ⟨0, some 0x8000, none, none, none, true⟩ ∧ (queueOf .mapped).rdptr < (queueOf .mapped).wrptr ∧
     (match (s ⟨0, some 0x8000, none, none, none, false⟩).readWords ((s ⟨0, some 0x8000, none, none, none, false⟩).hubCore 0) (queueOf .mapped).ctx
        ((queueOf .mapped).ring + 64 * 5) 8 with | .inl l => l.length == 8 | .inr _ => false) = true ∧
     (s ⟨0, some 0x8000, some (5, [0, 0, 0, 0]), none, none, false⟩).hart? 0 = some ⟨0, some 0x8000, some (5, [0, 0, 0, 0]), none, none, false⟩ ∧
     (queueOf .mapped).rdptr = 5) := by decide +kernel

/-- A word of HBM in a partition's sector; a package that is named failed, one heard of lately, and one silent for 250 µs; a port that is
silent for 2 µs. -/
theorem wit_ErrorsAndLinks : (3 : Nat) ∈ ({ base with namedFailures := [3] } : State).namedFailures ∧ (3 : Nat) ∉ base.namedFailures ∧
    isHbm 0x10000 = true ∧ (base.sectorPart (paSector 0x10000)).isSome = true ∧
    (let s : State := { base with clk := 312500, heardFrom := [(3, 1), (4, 0)] }
     (∃ x ∈ s.heardFrom, x.1 = 3 ∧ s.clk < x.2 + 312500) ∧ (∀ x ∈ s.heardFrom, x.1 = 4 → x.2 + 312500 ≤ s.clk) ∧ (s.port 0).heard + 2500 ≤ s.clk) := by
  decide +kernel

theorem wit_FreezeAndTests :
    (base.crewAt 0 0).isSome = true ∧ base.frzlog.getLsbD 63 = false ∧
    (let s : State := { base with frzlog := 0x8000000000000000, frzWho := some (.channel 3) }
     s.frzlog.getLsbD 63 = true ∧ s.frzWho = some (.channel 3)) ∧
    ((base.quad 0).failed = false ∧ (base.quad 0).testing = false ∧ (base.quad 0).testDue = none) ∧
    (let s : State := { base.modQuad 0 fun k => { k with testDue := some 0, skips := 2 } with clk := 62500000 }
     (s.quad 0).testDue = some 0 ∧ 0 + 62500000 ≤ s.clk ∧ (s.quad 0).blocked = false ∧ 2 ≤ (s.quad 0).skips) ∧
    ((base.modQuad 0 fun k => { k with testing := true }).quad 0).testing = true := by decide +kernel

theorem wit_HostRequests :
    (let r : PageReq := ⟨3, 0, 2, 0, 16, 0, 0, false, false, []⟩
     let s (head : Word32) : State := { base with pageReqs := [r], funcs := [(0, { base.func 0 with s2fring := 0x10006, s2ftail := 63, s2fhead := head })] }
     (s 1).pageReqs.find? (fun r => r.id = 3) = some r ∧ (s 1).faultRing = some 64 ∧ (s 1).faultRoom = true ∧ (s 0).faultRoom = false) ∧
    (let r : PageReq := ⟨3, 0, 1, 9, 16, 0, 0, true, false, []⟩
     let q : PageReq := ⟨4, 1, 2, 9, 16, 0, 0, true, false, []⟩
     let freed : State := { base with funcs := [(0, { base.func 0 with freed := [(1, 9), (2, 9)] })] }
     ({ base with pageReqs := [r, q] } : State).outstanding 0 1 9 = some r ∧ ({ base with pageReqs := [r, q] } : State).outstanding 1 2 9 = some q ∧
     base.outstanding 0 1 9 = none ∧ (1, 9) ∉ (base.func 0).freed ∧ (2, 9) ∉ (base.func 1).freed ∧ (1, 9) ∈ (freed.func 0).freed ∧
     (2, 9) ∈ (freed.func 0).freed) ∧
    (Memory.setWord [] 126 5).wf = true ∧
    (let s := lineOp (.host false) .serving
     match s.op? 9 with | some o => o.lines.length == 1 && decide (o.a / 128 = 0 ∧ o.a % 128 + o.n ≤ 128) | none => false) = true := by decide +kernel

/-- Flash that is empty has no slot that verifies; that one does verify rests on the keys of log entry 23. -/
theorem wit_ResetsAndBoot : true = State.reset.boot.resetN ∧ false ≠ State.reset.boot.resetN ∧ bootSlot State.reset.boot.flash = none ∧
    ({ State.reset with boot := { BootSt.reset with active := some 1 } } : State).boot.active = some 1 := by
  have w (n o : Nat) : cfgWord [] n o = 0 := by simp [cfgWord, Memory.word, Memory.get]
  have r (n : Nat) : recordPasses [] n = false := by simp [recordPasses, w]
  refine ⟨rfl, by decide, ?_, rfl⟩
  show bootSlot [] = none
  rw [bootSlot, List.find?_eq_none]
  intro x _
  rw [slotVerifies, r, Bool.and_false]
  exact Bool.false_ne_true

theorem wit_DecodeEncode : WellFormed (.sadd true 7 false 31 95 127) ∧ encode (.sadd true 7 false 31 95 127) = some 0x81E7EFFF :=
  ⟨⟨rfl, rfl⟩, rfl⟩

theorem wit_EncodeDecode : decodeWord 0x81E7EFFF = .ok (.sadd true 7 false 31 95 127) := by rfl

/-- What the statements on a core's turn ask, as a test: one group at word 0 of frame 0. -/
def turnPlan : Plan := { who := .group 1, threads := List.range 16, pc := { frame := false, word := 0 }, port := 0, packets := 0, again := false }

def coreTurn (s : State) : Bool :=
  let s1 := ({ s with runs := s.runs.filter s.runLives } : State).noteReady 0
  s.nextDue.isNone && s.nextPark.isNone && s.nextBound.isNone && decide (s.nextTurn = some (.inl 0)) && decide ((s1.plans 0).1 = [turnPlan]) &&
    (match s1.wg? 1 with | some w => decide (w.id = 1) | none => false)

def starterTurn (s : State) : Bool :=
  let s1 := { s with runs := s.runs.filter s.runLives }
  s.nextDue.isNone && s.nextPark.isNone && s.nextBound.isNone && decide (s.nextTurn = some (.inr 0)) && s1.starterReady 0 &&
    (s1.runs.find? (fun r => r.who == .starter 0)).isNone

theorem coreTurn_CoreTurn (s : State) (h : coreTurn s = true) :
    ∃ served w, CoreTurn s (({ s with runs := s.runs.filter s.runLives } : State).noteReady 0) 0 turnPlan served w := by
  simp only [coreTurn, Bool.and_eq_true, decide_eq_true_eq, Option.isNone_iff_eq_none] at h
  obtain ⟨⟨⟨⟨⟨a, b⟩, c⟩, d⟩, e⟩, f⟩ := h
  split at f
  · rename_i w hw
    have f : w.id = 1 := by simpa using f
    exact ⟨_, w, ⟨a, b, c⟩, d, rfl, Prod.ext e rfl, by rw [f]; rfl, ⟨rfl, rfl⟩, by rw [f]; exact hw⟩
  · cases f

theorem starterTurn_StarterTurn (s : State) (h : starterTurn s = true) :
    ∃ k, StarterTurn s { s with runs := s.runs.filter s.runLives } 0 k := by
  simp only [starterTurn, Bool.and_eq_true, decide_eq_true_eq, Option.isNone_iff_eq_none] at h
  obtain ⟨⟨⟨⟨⟨a, b⟩, c⟩, d⟩, e⟩, f⟩ := h
  exact ⟨_, ⟨a, b, c⟩, d, rfl, e, f, rfl⟩

/-- Both streams at a word of each unused major. -/
theorem wit_UnusedMajorsTrap : unusedMajors.all (fun m =>
    let x : Word32 := 0#1 ++ m ++ 0#24
    coreTurn (State.reset.loadCode [x, filler, filler]) && starterTurn (State.reset.loadStarter [x, filler, filler])) = true := by decide +kernel

/-- Both streams at a word without and with a literal, which is accepted and chained to nothing. -/
theorem wit_StepRunsDecodedWord :
    [(Instr.sadd false 7 false 5 65 66, [0, filler]), (.smov false 7 false 5 127, [9, filler])].all (fun x =>
      match encode x.1 with
      | some w =>
        let s := State.reset.loadCode (w :: x.2)
        let t := State.reset.loadStarter (w :: x.2)
        coreTurn s && starterTurn t && !(shape x.1).chain && t.starterAccepts x.1 && (match s.wg? 1 with | some w => s.accepts w x.1 | none => false) &&
          (match decodeWord w with | .ok i => i == x.1 | .error _ => false)
      | none => false) = true ∧
    State.reset.nextDue = some (0, .boot) ∧
    (let s := base.modWg 1 fun w => w.modThreads (List.range 16) fun t => { t with wait := .parked (.present []) }
     s.nextDue = none ∧ s.nextPark = some (1, 0)) ∧
    (let s : State := { base with issuedAt := [(0, 1)] }
     s.nextDue = none ∧ s.nextPark = none ∧ s.nextBound = none ∧ s.nextTurn = none) := by decide +kernel

/-- Reset, and a loaded machine with a result to come, keep to the agenda's form and to canonical memory; a step of both goes on. -/
theorem wit_StepNeverStops : (∀ e ∈ State.reset.agenda, isDevice e.2 = true) ∧ isDevice (.multiClkResultWrite 1 7) = true ∧
    isDevice (.sadd false 7 false 5 65 66) = false := by decide +kernel

theorem wit_StepKeepsInvariant : State.reset.mem.wf = true ∧ (match step base with | .next _ => true | _ => false) = true := by decide +kernel

theorem wit_RegisterWordsFrame :
    registerOnly (.vaddI32 false 7 false 5 1 2) = true ∧
    meets base (fun s _ w => match exec (.vaddI32 false 7 false 5 1 2) s with | .next _ => (s.wg? w.id).isSome | _ => false) = true ∧
    meetsS starterBase (fun s _ _ _ => match exec (.sadd false 7 false 5 65 66) s with | .next _ => true | _ => false) = true := by decide +kernel

theorem wit_MemoryReadsBack : (Memory.setWord [] 126 0x01020304).wf = true ∧ (Memory.setWord [] 126 0x01020304).get 129 = 1 := by decide +kernel

theorem wit_HomeSlice : (3 : Nat) < 4 ∧ 2 ^ 39 - 1 < 2 ^ 39 ∧ (2 ^ 39 - 1) / 2 ^ 35 = 3 * 4 + 3 := by decide +kernel


/-! ### Further cases of the statements, each a state in which the clause's conditions hold -/

/-- Workgroup 1 with a note at the word of isG in every thread. -/
def noted (s : State) (v : Nat) : State := s.modWg 1 fun w => w.modThreads (List.range 16) fun t => { t with notes := [⟨⟨false, 0⟩, v, 3⟩] }

/-- A bwait that has found nothing, and one that has; an xfence that has kept its TAIL; a yield of a workgroup that is to leave. -/
theorem wit_FencesAndBarriers_notes :
    (meets base (fun _ is w => issueNotes is w == []) && meets (noted base 0) (fun _ is w => (issueNotes is w).all (fun n => n.val == 0) && issueNotes is w != []) &&
     meets (noted base 2) (fun _ is w => (issueNotes is w).find? (fun n => n.val ≠ 0) == some ⟨⟨false, 0⟩, 2, 3⟩) &&
     meets (base.modWg 1 fun w => { w with evict := true }) (fun _ is w => w.evict && is.first == is.addr)) = true := by decide +kernel

/-- A barrier object of phase 5 with 2 of 3 arrivals left, overrun or not, at offset 0 of the scratchpad. -/
def objectAt (ov clk : Nat) : State :=
  { base.modCore 0 fun k => { k with scratch := k.scratch.setWords 0 [BitVec.ofNat 32 (2 + 3 * 4096 + 5 * 2 ^ 24 + ov * 2 ^ 28 + 2 ^ 29), 0, 0, 0] } with clk := clk }

/-- A phase that is over; an overrun; a bound that is passed in its own clk, and one that is not passed a clk before. -/
theorem wit_FencesAndBarriers_objects :
    (let w0 (s : State) := ((s.core 0).scratch.word 0).toNat
     let ph (s : State) := w0 s / 2 ^ 24 % 16
     (w0 (objectAt 0 9)).testBit 29 ∧ ph (objectAt 0 9) = 5 ∧ (w0 (objectAt 0 9)).testBit 28 = false ∧ (w0 (objectAt 1 9)).testBit 28 ∧
     (∃ b, some 9 = some b ∧ b ≤ (objectAt 0 9).clk) ∧ (∀ b, some 10 = some b → (objectAt 0 9).clk < b)) := by
  refine ⟨by decide +kernel, by decide +kernel, by decide +kernel, by decide +kernel, ⟨9, rfl, by decide +kernel⟩, ?_⟩
  rintro b ⟨rfl⟩
  decide +kernel

/-- A line not sent on an idle and on a busy channel, one in progress and one that is not; a frozen channel; a line withheld by an error. -/
theorem wit_EngineWordsAndSteps_lines :
    (let s := wordBase .cpy (some 5) false [⟨0, none, none, false⟩]
     let busy : State := { s with words := s.words.map fun e => { e with readAt := s.clk } }
     let cut : State := { s with words := s.words.map fun e => { e with bad := some 512 } }
     (match s.word? 9 with
      | some e => e.kind != .ovl && !s.readBusy e && e.live.find? (fun p => p.k = 0) == some ⟨0, none, none, false⟩ && e.live.all (fun p => p.k != 1) && e.causes == []
      | none => false) &&
     (match busy.word? 9 with | some e => busy.readBusy e && e.chan == some 5 && e.readAt == busy.clk | none => false) &&
     (match ({ s with frozenChans := [5] } : State).word? 9 with | some e => e.chan == some 5 | none => false) &&
     (match cut.word? 9 with | some e => e.bad == some 512 && (cut.corePart e.core).isSome | none => false)) = true := by decide +kernel

/-- A flit of workgroup 1 that is not on its way. -/
theorem wit_Relays_resend :
    (let f : Flit := ⟨9, 1, 0, 0, 0, 0, 7, ⟨1, 0, 0⟩, 20, none, 0, 0⟩
     let s : State := { base with flits := [f] }
     s.flits.find? (fun f => f.id = 9) = some f ∧ (s.wg? f.wg).isSome = true ∧ s.flitMoving 9 = false) := by decide +kernel

/-- A starter at a buffer whose page its core lacks; a counter at 0 that two nodes have counted down, with the waiter's node. -/
theorem wit_TaskWordsAndEvents_waits :
    meetsS ((starterBase.setStarter 1 0x10000).tables) (fun s is q k => guardOn k.p 7 && k.mark == none && (match s.starterGrid k with
        | some g => (match s.translate (quadCore 0 0) g.ctx (starterSrc s is q k 65).toNat 0 with | .inl _ => false | .inr _ => true)
        | none => false)) = true ∧
    (let b : Baton := { batonOf .queued 0 with node := 3 }
     let s : State := { base with batons := [b], nodes := [⟨0, 3, 1, [], none, []⟩], joins := [⟨0x10000, 4, (0, 0), 0⟩, ⟨0x10000, 5, (0, 0), 0⟩] }
     let w : Waiter := ⟨0x10000, 0, 7, none⟩
     s.baton? w.baton = some b ∧ (s.node? w.part b.node).isSome = true ∧ (∃ j ∈ s.joins, j.pa = w.pa ∧ j.node ≠ b.node)) := by decide +kernel

/-- A baton placed to start at clk 60, before it and in it. -/
theorem wit_BatonEvents_starts :
    (let b : Baton := { batonOf .placed 0 with starts := 60 }
     let s (t : Nat) : State := { base with batons := [b], clk := t }
     (s 59).baton? 7 = some b ∧ (s 59).clk < b.starts ∧ b.starts ≤ (s 60).clk ∧ b.st = .placed) := by decide +kernel

/-- A workgroup whose crew is out and that nothing holds, its context not yet begun, on its way, and through the port. -/
theorem wit_ContextEvents_saving :
    (let s (x : Option (Nat × Nat)) (t : Nat) : State := { (base.modWg 1 fun w => (w.modCrew 0 fun c => { c with out := true }) |> fun w =>
       { w with saving := x, due := some 0 }) with clk := t }
     [(s none 0), (s (some (0, 10)) 9), (s (some (0, 10)) 10)].all fun s => match s.wg? 1 with
       | some w => decide (s.leaving w = [w]) && s.quiet w && !w.evict && s.shadowRoom (coreQuad w.core) && w.threads.any (fun t => !t.exited) &&
           (w.crew? 0).any (fun k => k.out) && w.crews.length == 1 && s.wgs.length == 1
       | none => false) = true := by decide +kernel

/-- A grant that has come to a request and one that has not; two requests of one clk; a first request that no ballast answers and one behind a step. -/
theorem wit_PacerSteps_grants :
    (let s := base.modCore 0 fun k => { k with asked := true, token := .work, queue := [] }
     (s.core 0).asked = true ∧ (s.core 0).token = .work) ∧ (base.core 0).asked = false ∧
    (let q (c : Nat) : TokReq := { core := c, part := 0, arrived := 0 }
     let s (l : List TokReq) : State := { base with pacer := { base.pacer with reqs := l } }
     (s [q 1, q 0]).headReq 0 = some (q 0) ∧ (s []).headReq 0 = none ∧ (s [q 0]).donor 0 0 = none ∧ (s [q 0]).behindStep 0 = false) := by decide +kernel

/-- A packet read whose slice has a start left and one that finds none; a half that has been read; a read that has been refused. -/
theorem wit_PacketsRun_reads :
    (let s := queueBase .mapped []
     let full := s.modSlice (paSlice 0x10000) fun x => { x with startedAt := s.clk, startedN := 4 }
     (s.directStart 0x10000 0).isSome = true ∧ (full.directStart 0x10000 0).isNone = true ∧
     (match s.hubAddr (s.hubCore 0) (queueOf .mapped).ctx 0x10000 0 with | .inl pa => pa == 0x10000 | .inr _ => false) = true ∧
     (match s.hubWords (s.hubCore 0) (queueOf .mapped).ctx 0x10000 8 with | .inl l => l.length == 8 | .inr _ => false) = true ∧
     (match s.hubWords (s.hubCore 0) (queueOf .mapped).ctx 0x20000 8 with | .inl _ => false | .inr _ => true) = true) := by decide +kernel

/-- Results of no word, and of one a clk and two clk ago; a crew that reset leaves as reading it back does. -/
theorem wit_SystemRegistersAndFlags_settled :
    (meets ({ base with clk := 9 } : State) (fun _ is w => (w.crewsOf is.threads).all fun n => match w.crew? n with | some y => y.wrote == 0 | none => false) &&
     meets ({ base.setK (fun k => { k with wrote := 8 }) with clk := 9 } : State) (fun s is w => (w.crewsOf is.threads).all fun n => match w.crew? n with
       | some y => y.wrote + 1 == s.clk | none => false) &&
     meets ({ base.setK (fun k => { k with wrote := 9 }) with clk := 9 } : State) (fun s is w => (w.crewsOf is.threads).any fun n => match w.crew? n with
       | some y => decide (s.clk < y.wrote + 1) && y.wrote != 0 | none => false)) = true ∧
    ([0x40, 0x41, 0x42, 0x43, 0x44, 0x45, 0x46, 0x47, 0x60, 0x61, 0x62, 0x63].all fun n => match base.wg? 1 with
      | some w => (match w.crew? 0 with | some k => k.sysWrite n (k.sysValue n) == k | none => false) | none => false) = true := by decide +kernel
/-! ### Steps -/

/-- The state after a step. -/
def stepped (s : State) : Option State := match step s with | .next t => some t | _ => none

/-- Workgroup 1 after a step. -/
def steppedWg (s : State) : Option Wg := (stepped s).bind fun t => t.wg? 1

/-- R76: sli s5, −1 in the vector stream, and the threads go on to word 1. -/
theorem test_step_sli : ((steppedWg (State.reset.withFetchWord 32 0b0_0010001_111_0_0_00101_11111111111111)).map fun w =>
    ((w.crew? 0).map (fun c => c.sreg 5), (w.thread? 15).map fun t => t.pc.word)) = some (some 0xFFFFFFFFFFFFFFFF, some 1) := by decide +kernel

/-- R44, R333, R335: an unused major takes ILLOP (code 1), which no handler takes, so that the workgroup stops. -/
theorem test_step_illop : (steppedWg (State.reset.withFetchWord 32 0)).map (fun w => (w.stopped, (w.crew? 0).map fun c => c.tinfo.extractLsb' 0 4)) =
    some (some 1, some 1) := by decide +kernel

/-- R254: exit ends its threads. -/
theorem test_step_exit : (steppedWg (State.reset.withFetchWord 32 0b0_1101101_111_000000011001000000001)).map
    (fun w => w.threads.all fun t => t.exited) = some true := by decide +kernel

/-- R154, R156: mzero of array 0 in the starter's stream enters core 0's queue, and the starter goes on. -/
theorem test_step_mzero : (stepped (State.reset.withFetchWord 32 0b0_1001011_111_000000011001000_1_0_0001)).map
    (fun t => ((t.core 0).queue.map (fun o => o.kind), (t.starter 0).pc.word)) = some ([.zero false true], 1) := by decide +kernel

/-- R34: with nothing left to do in the clk, the clk is counted on. -/
theorem test_step_clk : (stepped { base with issuedAt := [(0, 1)] }).map (fun t => t.clk) = some 1 := by decide +kernel

/-- R253: br of −1 packet from packet 2 goes to packet 1; threads with guard 0 stay on the way behind it. -/
theorem test_br : (let s := State.reset.loadCode (List.replicate 9 filler)
    let is := { isG 0 with addr := { frame := false, word := 6 }, next := { frame := false, word := 7 } }
    let s : State := { (s.setP 3 2) with cur := some is }
    match exec (.br 2 0x1FFFFF) s with
    | .next t => (t.wg? 1).map fun w => ((w.thread? 3).map (fun x => x.pc.word), (w.thread? 4).map fun x => x.pc.word)
    | _ => none) = some (some 3, some 7) := by decide +kernel

/-- R189: sts writes in lane order, so the highest lane's value stays; lds reads it back. -/
theorem test_sts_last_lane : (match exec (.sts false 7 1 100 100) (group ((base.setAllV 1 4).setV 15 1 7) 0) with
    | .next t => some ((t.core 0).scratch.word 0) | _ => none) = some 7 := by decide +kernel
theorem test_lds : gotV ((base.setAllV 1 4092).modCore 0 fun k => { k with scratch := k.scratch.setWord 4092 0xCAFE }) (.lds false 7 false 5 1 100) 0 9 5 =
    some 0xCAFE := by decide +kernel

/-- R333: trap 9 with a handler at packet 1: TINFO has code 11 and IN, TPC the word behind, TVAL 9, and the threads stand at the handler. -/
theorem test_trap : (let s := (State.reset.loadCode (List.replicate 6 filler)).setK fun k => { k with tvec := 0x8000000C }
    match exec (.trap 7 127) (group s 9) with
    | .next t => (t.wg? 1).bind fun w => (w.crew? 0).map fun c => (c.tinfo, c.tpc.extractLsb' 0 14, c.tval, (w.thread? 0).map fun x => x.pc.word)
    | _ => none) = some (0x10B, 2, 9, some 3) := by decide +kernel

/-- R24, R4: bytes of a word lie lowest first; 0 is not listed. -/
theorem test_memory : (Memory.setWord [] 8 0x11002233).bytes 8 4 = [0x33, 0x22, 0, 0x11] ∧ Memory.setWord (Memory.setWord [] 8 0x11002233) 8 0 = [] := by
  decide +kernel

/-- R243: unsigned maximum of lanes of one word, lane by lane. -/
theorem test_atomic_max : atomicOp 2 1 5 0xFFFFFFFF 0 = (0xFFFFFFFF, 0) ∧ atomicOp 2 0 5 0xFFFFFFFF 0 = (5, 0) ∧
    atomicOp 8 0 7 7 0 = (0, 0) ∧ atomicOp 8 0 6 7 0 = (7, 0) := by decide +kernel


end Sys2Proof.Tests

end
end

section
/-! SUPPORT. The unused majors (R44): which words the decoder rejects for their major, and what an issue group and a starter do at a word that
decode rejects. -/

namespace Sys2Proof.Machine

/-! ### The decoder -/

/-- A row of a major's table answers an instruction, or what the rows behind it answer. -/
@[simp] theorem row_eq_unusedMajor {c : Prop} [Decidable c] {i : Instr} {r : Except Reject Instr} :
    (if c then .ok i else r) = .error .unusedMajor ↔ ¬ c ∧ r = .error .unusedMajor := by
  split <;> simp [*]

theorem mem_unusedMajors (m : BitVec 7) :
    m ∈ unusedMajors ↔ m.toNat ∈ [0x00, 0x16, 0x17, 0x36, 0x37, 0x46, 0x47, 0x51, 0x66, 0x67, 0x6F] := by
  simp [unusedMajors, ← BitVec.toNat_inj]

theorem decodeWord_of_unusedMajor {x : Word32} (h : fld x 24 7 ∈ unusedMajors) : decodeWord x = .error .unusedMajor := by
  simp only [unusedMajors, List.mem_cons, List.not_mem_nil, or_false] at h
  rcases h with h | h | h | h | h | h | h | h | h | h | h <;> (rw [decodeWord, h]; rfl)

/-- A major with a table of R43 answers one of its rows or that there is none; the numbers left over are the unused ones. -/
theorem unusedMajor_of_decodeWord {x : Word32} (h : decodeWord x = .error .unusedMajor) : fld x 24 7 ∈ unusedMajors := by
  unfold decodeWord at h
  split at h
  case h_118 =>
    have hlt := (fld x 24 7).isLt
    simp only [imp_false] at *
    simp only [mem_unusedMajors, List.mem_cons, List.not_mem_nil, or_false]
    omega
  all_goals simp [
    decodeMajor01, decodeMajor02, decodeMajor03, decodeMajor04, decodeMajor05, decodeMajor06, decodeMajor07, decodeMajor08, decodeMajor09,
    decodeMajor0A, decodeMajor0B, decodeMajor0C, decodeMajor0D, decodeMajor0E, decodeMajor0F, decodeMajor10, decodeMajor11, decodeMajor12,
    decodeMajor13, decodeMajor14, decodeMajor15, decodeMajor18, decodeMajor19, decodeMajor1A, decodeMajor1B, decodeMajor1C, decodeMajor1D,
    decodeMajor1E, decodeMajor1F, decodeMajor20, decodeMajor21, decodeMajor22, decodeMajor23, decodeMajor24, decodeMajor25, decodeMajor26,
    decodeMajor27, decodeMajor28, decodeMajor29, decodeMajor2A, decodeMajor2B, decodeMajor2C, decodeMajor2D, decodeMajor2E, decodeMajor2F,
    decodeMajor30, decodeMajor31, decodeMajor32, decodeMajor33, decodeMajor34, decodeMajor35, decodeMajor38, decodeMajor39, decodeMajor3A,
    decodeMajor3B, decodeMajor3C, decodeMajor3D, decodeMajor3E, decodeMajor3F, decodeMajor40, decodeMajor41, decodeMajor42, decodeMajor43,
    decodeMajor44, decodeMajor45, decodeMajor48, decodeMajor49, decodeMajor4A, decodeMajor4B, decodeMajor4C, decodeMajor4D, decodeMajor4E,
    decodeMajor4F, decodeMajor50, decodeMajor52, decodeMajor53, decodeMajor54, decodeMajor55, decodeMajor56, decodeMajor57, decodeMajor58,
    decodeMajor59, decodeMajor5A, decodeMajor5B, decodeMajor5C, decodeMajor5D, decodeMajor5E, decodeMajor5F, decodeMajor60, decodeMajor61,
    decodeMajor62, decodeMajor63, decodeMajor64, decodeMajor65, decodeMajor68, decodeMajor69, decodeMajor6A, decodeMajor6B, decodeMajor6C,
    decodeMajor6D, decodeMajor6E, decodeMajor70, decodeMajor71, decodeMajor72, decodeMajor73, decodeMajor74, decodeMajor75, decodeMajor76,
    decodeMajor77, decodeMajor78, decodeMajor79, decodeMajor7A, decodeMajor7B, decodeMajor7C, decodeMajor7D, decodeMajor7E, decodeMajor7F] at h

theorem decodeWord_eq_unusedMajor_iff (x : Word32) : decodeWord x = .error .unusedMajor ↔ fld x 24 7 ∈ unusedMajors :=
  ⟨unusedMajor_of_decodeWord, decodeWord_of_unusedMajor⟩

/-! ### A clk at a word that decode rejects -/

/-- The clk that decode rejects at its first word (R49). -/
def rejectedClk (p : Pc) : Clk := { words := [], next := p, more := false, bad := some p }

theorem clkAt_of_rejected {code : List Word32} {p : Pc} {x : Word32} {r : Reject} (hx : code[p.word.toNat]? = some x)
    (hr : decodeWord x = .error r) (ok : Instr → Bool) (packet : Nat) : clkAt code ok packet p = rejectedClk p := by
  simp only [clkAt, fetchFrom, hx, hr, rejectedClk]

/-! ### The step of a turn -/

theorem step_of_coreTurn {s s1 : State} {core : Nat} {p : Plan} {served : Option Nat} {w : Wg} (h : CoreTurn s s1 core p served w) :
    step s = andThen (s1.issueGroup p s1) fun t => .next (s1.endCoreClk core served [p] t) := by
  obtain ⟨⟨hdue, hpark, hbound⟩, hturn, rfl, hplans, -, -, -⟩ := h
  simp only [step, State.advance, hdue, hpark, hbound, hturn, State.coreClk, hplans, List.foldl_cons, List.foldl_nil, andThen]

theorem step_of_starterTurn {s s1 : State} {q : Nat} {k : Starter} (h : StarterTurn s s1 q k) : step s = s.starterTurn q := by
  obtain ⟨⟨hdue, hpark, hbound⟩, hturn, -, -, -, -⟩ := h
  simp only [step, State.advance, hdue, hpark, hbound, hturn]

/-- A group that begins at a word that decode rejects takes ILLOP there (R49). -/
theorem issueGroup_of_rejected {s1 : State} {p : Plan} {w : Wg} (hwho : p.who = .group w.id) (hpackets : p.packets = 0)
    (hagain : p.again = false) (hw : s1.wg? w.id = some w)
    (hk : ∀ packet, clkAt (s1.codeFor w p.pc) (s1.accepts w) packet p.pc = rejectedClk p.pc) :
    s1.issueGroup p s1 = .next (({ s1.modWg w.id fun y => y.beginGroup p with cur := none }.groupTrap w.id p.threads .illop p.pc
      p.pc).keepRun p (rejectedClk p.pc) []) := by
  have hfresh : p.fresh = true := by simp [Plan.fresh, hpackets]
  simp [State.issueGroup, hwho, hw, hagain, hfresh, hk, rejectedClk]

/-- A starter traps alike whatever word is being issued (R333, R335). -/
theorem starterTrap_cur (s : State) (c : Option Issue) (q : Nat) (t : Trap) (a b : Pc) :
    ({ s with cur := c } : State).starterTrap q t a b = { s.starterTrap q t a b with cur := c } := by
  have hstarter : ({ s with cur := c } : State).starter q = s.starter q := rfl
  have hvalid (off : Nat) : ({ s with cur := c } : State).validStarterTarget q off = s.validStarterTarget q off := rfl
  unfold State.starterTrap
  rw [hstarter]
  simp only [hvalid]
  split
  · rfl
  · cases (s.starter q).run with
    | none => rfl
    | some run =>
      simp only [State.reportStop, State.grid?, State.modStarter_grids]
      split <;> rfl

theorem starterTrap_runs (s : State) (q : Nat) (t : Trap) (a b : Pc) : (s.starterTrap q t a b).runs = s.runs := by
  rw [starterTrap_frame]

/-- An issuer that has no run keeps none up behind a clk that ends its group (R37). -/
theorem keepRun_of_noRun {s : State} {p : Plan} {k : Clk} (hruns : s.runs.find? (fun r => r.who == p.who) = none) (hmore : k.more = false)
    (hidden : List (Nat × Nat × Dbl)) : s.keepRun p k hidden = s := by
  have hall : s.runs.filter (fun r => !(r.who == p.who && r.threads == p.threads)) = s.runs := by
    refine List.filter_eq_self.mpr fun r hr => ?_
    simp [List.find?_eq_none.mp hruns r hr]
  unfold State.keepRun
  split
  · rfl
  · simp only [hmore, hall, Bool.false_eq_true, if_false]

/-- What a starter that begins a group at an address issues there. -/
def starterPlan (q : Nat) (pc : Pc) : Plan := { who := .starter q, threads := [], pc := pc, port := 0, packets := 0, again := false }

/-- A starter's clk is over: it has had its turn. -/
def State.endStarterClk (q : Nat) (t : State) : State := { t with cur := none, issuedAt := kset t.issuedAt (1024 + q) (t.clk + 1) }

/-- A starter that begins a group at a word that decode rejects takes ILLOP there (R49); the model drops the word being issued first. -/
theorem starterTurn_of_rejected {s s1 : State} {q : Nat} {k : Starter} (h : StarterTurn s s1 q k)
    (hk : clkAt k.code s1.starterAccepts 1 k.beginAt = rejectedClk k.beginAt) :
    s.starterTurn q = .next (State.endStarterClk q (({ s1.modStarter q fun y => { y with pc := k.beginAt } with cur := none }.starterTrap
      q .illop k.beginAt k.beginAt).keepRun (starterPlan q k.beginAt) (rejectedClk k.beginAt) [])) := by
  obtain ⟨-, -, hruns, hready, hbegins, hstarter⟩ := h
  have hclk : s1.starterClk q = rejectedClk k.beginAt := by
    simp only [State.starterClk, hbegins, hstarter, hk]
  unfold State.starterTurn
  rw [← hruns]
  simp only [hready, hbegins, hclk, hstarter]
  rfl

/-- Behind a starter's trap there is no run to keep up, so that it does not matter when the word being issued is dropped. -/
theorem endStarterClk_of_trap {s : State} {q : Nat} (hruns : s.runs.find? (fun r => r.who == .starter q) = none) (t : Trap) (pc : Pc) :
    State.endStarterClk q (({ s with cur := none }.starterTrap q t pc pc).keepRun (starterPlan q pc) (rejectedClk pc) []) =
      State.endStarterClk q ((s.starterTrap q t pc pc).keepRun (starterPlan q pc) (rejectedClk pc) []) := by
  have hno : (s.starterTrap q t pc pc).runs.find? (fun r => r.who == .starter q) = none := by
    rw [starterTrap_runs, hruns]
  rw [starterTrap_cur, keepRun_of_noRun hno rfl, keepRun_of_noRun hno rfl]
  rfl

/-! ### The statement -/

/-- Settles O52: decode answers that a major is unused for the majors of R44 only, and a word that it rejects is the illegal one of the
clk that begins there, which a turn answers with ILLOP. -/
theorem unusedMajorsTrap : Obligations.UnusedMajorsTrap := by
  refine ⟨fun x => (decodeWord_eq_unusedMajor_iff x).symm, fun s s1 core p served w x hturn hx hunused => ?_,
    fun s s1 q k x hturn hx hunused => ?_⟩
  · have hk := clkAt_of_rejected hx (decodeWord_of_unusedMajor hunused) (s1.accepts w)
    have hstep := step_of_coreTurn hturn
    obtain ⟨-, -, -, -, hwho, ⟨hpackets, hagain⟩, hw⟩ := hturn
    rw [hstep, issueGroup_of_rejected hwho hpackets hagain hw hk]
    rfl
  · have hk := clkAt_of_rejected hx (decodeWord_of_unusedMajor hunused) s1.starterAccepts 1
    rw [step_of_starterTurn hturn, starterTurn_of_rejected hturn hk, endStarterClk_of_trap (s := s1.modStarter q _) hturn.begins]
    rfl

end Sys2Proof.Machine
end

section
/-! SUPPORT. The scalar words (R72, R73, R80, R81): the values that their meanings compute, each in the terms of its rule, and what the words
do with them. -/

namespace Sys2Proof.Machine

/-! ### Values of the binary words -/

/-- Bits 2n−1:n of a number are those of its quotient by 2^n, rounded down. -/
theorem extractLsb'_ofInt (n : Nat) (v : Int) : (BitVec.ofInt (n + n) v).extractLsb' n n = BitVec.ofInt n (v / 2 ^ n) := by
  have hquot : v % (2 ^ n * 2 ^ n) / 2 ^ n % 2 ^ n = v / 2 ^ n % 2 ^ n := by
    rw [Int.emod_def v, mul_assoc, Int.sub_mul_ediv_left _ _ (pow_ne_zero n two_ne_zero), Int.sub_mul_emod_self_left]
  have hlow : ((v % (2 ^ n * 2 ^ n)).toNat : Int) = v % (2 ^ n * 2 ^ n) := Int.toNat_of_nonneg (Int.emod_nonneg _ (by positivity))
  apply BitVec.eq_of_toInt_eq
  rw [BitVec.toInt_extractLsb', BitVec.toInt_ofInt, BitVec.toNat_ofInt, Nat.shiftRight_eq_div_pow, pow_add, ← Int.emod_bmod,
    ← Int.emod_bmod (v / 2 ^ n)]
  push_cast
  rw [hlow, hquot]

/-- The high half of a signed product, taken from the product of twice the width (R72, R88). -/
theorem extractLsb'_signExtend_mul {n : Nat} (x y : BitVec n) :
    (x.signExtend (n + n) * y.signExtend (n + n)).extractLsb' n n = BitVec.ofInt n (x.toInt * y.toInt / 2 ^ n) := by
  rw [← extractLsb'_ofInt, BitVec.ofInt_mul]
  rfl

/-- An arithmetic right shift fills with the top bit of its operand (R72, R88). -/
theorem sraBy_eq {n : Nat} (x : BitVec n) (k : Nat) :
    sraBy x k = if k ≥ n then (if x.getLsbD (n - 1) then BitVec.allOnes n else 0) else x.sshiftRight k := by
  rw [sraBy, BitVec.msb_eq_getLsbD_last]

/-- A choice by a signed comparison, told from the side of the value that it keeps when the two are equal (R72, R88). -/
theorem ite_slt_eq_ite_toInt_le {n : Nat} (x y u v : BitVec n) : (if x.slt y then u else v) = if y.toInt ≤ x.toInt then v else u := by
  simp only [BitVec.slt_iff_toInt_lt, ← Int.not_le, ite_not]

/-- The quotient of −2^63 by −1 wraps, so that it needs no case of its own in sdivValue (R73). -/
theorem sdivValue_eq (x y : Dbl) : sdivValue x y =
    if y = 0 then (0, 0x20#8)
    else if x = 0x8000000000000000 ∧ y = 0xFFFFFFFFFFFFFFFF then (0x8000000000000000, 0)
    else (BitVec.ofInt 64 (x.toInt.tdiv y.toInt), 0) := by
  unfold sdivValue
  split
  · rfl
  · split
    · next hwrap => obtain ⟨rfl, rfl⟩ := hwrap; decide
    · rfl

/-! ### The condition codes -/

/-- The table of R81, its signed and unsigned orders as those of the integers and of the naturals. -/
theorem scmpCond_eq (k : BitVec 3) (x y : Dbl) : scmpCond k x y =
    if k = 0 then decide (x = y)
    else if k = 1 then decide (x ≠ y)
    else if k = 2 then decide (x.toInt < y.toInt)
    else if k = 3 then decide (x.toInt ≥ y.toInt)
    else if k = 4 then decide (x.toNat < y.toNat)
    else if k = 5 then decide (x.toNat ≥ y.toNat)
    else if k = 6 then decide (x &&& y ≠ 0)
    else decide (x &&& y = 0) := by
  match k with
  | 0#3 => exact beq_eq_decide x y
  | 1#3 => simp [scmpCond, bne, beq_eq_decide]
  | 2#3 => exact BitVec.slt_eq_decide
  | 3#3 => simp [scmpCond, BitVec.slt_eq_decide, ← decide_not]
  | 4#3 => exact BitVec.ult_eq_decide
  | 5#3 => simp [scmpCond, BitVec.ult_eq_decide, ← decide_not]
  | 6#3 => simp [scmpCond, bne, beq_eq_decide]
  | 7#3 => exact beq_eq_decide ..

/-! ### The statements -/

/-- Settles O1: each word is scalarOp with the value of its rule; smulh, ssra, smin, smax and sdiv by the lemmas on their values. -/
theorem scalarBinaryResults : Obligations.ScalarBinaryResults := by
  refine ⟨fun c g wr d a b => ⟨?sadd, ?ssub, ?smul, ?smulh, ?sand, ?sor, ?sxor, ?sshl, ?sshr, ?ssra, ?smin, ?smax⟩,
    fun c g wr d a b => ?sdiv⟩
  case sadd => exact scalarOp_gives (exec_sadd c g wr d a b) fun _ _ => rfl
  case ssub => exact scalarOp_gives (exec_ssub c g wr d a b) fun _ _ => rfl
  case smul => exact scalarOp_gives (exec_smul c g wr d a b) fun _ _ => rfl
  case smulh =>
    exact scalarOp_gives (exec_smulh c g wr d a b) fun x _ => congrArg (·, 0) (extractLsb'_signExtend_mul (x a) (x b)).symm
  case sand => exact scalarOp_gives (exec_sand c g wr d a b) fun _ _ => rfl
  case sor => exact scalarOp_gives (exec_sor c g wr d a b) fun _ _ => rfl
  case sxor => exact scalarOp_gives (exec_sxor c g wr d a b) fun _ _ => rfl
  case sshl => exact scalarOp_gives (exec_sshl c g wr d a b) fun _ _ => rfl
  case sshr => exact scalarOp_gives (exec_sshr c g wr d a b) fun _ _ => rfl
  case ssra => exact scalarOp_gives (exec_ssra c g wr d a b) fun x _ => congrArg (·, 0) (sraBy_eq (x a) (x b).toNat)
  case smin => exact scalarOp_gives (exec_smin c g wr d a b) fun _ _ => congrArg (·, 0) (ite_slt_eq_ite_toInt_le ..)
  case smax => exact scalarOp_gives (exec_smax c g wr d a b) fun _ _ => congrArg (·, 0) (ite_slt_eq_ite_toInt_le ..)
  case sdiv => exact scalarOp_gives (exec_sdiv c g wr d a b) fun x _ => sdivValue_eq (x a) (x b)

/-- Settles O3: both compares are scalarCmp with the condition of R81, and a word that names p7 fails the check of its fields (R27). -/
theorem scalarCompare : Obligations.ScalarCompare := by
  intro c g wr k p a b im
  refine ⟨?scmp, ?scmpImm, ?p7, ?p7Imm⟩
  case scmp => exact scalarCmp_compares (exec_scmp c g wr k p a b) fun x => scmpCond_eq k (x a) (x b)
  case scmpImm => exact scalarCmp_compares (exec_scmpImm c g wr k p a im) fun x => scmpCond_eq k (x a) (im.signExtend 64)
  case p7 => rintro ⟨-, hfields⟩; simp [Instr.fieldsOk] at hfields
  case p7Imm => rintro ⟨-, hfields⟩; simp [Instr.fieldsOk] at hfields

end Sys2Proof.Machine
end

section
/-! SUPPORT. The integer and bitwise vector words (R88) and the vector compares (R91): the values that their meanings compute, each in the
terms of its rule, and what the words do with them. -/

namespace Sys2Proof.Machine

/-! ### Values of the integer words -/

/-- The high half of an unsigned product, taken from the product of twice the width (R88). -/
theorem extractLsb'_zeroExtend_mul {n : Nat} (x y : BitVec n) :
    (x.zeroExtend (n + n) * y.zeroExtend (n + n)).extractLsb' n n = BitVec.ofNat n (x.toNat * y.toNat / 2 ^ n) := by
  have hprod : x.toNat * y.toNat < 2 ^ (n + n) := by
    rw [pow_add]
    exact Nat.mul_lt_mul'' x.isLt y.isLt
  have hwide (z : BitVec n) : (z.zeroExtend (n + n)).toNat = z.toNat := BitVec.toNat_setWidth_of_le (Nat.le_add_right n n)
  apply BitVec.eq_of_toNat_eq
  rw [BitVec.extractLsb'_toNat, BitVec.toNat_mul, hwide, hwide, Nat.mod_eq_of_lt hprod, Nat.shiftRight_eq_div_pow, BitVec.toNat_ofNat]

/-- A choice by an unsigned comparison, told from the side of the value that it keeps when the two are equal (R88). -/
theorem ite_ult_eq_ite_toNat_le {n : Nat} (x y u v : BitVec n) : (if x.ult y then u else v) = if y.toNat ≤ x.toNat then v else u := by
  simp only [BitVec.ult_iff_toNat_lt, ← Nat.not_le, ite_not]

/-! ### The condition codes -/

/-- The integer table of R91, for an order that is that of the values v. -/
theorem vcmpCond_eq {signed : Bool} {v : Word32 → Int}
    (hlt : ∀ x y : Word32, (if signed then x.slt y else x.ult y) = decide (v x < v y)) (k : BitVec 3) (x y : Word32) :
    vcmpCond signed k x y =
      if k = 0 then decide (x = y)
      else if k = 1 then decide (x ≠ y)
      else if k = 2 then decide (v x < v y)
      else if k = 3 then decide (v x ≥ v y)
      else if k = 4 then decide (v x ≤ v y)
      else if k = 5 then decide (v x > v y)
      else if k = 6 then decide (x &&& y ≠ 0)
      else decide (x &&& y = 0) := by
  match k with
  | 0#3 | 7#3 => exact beq_eq_decide ..
  | 1#3 | 6#3 => simp [vcmpCond, bne, beq_eq_decide]
  | 2#3 | 5#3 => exact hlt ..
  | 3#3 | 4#3 => simp [vcmpCond, hlt, ← decide_not]

/-- The condition of R91 on f32 words, DAZ applied to both. -/
theorem f32Cond_fst (md : FpMode) (k : BitVec 3) (a b : Word32) :
    let x := dazWord md.daz a
    let y := dazWord md.daz b
    let uno := f32IsNan x || f32IsNan y
    (f32Cond md k a b).1 =
      if k = 0 then !uno && decide (f32Cmp x = f32Cmp y)
      else if k = 1 then uno || decide (f32Cmp x ≠ f32Cmp y)
      else if k = 2 then !uno && decide (f32Cmp x < f32Cmp y)
      else if k = 3 then !uno && decide (f32Cmp x ≥ f32Cmp y)
      else if k = 4 then !uno && decide (f32Cmp x ≤ f32Cmp y)
      else if k = 5 then !uno && decide (f32Cmp x > f32Cmp y)
      else if k = 6 then !uno
      else uno := by
  match k with
  | 0#3 | 1#3 | 2#3 | 3#3 | 4#3 | 5#3 | 6#3 | 7#3 => rfl

/-- The conditions lt, ge, le and gt of R91 are those of the numbers 2 to 5. -/
theorem isOrder_eq (k : BitVec 3) : (decide (2 ≤ k.toNat) && decide (k.toNat ≤ 5)) = decide (k = 2 ∨ k = 3 ∨ k = 4 ∨ k = 5) := by
  match k with
  | 0#3 | 1#3 | 2#3 | 3#3 | 4#3 | 5#3 | 6#3 | 7#3 => rfl

/-- NV is raised by a signalling NaN, and by any NaN under lt, ge, le and gt (R91). -/
theorem f32Cond_snd (md : FpMode) (k : BitVec 3) (a b : Word32) :
    let x := dazWord md.daz a
    let y := dazWord md.daz b
    (f32Cond md k a b).2 =
      if f32IsSnan x || f32IsSnan y || ((f32IsNan x || f32IsNan y) && decide (k = 2 ∨ k = 3 ∨ k = 4 ∨ k = 5)) then 1 else 0 := by
  simp only [f32Cond, flagIf, flNV, Bool.and_assoc, isOrder_eq]

/-! ### The statements -/

/-- Settles O4: each word is vecOp with the value of its rule; the high halves, the minima and maxima, vsra and vclampI32 by the lemmas on
their values. -/
theorem vectorIntegerResults : Obligations.VectorIntegerResults := by
  intro c g wr d a b
  refine ⟨?vaddI32, ?vsubI32, ?vmulI32, ?vmulhI32, ?vmulhN32, ?vmadI32, ?vminI32, ?vmaxI32, ?vminN32, ?vmaxN32, ?vand, ?vor, ?vxor, ?vshl,
    ?vshr, ?vsra, ?vclampI32⟩
  case vaddI32 => exact vecOp_gives (exec_vaddI32 c g wr d a b) fun _ _ _ _ => rfl
  case vsubI32 => exact vecOp_gives (exec_vsubI32 c g wr d a b) fun _ _ _ _ => rfl
  case vmulI32 => exact vecOp_gives (exec_vmulI32 c g wr d a b) fun _ _ _ _ => rfl
  case vmulhI32 =>
    exact vecOp_gives (exec_vmulhI32 c g wr d a b) fun _ x y _ => congrArg (·, 0) (extractLsb'_signExtend_mul x y).symm
  case vmulhN32 =>
    exact vecOp_gives (exec_vmulhN32 c g wr d a b) fun _ x y _ => congrArg (·, 0) (extractLsb'_zeroExtend_mul x y).symm
  case vmadI32 => exact vecOp_gives (exec_vmadI32 c g wr d a b) fun _ _ _ _ => rfl
  case vminI32 => exact vecOp_gives (exec_vminI32 c g wr d a b) fun _ _ _ _ => congrArg (·, 0) (ite_slt_eq_ite_toInt_le ..)
  case vmaxI32 => exact vecOp_gives (exec_vmaxI32 c g wr d a b) fun _ _ _ _ => congrArg (·, 0) (ite_slt_eq_ite_toInt_le ..)
  case vminN32 => exact vecOp_gives (exec_vminN32 c g wr d a b) fun _ _ _ _ => congrArg (·, 0) (ite_ult_eq_ite_toNat_le ..)
  case vmaxN32 => exact vecOp_gives (exec_vmaxN32 c g wr d a b) fun _ _ _ _ => congrArg (·, 0) (ite_ult_eq_ite_toNat_le ..)
  case vand => exact vecOp_gives (exec_vand c g wr d a b) fun _ _ _ _ => rfl
  case vor => exact vecOp_gives (exec_vor c g wr d a b) fun _ _ _ _ => rfl
  case vxor => exact vecOp_gives (exec_vxor c g wr d a b) fun _ _ _ _ => rfl
  case vshl => exact vecOp_gives (exec_vshl c g wr d a b) fun _ _ _ _ => rfl
  case vshr => exact vecOp_gives (exec_vshr c g wr d a b) fun _ _ _ _ => rfl
  case vsra => exact vecOp_gives (exec_vsra c g wr d a b) fun _ x y _ => congrArg (·, 0) (sraBy_eq x y.toNat)
  case vclampI32 =>
    exact vecOp_gives (exec_vclampI32 c g wr d a b) fun _ x y old => by simp only [BitVec.slt_iff_toInt_lt]

/-- Settles O9: the three compares are vecCmp with the condition of R91, in the order of the integers, of the naturals and of f32Cmp. -/
theorem vectorCompare : Obligations.VectorCompare := by
  refine ⟨fun c g wr k p a b => ⟨?vcmpI32, ?vcmpN32⟩, ?zeros, fun c g wr k p a b => ?vcmpF32⟩
  case vcmpI32 =>
    exact vecCmp_compares (exec_vcmpI32 c g wr k p a b) fun _ x y =>
      congrArg (·, 0) (vcmpCond_eq (signed := true) (v := fun v => v.toInt) (fun _ _ => BitVec.slt_eq_decide) k x y)
  case vcmpN32 =>
    exact vecCmp_compares (exec_vcmpN32 c g wr k p a b) fun _ x y =>
      congrArg (·, 0) (vcmpCond_eq (signed := false) (v := fun v => (v.toNat : Int)) (fun _ _ => by simp [BitVec.ult_eq_decide]) k x y)
  case zeros => decide
  case vcmpF32 =>
    exact vecCmp_compares (exec_vcmpF32 c g wr k p a b) fun md x y => Prod.ext (f32Cond_fst md k x y) (f32Cond_snd md k x y)

end Sys2Proof.Machine
end

section
/-! SUPPORT. The home slice of an HBM address (R182): fields of a number by quotients, and what an address's line tells of them. -/

namespace Sys2Proof.Machine

/-! ### Fields of a number -/

/-- Bits hi down to lo as a quotient and a remainder (R4). -/
theorem natBits_eq_div_mod (n hi lo : Nat) : natBits n hi lo = n / 2 ^ lo % 2 ^ (hi + 1 - lo) := by
  rw [natBits, Nat.shiftRight_eq_div_pow]

/-- A field that begins at bit k or above is the same for all numbers that agree above bit k. -/
theorem natBits_congr_div {n m k lo : Nat} (hk : k ≤ lo) (h : n / 2 ^ k = m / 2 ^ k) (hi : Nat) : natBits n hi lo = natBits m hi lo := by
  have hquot (x : Nat) : x / 2 ^ lo = x / 2 ^ k / 2 ^ (lo - k) := by
    rw [Nat.div_div_eq_div_mul, ← pow_add, Nat.add_sub_cancel' hk]
  rw [natBits_eq_div_mod, natBits_eq_div_mod, hquot n, hquot m, h]

/-! ### Sectors and home slices -/

/-- The sector of an address in HBM is its quotient by 2^35 (R180). -/
theorem paSector_eq_div {pa : Nat} (hhbm : pa < 2 ^ 39) : paSector pa = pa / 2 ^ 35 := by
  rw [paSector, natBits_eq_div_mod]
  exact Nat.mod_eq_of_lt (Nat.div_lt_of_lt_mul hhbm)

/-- The home slice by the formula of R182, four slices for each sector. -/
theorem paSlice_eq (pa : Nat) :
    paSlice pa = paSector pa * 4 + (((pa / 2 ^ 7 % 4) ^^^ (pa / 2 ^ 13 % 4)) ^^^ (pa / 2 ^ 19 % 4)) := by
  simp only [paSlice, natBits_eq_div_mod]
  rfl

/-- The exclusive or of three two-bit fields has two bits. -/
theorem xor_mod_four_lt (x y z : Nat) : ((x % 4) ^^^ (y % 4)) ^^^ (z % 4) < 4 := by
  have hlt (v : Nat) : v % 4 < 2 ^ 2 := Nat.mod_lt v (by decide)
  exact Nat.xor_lt_two_pow (Nat.xor_lt_two_pow (hlt x) (hlt y)) (hlt z)

/-- The 16 slices of a die are numbered in a row (R11). -/
theorem sliceDie_of_lt (die : Nat) {n : Nat} (hn : n < 16) : sliceDie (16 * die + n) = die := by
  rw [sliceDie]
  omega

/-- Two addresses of one line have one home slice: every bit of R182's formula is bit 7 or above. -/
theorem paSlice_of_sameLine {a b : Nat} (hline : a / 128 = b / 128) : paSlice a = paSlice b := by
  have hfield (hi : Nat) {lo : Nat} (hlo : 7 ≤ lo) : natBits a hi lo = natBits b hi lo := natBits_congr_div hlo hline hi
  rw [paSlice, paSlice, paSector, paSector, hfield 38 (by decide), hfield 8 (by decide), hfield 14 (by decide), hfield 20 (by decide)]

/-! ### The statement -/

/-- Settles O60: in sector 4 · die + j the formula gives slice 4j + h of the die, which is one of its 16 as j and h are below 4. -/
theorem homeSlice : Obligations.HomeSlice := by
  intro pa die j _ hj hhbm hsector h
  have hh : h < 4 := xor_mod_four_lt _ _ _
  have hslice : paSlice pa = 16 * die + (4 * j + h) := by
    rw [paSlice_eq, paSector_eq_div hhbm, hsector]
    change (die * 4 + j) * 4 + h = _
    ring
  refine ⟨hh, hslice, ?die, fun b hb => paSlice_of_sameLine ?line⟩
  case die => rw [hslice]; exact sliceDie_of_lt die (by omega)
  case line => omega

end Sys2Proof.Machine
end
